-- ==== Sys2Proof/Word.lean ====
section
/-! DEFINITION. Sys2Proof/Word.lean: the word types of the VF-40 and their plainest arithmetic. -/

namespace Sys2Proof

/-- A 64-bit scalar: a queue entry, a latch, a control register (R20). -/
abbrev W64 := BitVec 64
/-- One slot word, header word or packet word (R51). -/
abbrev W32 := BitVec 32
/-- One byte of memory. -/
abbrev Byte := BitVec 8

/-- A truth value as one bit. -/
def bit (b : Bool) : BitVec 1 := BitVec.ofBool b

/-- Bits `[lo + n - 1 : lo]` of a natural number. -/
def field (x lo n : Nat) : Nat := (x >>> lo) % 2 ^ n

/-- The two's-complement reading of the low `n` bits of `x`. -/
def signedNat (n x : Nat) : Int :=
  let y := x % 2 ^ n
  if n = 0 then 0 else if y < 2 ^ (n - 1) then (y : Int) else (y : Int) - (2 ^ n : Nat)

/-- An integer wrapped into a 64-bit word. -/
def wrap64 (x : Int) : W64 := BitVec.ofInt 64 x

end Sys2Proof
end

