-- ==== Sys2Proof/Config.lean ====
section
/-! DEFINITION. Sys2Proof/Config.lean: what an implementation fixes and the free values. A constant with no body is a free
value: nothing can evaluate it, so a statement that mentions it holds for every value of it. -/

namespace Sys2Proof.Config

/-- Free value (R380): how many cycles past the first admissible one a non-local access performs. Drawn by number. -/
opaque performDelay : Nat → Nat
/-- Free value (R380): how many cycles later than its nominal latency a memory item arrives. Drawn by number. -/
opaque lateness : Nat → Nat
/-- Free value (R200, R203, R205): cycles until the next block, element or window of a unit behind the program is due. -/
opaque unitDelay : Nat → Nat
/-- Free value (R200): which of the blocks of a copy that remain is done next (taken modulo their number). -/
opaque blockChoice : Nat → Nat
/-- Free value (R342): cycles from a trap record to the action of the resident service. -/
opaque serviceDelay : Nat → Nat
/-- Free value (R175, R177): is the scratchpad bank of another core awake and not being saved when an access reaches it? -/
opaque peerBankOpen : Nat → Nat → Bool
/-- Free value (R22): is a mailbox of another core's stream declared and its stream running when a push reaches it? -/
opaque peerMailbox : Nat → Nat → Bool
/-- Free value (R350): is the context of a mailbox's stream on another core saved, being saved or coming back? -/
opaque peerSaved : Nat → Nat → Bool
/-- Free value (R39): a byte read from another core's accumulator window, drawn by number. -/
opaque peerByte : Nat → Nat → Byte
/-- Free value (R293): the power of the core, in units of 0.01 W, measured over an 8-cycle window. -/
opaque corePower : Nat → Nat
/-- Free value (R293): the power of the other core of the series pair over an 8-cycle window, in units of 0.01 W. -/
opaque partnerPower : Nat → Nat
/-- The module's idle power in units of 0.01 W, the value of R at reset (R295); the manual gives no figure. -/
opaque idlePower : Nat
/-- Free value (R309): can some installable path set carry a class rate? -/
opaque rateCarried : Nat → Bool
/-- Free value (R78): the tasks of an object, each with a kernel header; the file layout does not record their number. -/
opaque taskCount : List Byte → Nat
/-- Free value (R49, R78): the header of the `.block` directive that covers a data block of an object, where one does; the file layout
does not record it. -/
opaque blockDirective : List Byte → Nat → Option (BitVec 16)
/-- Free value (R336, R337): the SHA3-512 digest of some bytes (FIPS 202). -/
opaque digest : List Byte → BitVec 512
/-- Free value (R337): the 4627 bytes of the device's signature over a digest, as a number (FIPS 204). -/
opaque signature : BitVec 512 → Nat
/-- Free value (R336): does the trailing signature of an object verify under a key? -/
opaque signatureGood : Nat → List Byte → Bool
/-- Free value (R336): the bytes of the two firmware images as the device is delivered: image B? -/
opaque factoryImage : Bool → List Byte
/-- Free value (R336, R337): the contents of a boot stage in an image. -/
opaque stageContents : Nat → List Byte → List Byte
/-- Free value (R336, R368): does what a boot stage checks of an image verify: stage 1 at stage 0, the firmware image from stage 1 on? -/
opaque stageVerifies : Nat → List Byte → Bool
/-- The serial number of the device (R374). -/
opaque serial : BitVec 128
/-- Free value (R300, R366): the PTP time, in nanoseconds, at a cycle count. -/
opaque ptpTime : Nat → Nat
/-- Free value (R361): the signature store's expected lane results of a probe, by engine slot and signature index. -/
opaque probeExpected : Nat → Nat → Nat
/-- Free value (R360, R361): the signature that a probe of a sweep takes for an engine slot, by draw. -/
opaque sweepSignature : Nat → Nat → Nat
/-- Free value (R361): the lanes that an engine computes for a probe of a sweep, by draw. -/
opaque sweepLanes : Nat → Nat

/-- Free value: the stored bits that a RAW byte takes when it is converted into a format (R184 gives RAW no value). -/
opaque rawElem : Nat → Nat → Nat
/-- Free value (R194): has a refresh group crossed its refresh-doubling threshold upward? The manual gives no threshold. -/
opaque refreshHot : Nat → Bool

/-- Free value (R292): the wakes that the other core of the series pair issues in an 8-cycle window: cycle of the window and domain. -/
opaque partnerWakes : Nat → List (Nat × Nat)
/-- Free value (R291): has the other core of the pair lost its wakes with a context that was discarded? -/
opaque partnerDrops : Nat → Bool
/-- Free value (R293): the ballast segments that the balance monitors of other pairs have switched on. -/
opaque otherSegments : Nat → List Nat
/-- Free value (R296): the power of the filler gangs of the device, in units of 0.01 W. -/
opaque fillerPower : Nat → Nat
/-- Free value (R296): does the resident service place a filler gang on this core's free secondary stream? -/
opaque fillerHere : Nat → Bool
/-- Free value (R19, R296): has a filler gang a bundle ready in a cycle? -/
opaque fillerReady : Nat → Bool
/-- Free value (R18, R296): the slot mask of a filler gang's bundle. -/
opaque fillerMask : Nat → BitVec 8
/-- Free value (R298): the pump speed that the observer requests. -/
opaque pumpSpeed : Nat → Nat
/-- Free value (R301): has the power firmware signalled in a millisecond? -/
opaque firmwareSignals : Nat → Bool
/-- Free value (R301): the current limit of the pair that the firmware sets, in units of 0.01 W, where it sets one. -/
opaque pairLimit : Nat → Option Nat
/-- Free value (R295): module power, in units of 0.01 W. -/
opaque modulePower : Nat → Nat
/-- Free value (R298): a predicted junction temperature, in °C, by draw and zone. -/
opaque zoneTemp : Nat → Nat → Nat
/-- Free value (R298): a valve opening, in %, by draw and zone. -/
opaque zoneValve : Nat → Nat → Nat
/-- Is the part a PVF40-P, whose valves stand on the board at targets of the I3C sideband (R374, R377)? -/
opaque boardValves : Bool
/-- Free value (R351): has another member of the gang issued a bundle since the last sample? -/
opaque peersAdvance : Nat → Bool
/-- Free value (R100): the cycle in which the member of a gang on another core finishes, by queue, step and core. -/
opaque memberEnds : Nat → Nat → Nat → Nat
/-- Free value (R287): tile tasks that the other members of a gang have ended. -/
opaque peersEnded : Nat → Nat
/-- Free value (R311): the flits that a data slot's schedule grants to a class on a link, by draw, link and class. -/
opaque grants : Nat → Nat → Nat → Nat
/-- Free value (R311): the flits for which a link has room in a slack slot or a held slot, by draw and link. -/
opaque slackRoom : Nat → Nat → Nat
/-- Free value (R309): the links of a path, by installed path set, class, destination device and fragment index. -/
opaque pathLinks : Nat → Nat → Nat → Nat → List Nat
/-- Free value (R309): are new path sets installed at a period boundary? -/
opaque pathsInstalled : Nat → Bool
/-- Free value (R310, R382): the slots until the period boundary at which the schedule of a domain takes effect on this device. -/
opaque joinSlots : Nat → Nat
/-- Free value (R312): do the links of this device hold an old fragment of another core, or one in transit? -/
opaque deviceOverruns : Nat → Bool
/-- Free value (R312): does another device of the domain report overrun? -/
opaque peerOverrun : Nat → Bool
/-- Free value (R382): how a slot differs from 2400 c: 0 one cycle less, 1 none, 2 one more (taken modulo 3). -/
opaque slotDrift : Nat → Nat
/-- Free value (R382): the period count of a domain that the device joins. -/
opaque domainPeriod : Nat → Nat
/-- The number of this device in its fabric domain (R303). -/
opaque deviceNo : Nat
/-- Free value (R368): the cause in the status code of a start that has run out of time, or that finds an image which does not verify. -/
opaque startCause : Nat → Nat

end Sys2Proof.Config
end

