-- ==== Sys2Proof/Syntax.lean ====
section
/-! DEFINITION. Sys2Proof/Syntax.lean: the instruction words and the events of the VF-40, one constructor per row of the
opcode table. The operands of a word stand in a structure named after its slot format (R61 to R66); a format that some
instructions use only in part has one structure per part, so that a field a word does not take does not exist. -/

namespace Sys2Proof

/-- A guard: predicate p0 to p15 and its negation (R56). -/
structure Guard where
  neg : Bool
  p   : BitVec 4
  deriving DecidableEq, Repr

/-- A scalar source named by an operand specifier and its keep bit (R58, R59). -/
inductive Src where
  | zero
  | queue (q : BitVec 5) (keep : Bool)    -- q1 to q31
  | latchA (slot : BitVec 3)              -- l0a to l7a
  | latchB (slot : BitVec 3)              -- l0b to l7b
  | port (s : BitVec 3) (keep : Bool)     -- s0 to s7
  | tx | ty | tz | tix | cyc | ones
  deriving DecidableEq, Repr

/-- A scalar destination: a queue (W = 1), or the latches only (W = 0, DQ = 0) (R59). -/
inductive Dst where
  | none
  | queue (q : BitVec 5)
  deriving DecidableEq, Repr

/-- The two integer slots (R17). -/
inductive ISlot where
  | I | J
  deriving DecidableEq, Repr

/-- The eight slots of a bundle (R17). -/
inductive Slot where
  | C | I | J | V | W | M | L | X
  deriving DecidableEq, Repr

/-- The two bundle streams of a core (R18). -/
inductive Sid where
  | prim | sec
  deriving DecidableEq, Repr

/-- The slot number 0 to 7 (R17). -/
def Slot.idx : Slot → Nat
  | .C => 0 | .I => 1 | .J => 2 | .V => 3 | .W => 4 | .M => 5 | .L => 6 | .X => 7

/-- The slot of an integer word. -/
def ISlot.slot : ISlot → Slot
  | .I => .I | .J => .J

/-- Operands of a word with a guard only (RET, END, MSWAP). -/
structure FG where
  g : Guard
  deriving DecidableEq, Repr

/-- Operands of format CB. -/
structure CB where
  g : Guard
  off : BitVec 21
  deriving DecidableEq, Repr

/-- Operands of format CR with source A only. -/
structure CA where
  g : Guard
  a : Src
  deriving DecidableEq, Repr

/-- Operands of format CL. -/
structure CL where
  g : Guard
  a : Src
  len : BitVec 10
  stages : BitVec 4
  deriving DecidableEq, Repr

/-- Operands of format CS. -/
structure CS where
  g : Guard
  safe : Bool
  commit : Bool
  id : BitVec 16
  deriving DecidableEq, Repr

/-- Operands of format CN of RDV. -/
structure CN where
  g : Guard
  n : BitVec 4
  id : BitVec 16
  deriving DecidableEq, Repr

/-- Operands of format CN of BAR. -/
structure CNB where
  g : Guard
  n : BitVec 4
  deriving DecidableEq, Repr

/-- Operands of format CN of TRAP. -/
structure CNT where
  g : Guard
  imm : BitVec 16
  deriving DecidableEq, Repr

/-- Operands of format CD. -/
structure CD where
  g : Guard
  dom : BitVec 5
  deriving DecidableEq, Repr

/-- Operands of format CR with sources A and B. -/
structure CAB where
  g : Guard
  a : Src
  b : Src
  deriving DecidableEq, Repr

/-- Operands of format CR with destination and both sources. -/
structure CDAB where
  g : Guard
  d : Dst
  a : Src
  b : Src
  deriving DecidableEq, Repr

/-- Operands of format CR with destination and source A. -/
structure CDA where
  g : Guard
  d : Dst
  a : Src
  deriving DecidableEq, Repr

/-- Operands of format CK. -/
structure CK where
  g : Guard
  t : BitVec 4
  grp : BitVec 4
  a : Src
  deriving DecidableEq, Repr

/-- Operands of format CCR. -/
structure CCR where
  g : Guard
  idx : BitVec 12
  d : Dst
  deriving DecidableEq, Repr

/-- Operands of format CCW. -/
structure CCW where
  g : Guard
  idx : BitVec 12
  a : Src
  deriving DecidableEq, Repr

/-- Operands of format IA. -/
structure IA where
  g : Guard
  slot : ISlot
  d : Dst
  a : Src
  b : Src
  m : Bool
  deriving DecidableEq, Repr

/-- Operands of format IA without source B. -/
structure IA1 where
  g : Guard
  slot : ISlot
  d : Dst
  a : Src
  m : Bool
  deriving DecidableEq, Repr

/-- Operands of format IL. -/
structure IL where
  g : Guard
  slot : ISlot
  q : BitVec 5
  imm : BitVec 16
  deriving DecidableEq, Repr

/-- Operands of format II. -/
structure II where
  g : Guard
  slot : ISlot
  q : BitVec 5
  a : Src
  imm : BitVec 9
  deriving DecidableEq, Repr

/-- Operands of format IC. -/
structure IC where
  g : Guard
  slot : ISlot
  pd : BitVec 4
  cond : BitVec 3
  a : Src
  b : Src
  deriving DecidableEq, Repr

/-- Operands of format IP. -/
structure IP where
  g : Guard
  slot : ISlot
  pd : BitVec 4
  pa : BitVec 4
  pb : BitVec 4
  tt : BitVec 4
  deriving DecidableEq, Repr

/-- Operands of format IQ of QCNT. -/
structure IQC where
  g : Guard
  slot : ISlot
  d : Dst
  q : BitVec 5
  deriving DecidableEq, Repr

/-- Operands of format IQ of QDROP. -/
structure IQD where
  g : Guard
  slot : ISlot
  q : BitVec 5
  n : BitVec 3
  deriving DecidableEq, Repr

/-- Operands of format ISW. -/
structure ISW where
  g : Guard
  sr : BitVec 3
  f : BitVec 5
  a : Src
  deriving DecidableEq, Repr

/-- Operands of format ISR. -/
structure ISR where
  g : Guard
  d : Dst
  sr : BitVec 3
  f : BitVec 5
  shadow : Bool
  deriving DecidableEq, Repr

/-- Operands of format IA of a floating-point word (J only, M zero). -/
structure FA where
  g : Guard
  d : Dst
  a : Src
  b : Src
  deriving DecidableEq, Repr

/-- Operands of format IA of FSQRT. -/
structure FA1 where
  g : Guard
  d : Dst
  a : Src
  deriving DecidableEq, Repr

/-- Operands of format IC of FCMP (J only). -/
structure FC where
  g : Guard
  pd : BitVec 4
  cond : BitVec 3
  a : Src
  b : Src
  deriving DecidableEq, Repr

/-- Operands of format IF. -/
structure IF where
  g : Guard
  d : Dst
  a : Src
  kind : BitVec 3
  rnd : BitVec 3
  deriving DecidableEq, Repr

/-- Operands of format VT with mode. -/
structure VT where
  g : Guard
  td : BitVec 4
  ta : BitVec 4
  tb : BitVec 4
  grp : BitVec 4
  mask : BitVec 3
  mode : BitVec 2
  deriving DecidableEq, Repr

/-- Operands of format VT with mode 00. -/
structure VT0 where
  g : Guard
  td : BitVec 4
  ta : BitVec 4
  tb : BitVec 4
  grp : BitVec 4
  mask : BitVec 3
  deriving DecidableEq, Repr

/-- Operands of format VT with one source tile and mode 00. -/
structure VT1 where
  g : Guard
  td : BitVec 4
  ta : BitVec 4
  grp : BitVec 4
  mask : BitVec 3
  deriving DecidableEq, Repr

/-- Operands of format VT with one source tile and a mode (VSQRT). -/
structure VTM where
  g : Guard
  td : BitVec 4
  ta : BitVec 4
  grp : BitVec 4
  mask : BitVec 3
  mode : BitVec 2
  deriving DecidableEq, Repr

/-- Operands of format VS. -/
structure VS where
  g : Guard
  td : BitVec 4
  ta : BitVec 4
  grp : BitVec 4
  a : Src
  mask : BitVec 2
  deriving DecidableEq, Repr

/-- Operands of format VS without source tile. -/
structure VS1 where
  g : Guard
  td : BitVec 4
  grp : BitVec 4
  a : Src
  mask : BitVec 2
  deriving DecidableEq, Repr

/-- Operands of format VC. -/
structure VC where
  g : Guard
  md : BitVec 3
  ta : BitVec 4
  tb : BitVec 4
  grp : BitVec 4
  cond : BitVec 3
  mask : BitVec 3
  deriving DecidableEq, Repr

/-- Operands of format VCS. -/
structure VCS where
  g : Guard
  md : BitVec 3
  ta : BitVec 4
  grp : BitVec 4
  cond : BitVec 3
  a : Src
  deriving DecidableEq, Repr

/-- Operands of format WC. -/
structure WC where
  g : Guard
  td : BitVec 4
  ta : BitVec 4
  grp : BitVec 4
  fmt : BitVec 4
  slice : BitVec 3
  sat : Bool
  sto : Bool
  deriving DecidableEq, Repr

/-- Operands of format WR. -/
structure WR where
  g : Guard
  d : Dst
  ta : BitVec 4
  grp : BitVec 4
  op : BitVec 3
  mask : BitVec 3
  deriving DecidableEq, Repr

/-- Operands of format WD. -/
structure WD where
  g : Guard
  xv : BitVec 2
  ta : BitVec 4
  tb : BitVec 4
  grp : BitVec 4
  mask : BitVec 3
  deriving DecidableEq, Repr

/-- Operands of format WX. -/
structure WX where
  g : Guard
  d : Dst
  xv : BitVec 2
  rnd : BitVec 3
  clr : Bool
  deriving DecidableEq, Repr

/-- Operands of format WX of VXCLR. -/
structure WXC where
  g : Guard
  xv : BitVec 2
  deriving DecidableEq, Repr

/-- Operands of format WM. -/
structure WM where
  g : Guard
  md : BitVec 3
  ma : BitVec 3
  mb : BitVec 3
  tt : BitVec 4
  deriving DecidableEq, Repr

/-- Operands of format WQ, direction 0. -/
structure WQT where
  g : Guard
  k : BitVec 3
  a : Src
  deriving DecidableEq, Repr

/-- Operands of format WQ, direction 1. -/
structure WQF where
  g : Guard
  k : BitVec 3
  d : Dst
  deriving DecidableEq, Repr

/-- Operands of format WH, direction 1. -/
structure WHR where
  g : Guard
  t : BitVec 4
  grp : BitVec 4
  q : BitVec 5
  deriving DecidableEq, Repr

/-- Operands of format WH, direction 0. -/
structure WHW where
  g : Guard
  t : BitVec 4
  grp : BitVec 4
  a : Src
  deriving DecidableEq, Repr

/-- Operands of format MB. -/
structure MB where
  g : Guard
  t : BitVec 4
  grp : BitVec 4
  panel : BitVec 3
  pos : BitVec 6
  deriving DecidableEq, Repr

/-- Operands of format MT. -/
structure MT where
  g : Guard
  t : BitVec 4
  grp : BitVec 4
  deriving DecidableEq, Repr

/-- Operands of format MK of MSHIFT. -/
structure MKS where
  g : Guard
  s : Bool
  deriving DecidableEq, Repr

/-- Operands of format MK of MACC. -/
structure MK where
  g : Guard
  panel : BitVec 3
  xg : BitVec 2
  s : Bool
  deriving DecidableEq, Repr

/-- Operands of format MK of MCLR. -/
structure MKX where
  g : Guard
  xg : BitVec 2
  deriving DecidableEq, Repr

/-- Operands of format MD. -/
structure MD where
  g : Guard
  t : BitVec 4
  grp : BitVec 4
  xg : BitVec 2
  fmt : BitVec 4
  rnd : BitVec 3
  clr : Bool
  auto : Bool
  dyn : Bool
  deriving DecidableEq, Repr

/-- Operands of format MS. -/
structure MS where
  g : Guard
  t : BitVec 4
  grp : BitVec 4
  xg : BitVec 2
  fmt : BitVec 4
  a : Src
  deriving DecidableEq, Repr

/-- Operands of format MX. -/
structure MX where
  g : Guard
  t : BitVec 4
  grp : BitVec 4
  row : BitVec 4
  cb : BitVec 2
  deriving DecidableEq, Repr

/-- Operands of format MQ. -/
structure MQ where
  g : Guard
  d : Dst
  row : BitVec 4
  col : BitVec 6
  deriving DecidableEq, Repr

/-- Operands of format LT. -/
structure LT where
  g : Guard
  t : BitVec 4
  grp : BitVec 4
  lsh : BitVec 2
  swap : Bool
  fmt : BitVec 4
  rnd : BitVec 3
  deriving DecidableEq, Repr

/-- Operands of format LA. -/
structure LA where
  g : Guard
  t : BitVec 4
  first : BitVec 6
  rows : BitVec 4
  a : Src
  deriving DecidableEq, Repr

/-- Operands of format LL of LD. -/
structure LL where
  g : Guard
  d : Dst
  width : BitVec 3
  a : Src
  deriving DecidableEq, Repr

/-- Operands of format LL with width 0. -/
structure LLH where
  g : Guard
  d : Dst
  a : Src
  deriving DecidableEq, Repr

/-- Operands of format LS of ST (A the value, B the address). -/
structure LS where
  g : Guard
  a : Src
  b : Src
  width : BitVec 3
  deriving DecidableEq, Repr

/-- Operands of format LS with width 0 (A the value, B the address). -/
structure LSH where
  g : Guard
  a : Src
  b : Src
  deriving DecidableEq, Repr

/-- Operands of format LF. -/
structure LF where
  g : Guard
  k : BitVec 3
  deriving DecidableEq, Repr

/-- Operands of formats LP and LV: two sources. -/
structure LP where
  g : Guard
  a : Src
  b : Src
  deriving DecidableEq, Repr

/-- Operands of format LC. -/
structure LC where
  g : Guard
  q : BitVec 5
  a : Src
  b : Src
  deriving DecidableEq, Repr

/-- Operands of format LY. -/
structure LY where
  g : Guard
  a : Src
  b : Src
  c : Src
  deriving DecidableEq, Repr

/-- Operands of format LR. -/
structure LR where
  g : Guard
  slice : BitVec 2
  group : BitVec 6
  deriving DecidableEq, Repr

/-- Operands of format XN. -/
structure XN where
  g : Guard
  l : BitVec 3
  a : Src
  deriving DecidableEq, Repr

/-- Operands of format XS. -/
structure XS where
  g : Guard
  l : BitVec 3
  dim : BitVec 3
  a : Src
  b : Src
  deriving DecidableEq, Repr

/-- Operands of format XB. -/
structure XB where
  g : Guard
  pair : BitVec 1
  swap : Bool
  a : Src
  ring : Bool
  deriving DecidableEq, Repr

/-- Operands of format XP of SBIND. -/
structure XP where
  g : Guard
  port : BitVec 3
  out : Bool
  xsh : BitVec 2
  swap : Bool
  deriving DecidableEq, Repr

/-- Operands of format XP of SUNB. -/
structure XPU where
  g : Guard
  port : BitVec 3
  deriving DecidableEq, Repr

/-- Operands of format XA. -/
structure XA where
  g : Guard
  ip : BitVec 3
  vp : BitVec 3
  a : Src
  b : Src
  deriving DecidableEq, Repr

/-- Operands of format XF. -/
structure XF where
  g : Guard
  a : Src
  deriving DecidableEq, Repr

/-- Operands of format XM. -/
structure XM where
  g : Guard
  cls : BitVec 3
  a : Src
  deriving DecidableEq, Repr

/-- Operands of format XQ. -/
structure XQ where
  g : Guard
  a : Src
  b : Src
  deriving DecidableEq, Repr

/-- Operands of format XT. -/
structure XT where
  g : Guard
  slot : BitVec 6
  deriving DecidableEq, Repr

/-- A page-table entry as the service is asked to install it: the virtual address and the 64-bit entry (R327). -/
structure Mapping where
  va    : Nat
  entry : W64
  deriving DecidableEq, Repr

/-- A request's header beside its kind, and how it came: the security association, and whether by Reliable Unordered Delivery, the one
service that carries requests (R332). -/
structure ReqHdr where
  id     : BitVec 32
  asid   : BitVec 12
  flags  : BitVec 8      -- [0] accept=trapping (LOAD only), [7:1] zero
  length : Nat           -- body bytes
  zeros  : Bool          -- bytes 2 to 3, 10 to 15, 20 to 23 and bits [15:12] of the ASID are zero
  assoc  : Nat
  rud    : Bool
  deriving DecidableEq, Repr

/-- The body of CREATE (R333, R324): rectangle, mappings, queues with priorities, classes with rates, security
association, signing keys (none: unsigned objects load), window mode and strict setting (R37). -/
structure CreateReq where
  hdr     : ReqHdr
  xmin    : BitVec 4
  xmax    : BitVec 4
  ymin    : BitVec 3
  ymax    : BitVec 3
  pages   : List Mapping
  queues  : List (BitVec 6 × BitVec 3)
  classes : List (BitVec 3 × W64)
  assoc   : Nat
  keys    : Option (List Nat)
  window  : Option Bool        -- some false: CHECK, some true: PROD
  strict  : Option Bool
  deriving DecidableEq, Repr

/-- LOAD: the bytes of the AVO object (R78). -/
structure LoadReq where
  hdr      : ReqHdr
  object   : List Byte
  deriving DecidableEq, Repr

/-- A step of a plan: the eight words of its launch record (R278) and its predecessors by queue and step (R277). -/
structure PostStep where
  record : List W64
  preds  : List (BitVec 6 × Nat)
  deriving DecidableEq, Repr

/-- POST: a plan for one queue (R333). -/
structure PostReq where
  hdr   : ReqHdr
  queue : BitVec 6
  steps : List PostStep
  deriving DecidableEq, Repr

/-- A fabric fragment as it arrives (R306): its header flit, payload bytes and block-header bytes. -/
structure Fragment where
  source   : BitVec 16
  dest     : BitVec 16
  asid     : BitVec 16
  cls      : BitVec 8      -- [2:0] class, [6:3] zero, [7] retransmitted
  index    : Nat
  k        : Nat
  m        : Nat
  tag      : BitVec 16
  seq      : BitVec 32
  len      : Nat
  fbytes   : Nat           -- F
  deadline : Nat
  offset   : BitVec 64
  zeros    : Bool          -- bytes 40 to 59 are zero
  crc      : BitVec 32
  payload  : List Byte
  heads    : List Byte
  deriving DecidableEq, Repr

/-- Whose access of another core it is: session, gang slot and member, as a race tag names them (R243, R245). -/
structure Peer where
  asid   : BitVec 12
  gslot  : BitVec 4
  member : BitVec 10
  deriving DecidableEq, Repr

/-- What an access of another core does at the memory this model holds (R246): a plain read; a store of at most 8 bytes of one
granule; a block header; the bits `mask` of a block with the header they leave, by a store (`unit` false) or by a copy or port;
a vault operation, or an SAE update as the VOADD it is; a PUBL or HAND of one block; a count into a sync word or a new target; a
post to a completion ring, by SIGNAL, a copy or an event. -/
inductive PeerOp where
  | read    (addr : BitVec 56)
  | write   (addr : BitVec 56) (bytes : List Byte)
  | header  (addr : BitVec 56) (hdr : BitVec 16)
  | block   (addr : BitVec 56) (payload mask : BitVec 512) (hdr : BitVec 16) (unit : Bool)
  | voadd   (addr : BitVec 56) (v : W32)
  | voadd64 (addr : BitVec 56) (v : W64)
  | vocas   (addr : BitVec 56) (old new : W64)
  | vosax   (y x : BitVec 56) (v : W32)
  | publ    (addr : BitVec 56)
  | hand    (addr : BitVec 56) (taker : BitVec 10)
  | sync    (addr : BitVec 56) (amt : BitVec 24)
  | synci   (addr : BitVec 56) (tgt : BitVec 24)
  | ring    (addr : BitVec 56) (status fault : BitVec 8) (count : W64)
  deriving DecidableEq, Repr

/-- An access that performs at a bank: one of this core's own (its number), or one of another core's. -/
inductive AccessRef where
  | own (id : Nat)
  | peer (p : Peer) (o : PeerOp)
  deriving DecidableEq, Repr

/-- A domain that wakes: of this core, or of the other core of its series pair (R292). -/
inductive DomRef where
  | own (dom : BitVec 5)
  | pair (dom : BitVec 5)
  deriving DecidableEq, Repr

/-- The barrier that completes: that of a stream of this core, or that of a gang that runs on other cores only (R91, R252). -/
inductive BarRef where
  | here (sid : Sid)
  | away (queue : BitVec 6) (num : Nat)
  deriving DecidableEq, Repr

/-- The probed engine, the index of the signature and the lanes the unit computed (R361). -/
structure Probe where
  slot  : Slot
  sig   : Nat
  lanes : Nat
  deriving DecidableEq, Repr

/-- The gang whose completion is meant: that of a stream of this core, or one that runs on other cores only, with its
fault code (0 for DONE), and whether the watchdog has killed it, which has the code of a member's WATCHDOG trap (R342, R352). -/
inductive GangRef where
  | here (sid : Sid) (fault : BitVec 8) (killed : Bool)
  | away (queue : BitVec 6) (num : Nat) (fault : BitVec 8) (killed : Bool)
  deriving DecidableEq, Repr

/-- A part that fails while the device runs (R309, R362, R365): a Villafel link; a port, of which 0 to 3 are Ultra Ethernet, 4 and 5 CXL;
the resident service's own memory, by an uncorrectable error; or any other part. -/
inductive Part where
  | link (n : Nat)
  | port (n : Nat)
  | serviceMemory
  | other
  deriving DecidableEq, Repr

/-- The instruction words and the events of the VF-40: one constructor per row of the opcode table. -/
inductive Instr where
  | br (o : CB)
  | call (o : CB)
  | bri (o : CA)
  | calli (o : CA)
  | ret (o : FG)
  | loop (o : CL)
  | seg (o : CS)
  | rdv (o : CN)
  | bar (o : CNB)
  | wake (o : CD)
  | sleep (o : CD)
  | waitg (o : CAB)
  | waitr (o : CDAB)
  | signal (o : CAB)
  | launch (o : CDA)
  | trap (o : CNT)
  | endTask (o : FG)
  | kchk (o : CK)
  | csrr (o : CCR)
  | csrw (o : CCW)
  | add (o : IA)
  | sub (o : IA)
  | mul (o : IA)
  | mulh (o : IA)
  | mulhn (o : IA)
  | divs (o : IA)
  | divn (o : IA)
  | rems (o : IA)
  | remn (o : IA)
  | and (o : IA)
  | or (o : IA)
  | xor (o : IA)
  | andn (o : IA)
  | shl (o : IA)
  | shrl (o : IA)
  | shra (o : IA)
  | mins (o : IA)
  | maxs (o : IA)
  | minn (o : IA)
  | maxn (o : IA)
  | clz (o : IA1)
  | popc (o : IA1)
  | bfx (o : IA)
  | bfi (o : IA)
  | lea (o : IA)
  | cmp (o : IC)
  | plog (o : IP)
  | mov (o : IA1)
  | ldiH0 (o : IL)
  | ldiH1 (o : IL)
  | ldiH2 (o : IL)
  | ldiH3 (o : IL)
  | addi (o : II)
  | qcnt (o : IQC)
  | qdrop (o : IQD)
  | shpw (o : ISW)
  | shpr (o : ISR)
  | fadd (o : FA)
  | fsub (o : FA)
  | fmul (o : FA)
  | fmac (o : FA)
  | fdiv (o : FA)
  | fsqrt (o : FA1)
  | fmin (o : FA)
  | fmax (o : FA)
  | fcmp (o : FC)
  | fcvt (o : IF)
  | vadd (o : VT)
  | vsub (o : VT)
  | vmul (o : VT)
  | vfma (o : VT)
  | vmin (o : VT0)
  | vmax (o : VT0)
  | vabs (o : VT1)
  | vneg (o : VT1)
  | vdiv (o : VT)
  | vsqrt (o : VTM)
  | vadds (o : VS)
  | vmuls (o : VS)
  | vfmas (o : VS)
  | viadd (o : VT0)
  | visub (o : VT0)
  | vimul (o : VT0)
  | vand (o : VT0)
  | vor (o : VT0)
  | vxor (o : VT0)
  | vshl (o : VT0)
  | vshr (o : VT0)
  | vcmp (o : VC)
  | vcmps (o : VCS)
  | vsel (o : VT0)
  | vmov (o : VT1)
  | vbcst (o : VS1)
  | viota (o : VS1)
  | vcvt (o : WC)
  | vperm (o : VT0)
  | vlsh (o : VS)
  | vrdx (o : WR)
  | vdot (o : WD)
  | vxdrn (o : WX)
  | vxclr (o : WXC)
  | vexp2 (o : VT1)
  | vlog2 (o : VT1)
  | vrcp (o : VT1)
  | vrsq (o : VT1)
  | vtanh (o : VT1)
  | vsigm (o : VT1)
  | vmsk (o : WM)
  | vmskqToMask (o : WQT)
  | vmskqFromMask (o : WQF)
  | vhdrRead (o : WHR)
  | vhdrWrite (o : WHW)
  | mbld (o : MB)
  | mpush (o : MT)
  | mshift (o : MKS)
  | macc (o : MK)
  | mswap (o : FG)
  | mdrain (o : MD)
  | mdrns (o : MS)
  | mclr (o : MKX)
  | mspill (o : MX)
  | mfill (o : MX)
  | mstat (o : MQ)
  | tld (o : LT)
  | tst (o : LT)
  | tlda (o : LA)
  | tsta (o : LA)
  | ld (o : LL)
  | st (o : LS)
  | ldh (o : LLH)
  | sth (o : LSH)
  | fence (o : LF)
  | synca (o : LP)
  | vref (o : LR)
  | voadd (o : LP)
  | voaddS64 (o : LP)
  | vocas (o : LC)
  | vosax (o : LY)
  | publ (o : LP)
  | hand (o : LY)
  | tagr (o : LLH)
  | lncnt (o : XN)
  | lnstr (o : XS)
  | bcopy (o : XB)
  | sbind (o : XP)
  | sunb (o : XPU)
  | saego (o : XA)
  | saef (o : XF)
  | send (o : XM)
  | recv (o : XM)
  | synci (o : XQ)
  | fslot (o : XT)
  | emptyBundle
  | secondaryHold
  | land
  | itemArrival (id : Nat)
  | accessPerforms (r : AccessRef)
  | lateCheckReplay (sid : Sid)
  | remotePushLands (sid : Sid) (q : BitVec 5) (v : W64)
  | segmentCheckpoint (sid : Sid)
  | barrierComplete (b : BarRef) (mismatch : Bool)
  | rendezvousComplete (sid : Sid) (mismatch : Bool)
  | waitgWake (sid : Sid)
  | waitrWake (sid : Sid)
  | fenceRelease (sid : Sid)
  | wrapSweepDone (gslot : BitVec 4)
  | domainAwake (d : DomRef)
  | copyBlockPost (id : Nat)
  | portPrefetch (sid : Sid) (port : BitVec 3)
  | outPortWrite (sid : Sid) (port : BitVec 3)
  | rowBufferFeedFill (sid : Sid)
  | saeWindowApply (sid : Sid)
  | refreshDue (slice : BitVec 2) (group : BitVec 6)
  | controllerRefresh (slice : BitVec 2) (group : BitVec 6)
  | columnDegraded (col : BitVec 7)
  | rewind (sid : Sid)
  | trapHandling (sid : Sid)
  | preemptionRequest (sid : Sid)
  | contextSave (sid : Sid)
  | contextRestore (sid : Sid)
  | watchdogSample
  | watchdogKill (sid : Sid)
  | gangStart (queue : BitVec 6)
  | gangCompletion (g : GangRef)
  | create (r : CreateReq)
  | load (r : LoadReq)
  | post (r : PostReq)
  | teardownQueue (h : ReqHdr) (queue : BitVec 6)
  | teardownSession (h : ReqHdr)
  | telemetry (h : ReqHdr)
  | blackbox (h : ReqHdr)
  | attest (h : ReqHdr) (nonce : BitVec 512)
  | diag (h : ReqHdr) (clear restart : Bool)
  | fwupdate (h : ReqHdr) (image : List Byte)
  | balanceWindow
  | rampStep
  | thermalObserverStep
  | thermalTrip (sensor : Nat) (temp : Nat)
  | thermalTripClear (sensor : Nat) (temp : Nat)
  | powerSample
  | powerFirmwareAbsent
  | powerFirmwarePresent
  | fabricSlot
  | fabricStatusPoint
  | holdTimeout
  | fragmentArrival (f : Fragment)
  | deadlineExpiry (cls : BitVec 3) (source : BitVec 15) (seq : BitVec 32)
  | retransmissionRequest (cls : BitVec 3) (seq : BitVec 32) (missing : BitVec 24)
  | fabricAck (copy : Nat) (seq : BitVec 32)
  | linkDown (part : Part)
  | probeOperation (p : Probe)
  | reset
  | bootStage (fails : Option (BitVec 8)) (lost : List (Nat × Nat))
  | startTimeout
  | railOutOfRange
  | rejoin
  | badkind (h : ReqHdr) (kind : BitVec 8) (body : List Byte)
  | redfishSettings (ramp : W64) (assoc : Nat)
  deriving DecidableEq, Repr

end Sys2Proof
end

