-- ==== Sys2Proof/WellFormed.lean ====
section
/-! DEFINITION. Sys2Proof/WellFormed.lean: the checks an instruction word passes when its encoding alone is judged. A word
that fails a `fieldOk` check raises ILLEGAL_FIELD, one that fails `operandOk` raises ILLEGAL_OPERAND (R59, R79). -/

namespace Sys2Proof

/-- The guard is not a negated p0 (R56). -/
def Guard.wf (g : Guard) : Bool := !(g.neg && g.p == 0)
/-- A queue source names q1 to q31 (R58). -/
def Src.wf : Src → Bool
  | .queue q _ => q != 0
  | _ => true
/-- A queue destination names q1 to q31 (R59). -/
def Dst.wf : Dst → Bool
  | .queue q => q != 0
  | .none => true

/-- Format codes 0x1 to 0xC (R59). -/
def fmtListed (f : BitVec 4) : Bool := 1 ≤ f.toNat && f.toNat ≤ 12
/-- The format field of TLD and TST: a listed code, or 0xF for keep (R65). -/
def typedFmtOk (f : BitVec 4) : Bool := fmtListed f || f == 0xF
/-- The integer formats S8, N8, S16, S32, S64 (R214). -/
def intFmt (f : BitVec 4) : Bool := 8 ≤ f.toNat && f.toNat ≤ 12
/-- The drain targets of R167. -/
def drainFmtOk (f : BitVec 4) : Bool := [2, 3, 4, 5, 6, 7, 8, 10, 11].contains f.toNat
/-- Element bits of a format (R212); 0 where it has no elements. -/
def elemBits : Nat → Nat
  | 2 => 4 | 3 => 8 | 4 => 8 | 8 => 8 | 9 => 8 | 5 => 16 | 6 => 16 | 10 => 16 | 7 => 32 | 11 => 32 | 12 => 64 | _ => 0
/-- Tile rows a drain of 256 elements writes (R167). -/
def drainRows (f : BitVec 4) : Nat := elemBits f.toNat / 2
/-- VCVT targets (R141). -/
def vcvtWiden (f : BitVec 4) : Bool := f == 7 || f == 11
def vcvtNarrow (f : BitVec 4) : Bool := [2, 3, 4, 5, 6, 8, 9, 10].contains f.toNat
/-- VCVT's field rules that the encoding fixes: the target, the slice count of a narrowing, the saturate bit (R141, R142).
A widening can never have more than 8 slices; its own count depends on the row header. -/
def vcvtOk (f : BitVec 4) (slice : BitVec 3) (sat : Bool) : Bool :=
  (vcvtWiden f && !sat) ||
  (vcvtNarrow f && decide (slice.toNat < 32 / elemBits f.toNat) && !(sat && intFmt f))
/-- FCVT's rounding codes: 0 to 4, and 0 only for the exact kinds 5 and 7 (R127). -/
def fcvtRndOk (kind rnd : BitVec 3) : Bool := decide (rnd.toNat < 5) && !((kind == 5 || kind == 7) && rnd != 0)

/-- The control-register map of R36. -/
def csrKnown (i : Nat) : Bool :=
  i ≤ 4 || (0x100 ≤ i && i ≤ 0x112) || i == 0x200 || i == 0x201 || (0x210 ≤ i && i ≤ 0x217) || i == 0x220
/-- A CSRW of a read-only register raises ILLEGAL_OPERAND; a privileged one raises PRIVILEGE instead (R36). -/
def csrWritable (i : Nat) : Bool := !(0x100 ≤ i && i ≤ 0x1FF)

/-- No field of the word holds a code that raises ILLEGAL_FIELD. -/
def Instr.fieldOk : Instr → Bool
  | .fcvt o => fcvtRndOk o.kind o.rnd
  | .vcvt o => vcvtOk o.fmt o.slice o.sat
  | .vrdx o => o.op.toNat < 6
  | .vxdrn o => o.rnd.toNat < 5
  | .mdrain o => drainFmtOk o.fmt && o.rnd.toNat < 6 && !(o.dyn && o.rnd != 0) && !(o.auto && intFmt o.fmt)
  | .mdrns o => drainFmtOk o.fmt
  | .tld o => typedFmtOk o.fmt && o.rnd.toNat < 6 && !(o.fmt == 0xF && o.rnd != 0)
  | .tst o => typedFmtOk o.fmt && o.rnd.toNat < 6 && !(o.fmt == 0xF && o.rnd != 0)
  | .tlda o => o.first.toNat + o.rows.toNat + 1 ≤ 64
  | .tsta o => o.first.toNat + o.rows.toNat + 1 ≤ 64
  | .ld o => o.width.toNat < 7
  | .st o => o.width.toNat % 2 == 0
  | .fence o => o.k.toNat < 5
  | _ => true

/-- No operand value fixed by the encoding raises ILLEGAL_OPERAND. -/
def Instr.operandOk : Instr → Bool
  | .loop o => o.len != 0 && o.stages != 0
  | .wake o => o.dom.toNat < 23
  | .sleep o => o.dom.toNat < 23
  | .csrr o => csrKnown o.idx.toNat
  | .csrw o => csrKnown o.idx.toNat && csrWritable o.idx.toNat
  | .ldiH0 o => o.q != 0
  | .ldiH1 o => o.q != 0
  | .ldiH2 o => o.q != 0
  | .ldiH3 o => o.q != 0
  | .addi o => o.q != 0
  | .qcnt o => o.q != 0
  | .qdrop o => o.q != 0 && 1 ≤ o.n.toNat && o.n.toNat ≤ 4
  | .vcmp o => o.md != 0
  | .vcmps o => o.md != 0
  | .vmsk o => o.md != 0
  | .vmskqToMask o => o.k != 0
  | .vhdrRead o => o.q != 0
  | .mpush o => o.grp.toNat ≤ 12
  | .mdrain o => 4 * o.grp.toNat + drainRows o.fmt ≤ 64
  | .mdrns o => 4 * o.grp.toNat + drainRows o.fmt ≤ 64
  | .mspill o => o.grp.toNat ≤ 10
  | .mfill o => o.grp.toNat ≤ 10
  | .vocas o => o.q != 0
  | .lncnt o => o.l.toNat < 6
  | .lnstr o => o.l.toNat < 6
  | .bcopy o => !(o.ring && o.a == .zero)
  | _ => true

/-- The guard, destination and sources of a word are ones an encoding can name. -/
def Instr.operandsWf : Instr → Bool
  | .br o => o.g.wf
  | .call o => o.g.wf
  | .bri o => o.g.wf && o.a.wf
  | .calli o => o.g.wf && o.a.wf
  | .ret o => o.g.wf
  | .loop o => o.g.wf && o.a.wf
  | .seg o => o.g.wf
  | .rdv o => o.g.wf
  | .bar o => o.g.wf
  | .wake o => o.g.wf
  | .sleep o => o.g.wf
  | .waitg o => o.g.wf && o.a.wf && o.b.wf
  | .waitr o => o.g.wf && o.d.wf && o.a.wf && o.b.wf
  | .signal o => o.g.wf && o.a.wf && o.b.wf
  | .launch o => o.g.wf && o.d.wf && o.a.wf
  | .trap o => o.g.wf
  | .endTask o => o.g.wf
  | .kchk o => o.g.wf && o.a.wf
  | .csrr o => o.g.wf && o.d.wf
  | .csrw o => o.g.wf && o.a.wf
  | .add o => o.g.wf && o.d.wf && o.a.wf && o.b.wf
  | .sub o => o.g.wf && o.d.wf && o.a.wf && o.b.wf
  | .mul o => o.g.wf && o.d.wf && o.a.wf && o.b.wf
  | .mulh o => o.g.wf && o.d.wf && o.a.wf && o.b.wf
  | .mulhn o => o.g.wf && o.d.wf && o.a.wf && o.b.wf
  | .divs o => o.g.wf && o.d.wf && o.a.wf && o.b.wf
  | .divn o => o.g.wf && o.d.wf && o.a.wf && o.b.wf
  | .rems o => o.g.wf && o.d.wf && o.a.wf && o.b.wf
  | .remn o => o.g.wf && o.d.wf && o.a.wf && o.b.wf
  | .and o => o.g.wf && o.d.wf && o.a.wf && o.b.wf
  | .or o => o.g.wf && o.d.wf && o.a.wf && o.b.wf
  | .xor o => o.g.wf && o.d.wf && o.a.wf && o.b.wf
  | .andn o => o.g.wf && o.d.wf && o.a.wf && o.b.wf
  | .shl o => o.g.wf && o.d.wf && o.a.wf && o.b.wf
  | .shrl o => o.g.wf && o.d.wf && o.a.wf && o.b.wf
  | .shra o => o.g.wf && o.d.wf && o.a.wf && o.b.wf
  | .mins o => o.g.wf && o.d.wf && o.a.wf && o.b.wf
  | .maxs o => o.g.wf && o.d.wf && o.a.wf && o.b.wf
  | .minn o => o.g.wf && o.d.wf && o.a.wf && o.b.wf
  | .maxn o => o.g.wf && o.d.wf && o.a.wf && o.b.wf
  | .clz o => o.g.wf && o.d.wf && o.a.wf
  | .popc o => o.g.wf && o.d.wf && o.a.wf
  | .bfx o => o.g.wf && o.d.wf && o.a.wf && o.b.wf
  | .bfi o => o.g.wf && o.d.wf && o.a.wf && o.b.wf
  | .lea o => o.g.wf && o.d.wf && o.a.wf && o.b.wf
  | .cmp o => o.g.wf && o.a.wf && o.b.wf
  | .plog o => o.g.wf
  | .mov o => o.g.wf && o.d.wf && o.a.wf
  | .ldiH0 o => o.g.wf
  | .ldiH1 o => o.g.wf
  | .ldiH2 o => o.g.wf
  | .ldiH3 o => o.g.wf
  | .addi o => o.g.wf && o.a.wf
  | .qcnt o => o.g.wf && o.d.wf
  | .qdrop o => o.g.wf
  | .shpw o => o.g.wf && o.a.wf
  | .shpr o => o.g.wf && o.d.wf
  | .fadd o => o.g.wf && o.d.wf && o.a.wf && o.b.wf
  | .fsub o => o.g.wf && o.d.wf && o.a.wf && o.b.wf
  | .fmul o => o.g.wf && o.d.wf && o.a.wf && o.b.wf
  | .fmac o => o.g.wf && o.d.wf && o.a.wf && o.b.wf
  | .fdiv o => o.g.wf && o.d.wf && o.a.wf && o.b.wf
  | .fsqrt o => o.g.wf && o.d.wf && o.a.wf
  | .fmin o => o.g.wf && o.d.wf && o.a.wf && o.b.wf
  | .fmax o => o.g.wf && o.d.wf && o.a.wf && o.b.wf
  | .fcmp o => o.g.wf && o.a.wf && o.b.wf
  | .fcvt o => o.g.wf && o.d.wf && o.a.wf
  | .vadd o => o.g.wf
  | .vsub o => o.g.wf
  | .vmul o => o.g.wf
  | .vfma o => o.g.wf
  | .vmin o => o.g.wf
  | .vmax o => o.g.wf
  | .vabs o => o.g.wf
  | .vneg o => o.g.wf
  | .vdiv o => o.g.wf
  | .vsqrt o => o.g.wf
  | .vadds o => o.g.wf && o.a.wf
  | .vmuls o => o.g.wf && o.a.wf
  | .vfmas o => o.g.wf && o.a.wf
  | .viadd o => o.g.wf
  | .visub o => o.g.wf
  | .vimul o => o.g.wf
  | .vand o => o.g.wf
  | .vor o => o.g.wf
  | .vxor o => o.g.wf
  | .vshl o => o.g.wf
  | .vshr o => o.g.wf
  | .vcmp o => o.g.wf
  | .vcmps o => o.g.wf && o.a.wf
  | .vsel o => o.g.wf
  | .vmov o => o.g.wf
  | .vbcst o => o.g.wf && o.a.wf
  | .viota o => o.g.wf && o.a.wf
  | .vcvt o => o.g.wf
  | .vperm o => o.g.wf
  | .vlsh o => o.g.wf && o.a.wf
  | .vrdx o => o.g.wf && o.d.wf
  | .vdot o => o.g.wf
  | .vxdrn o => o.g.wf && o.d.wf
  | .vxclr o => o.g.wf
  | .vexp2 o => o.g.wf
  | .vlog2 o => o.g.wf
  | .vrcp o => o.g.wf
  | .vrsq o => o.g.wf
  | .vtanh o => o.g.wf
  | .vsigm o => o.g.wf
  | .vmsk o => o.g.wf
  | .vmskqToMask o => o.g.wf && o.a.wf
  | .vmskqFromMask o => o.g.wf && o.d.wf
  | .vhdrRead o => o.g.wf
  | .vhdrWrite o => o.g.wf && o.a.wf
  | .mbld o => o.g.wf
  | .mpush o => o.g.wf
  | .mshift o => o.g.wf
  | .macc o => o.g.wf
  | .mswap o => o.g.wf
  | .mdrain o => o.g.wf
  | .mdrns o => o.g.wf && o.a.wf
  | .mclr o => o.g.wf
  | .mspill o => o.g.wf
  | .mfill o => o.g.wf
  | .mstat o => o.g.wf && o.d.wf
  | .tld o => o.g.wf
  | .tst o => o.g.wf
  | .tlda o => o.g.wf && o.a.wf
  | .tsta o => o.g.wf && o.a.wf
  | .ld o => o.g.wf && o.d.wf && o.a.wf
  | .st o => o.g.wf && o.a.wf && o.b.wf
  | .ldh o => o.g.wf && o.d.wf && o.a.wf
  | .sth o => o.g.wf && o.a.wf && o.b.wf
  | .fence o => o.g.wf
  | .synca o => o.g.wf && o.a.wf && o.b.wf
  | .vref o => o.g.wf
  | .voadd o => o.g.wf && o.a.wf && o.b.wf
  | .voaddS64 o => o.g.wf && o.a.wf && o.b.wf
  | .vocas o => o.g.wf && o.a.wf && o.b.wf
  | .vosax o => o.g.wf && o.a.wf && o.b.wf && o.c.wf
  | .publ o => o.g.wf && o.a.wf && o.b.wf
  | .hand o => o.g.wf && o.a.wf && o.b.wf && o.c.wf
  | .tagr o => o.g.wf && o.d.wf && o.a.wf
  | .lncnt o => o.g.wf && o.a.wf
  | .lnstr o => o.g.wf && o.a.wf && o.b.wf
  | .bcopy o => o.g.wf && o.a.wf
  | .sbind o => o.g.wf
  | .sunb o => o.g.wf
  | .saego o => o.g.wf && o.a.wf && o.b.wf
  | .saef o => o.g.wf && o.a.wf
  | .send o => o.g.wf && o.a.wf
  | .recv o => o.g.wf && o.a.wf
  | .synci o => o.g.wf && o.a.wf && o.b.wf
  | .fslot o => o.g.wf
  | .emptyBundle => true
  | .secondaryHold => true
  | .land => true
  | .itemArrival _ => true
  | .accessPerforms _ => true
  | .lateCheckReplay _ => true
  | .remotePushLands _ _ _ => true
  | .segmentCheckpoint _ => true
  | .barrierComplete _ _ => true
  | .rendezvousComplete _ _ => true
  | .waitgWake _ => true
  | .waitrWake _ => true
  | .fenceRelease _ => true
  | .wrapSweepDone _ => true
  | .domainAwake _ => true
  | .copyBlockPost _ => true
  | .portPrefetch _ _ => true
  | .outPortWrite _ _ => true
  | .rowBufferFeedFill _ => true
  | .saeWindowApply _ => true
  | .refreshDue _ _ => true
  | .controllerRefresh _ _ => true
  | .columnDegraded _ => true
  | .rewind _ => true
  | .trapHandling _ => true
  | .preemptionRequest _ => true
  | .contextSave _ => true
  | .contextRestore _ => true
  | .watchdogSample => true
  | .watchdogKill _ => true
  | .gangStart _ => true
  | .gangCompletion _ => true
  | .create _ => true
  | .load _ => true
  | .post _ => true
  | .teardownQueue _ _ => true
  | .teardownSession _ => true
  | .telemetry _ => true
  | .blackbox _ => true
  | .attest _ _ => true
  | .diag _ _ _ => true
  | .fwupdate _ _ => true
  | .balanceWindow => true
  | .rampStep => true
  | .thermalObserverStep => true
  | .thermalTrip _ _ => true
  | .thermalTripClear _ _ => true
  | .powerSample => true
  | .powerFirmwareAbsent => true
  | .powerFirmwarePresent => true
  | .fabricSlot => true
  | .fabricStatusPoint => true
  | .holdTimeout => true
  | .fragmentArrival _ => true
  | .deadlineExpiry _ _ _ => true
  | .retransmissionRequest _ _ _ => true
  | .fabricAck _ _ => true
  | .linkDown _ => true
  | .probeOperation _ => true
  | .reset => true
  | .bootStage _ _ => true
  | .startTimeout => true
  | .railOutOfRange => true
  | .rejoin => true
  | .badkind _ _ _ => true
  | .redfishSettings _ _ => true

/-- Is an instruction well formed: would its own word decode to it? -/
def Instr.wf (i : Instr) : Bool := i.operandsWf && i.fieldOk && i.operandOk

end Sys2Proof
end

