-- ==== Sys2Proof/Decode.lean ====
section
/-! DEFINITION. Sys2Proof/Decode.lean: from bits to instructions and back. `decode` reads one slot word (R56 to R74) and
answers the instruction, NOP, or the named fate of the encoding (R57, R59, R79); `encode` is written from the same tables
of formats. Packets and bundle headers (R51 to R54) are read here as well. -/

namespace Sys2Proof

/-- The fates of an encoding that is not an instruction, within one word in the order of R339 rank 4. -/
inductive DecErr where
  | illegalSlot | illegalOpcode | illegalField | illegalOperand
  deriving DecidableEq, Repr

/-- What a slot word is. -/
inductive Dec where
  | nop
  | instr (i : Instr)
  | bad (e : DecErr)
  deriving DecidableEq, Repr

/-- A bit vector's bits `[lo + n - 1 : lo]`. -/
abbrev bits (w : W32) (lo n : Nat) : BitVec n := w.extractLsb' lo n

/-- Bit `i` of a word. -/
abbrev bitAt (w : W32) (i : Nat) : Bool := w.getLsbD i

/-- The operand named by a source field: its specifier and keep bit (R58, R59). The flag says whether it is a legal one. -/
def decSrc (x : BitVec 7) : Src × Bool :=
  let os := (x.extractLsb' 1 6).toNat
  let k := x.getLsbD 0
  if os = 0 then (.zero, !k)
  else if os < 32 then (.queue (BitVec.ofNat 5 os) k, true)
  else if os < 40 then (.latchA (BitVec.ofNat 3 (os - 32)), !k)
  else if os < 48 then (.latchB (BitVec.ofNat 3 (os - 40)), !k)
  else if os < 56 then (.port (BitVec.ofNat 3 (os - 48)) k, true)
  else if os = 56 then (.tx, !k)
  else if os = 57 then (.ty, !k)
  else if os = 58 then (.tz, !k)
  else if os = 59 then (.tix, !k)
  else if os = 60 then (.cyc, !k)
  else if os = 61 then (.ones, !k)
  else (.zero, false)

/-- The source field of an operand. -/
def encSrc : Src → BitVec 7
  | .zero => 0
  | .queue q k => (0 : BitVec 1) ++ q ++ bit k
  | .latchA s => (0b100 : BitVec 3) ++ s ++ (0 : BitVec 1)
  | .latchB s => (0b101 : BitVec 3) ++ s ++ (0 : BitVec 1)
  | .port s k => (0b110 : BitVec 3) ++ s ++ bit k
  | .tx => 0b1110000 | .ty => 0b1110010 | .tz => 0b1110100 | .tix => 0b1110110 | .cyc => 0b1111000 | .ones => 0b1111010

/-- The destination of DQ and W; W and DQ must be both zero or both nonzero (R59). -/
def decDst (x : BitVec 6) : Dst × Bool :=
  let q := x.extractLsb' 1 5
  let w := x.getLsbD 0
  if q = 0 then (.none, !w) else (.queue q, w)

/-- The DQ and W bits of a destination. -/
def encDst : Dst → BitVec 6
  | .none => 0
  | .queue q => q ++ (1 : BitVec 1)

/-- The guard field (R56). -/
def decGuard (w : W32) : Guard := ⟨bitAt w 25, bits w 21 4⟩

/-- What a listed operation's word is, once its operands are read: zero-marked bits and field codes first, then
destinations, sources and the operand values the encoding fixes (R339 rank 4). -/
def parse (w : W32) (zero : Nat) (legal : Bool) (i : Instr) : Dec :=
  if w.toNat &&& zero ≠ 0 then .bad .illegalField
  else if !i.fieldOk then .bad .illegalField
  else if !legal then .bad .illegalOperand
  else if !i.operandOk then .bad .illegalOperand
  else .instr i

/-- Read the operands of format structure `FG`. -/
def decFG (w : W32) : FG := ⟨decGuard w⟩
/-- Are its destination and sources legal ones? -/
def okFG (w : W32) : Bool := w == w

/-- Read the operands of format structure `CB`. -/
def decCB (w : W32) : CB := ⟨decGuard w, bits w 0 21⟩
/-- Are its destination and sources legal ones? -/
def okCB (w : W32) : Bool := w == w

/-- Read the operands of format structure `CA`. -/
def decCA (w : W32) : CA := ⟨decGuard w, (decSrc (bits w 8 7)).1⟩
/-- Are its destination and sources legal ones? -/
def okCA (w : W32) : Bool := (decSrc (bits w 8 7)).2

/-- Read the operands of format structure `CL`. -/
def decCL (w : W32) : CL := ⟨decGuard w, (decSrc (bits w 14 7)).1, bits w 4 10, bits w 0 4⟩
/-- Are its destination and sources legal ones? -/
def okCL (w : W32) : Bool := (decSrc (bits w 14 7)).2

/-- Read the operands of format structure `CS`. -/
def decCS (w : W32) : CS := ⟨decGuard w, bitAt w 17, bitAt w 16, bits w 0 16⟩
/-- Are its destination and sources legal ones? -/
def okCS (w : W32) : Bool := w == w

/-- Read the operands of format structure `CN`. -/
def decCN (w : W32) : CN := ⟨decGuard w, bits w 17 4, bits w 0 16⟩
/-- Are its destination and sources legal ones? -/
def okCN (w : W32) : Bool := w == w

/-- Read the operands of format structure `CNB`. -/
def decCNB (w : W32) : CNB := ⟨decGuard w, bits w 17 4⟩
/-- Are its destination and sources legal ones? -/
def okCNB (w : W32) : Bool := w == w

/-- Read the operands of format structure `CNT`. -/
def decCNT (w : W32) : CNT := ⟨decGuard w, bits w 0 16⟩
/-- Are its destination and sources legal ones? -/
def okCNT (w : W32) : Bool := w == w

/-- Read the operands of format structure `CD`. -/
def decCD (w : W32) : CD := ⟨decGuard w, bits w 16 5⟩
/-- Are its destination and sources legal ones? -/
def okCD (w : W32) : Bool := w == w

/-- Read the operands of format structure `CAB`. -/
def decCAB (w : W32) : CAB := ⟨decGuard w, (decSrc (bits w 8 7)).1, (decSrc (bits w 1 7)).1⟩
/-- Are its destination and sources legal ones? -/
def okCAB (w : W32) : Bool := (decSrc (bits w 8 7)).2 && (decSrc (bits w 1 7)).2

/-- Read the operands of format structure `CDAB`. -/
def decCDAB (w : W32) : CDAB := ⟨decGuard w, (decDst (bits w 15 6)).1, (decSrc (bits w 8 7)).1, (decSrc (bits w 1 7)).1⟩
/-- Are its destination and sources legal ones? -/
def okCDAB (w : W32) : Bool := (decDst (bits w 15 6)).2 && (decSrc (bits w 8 7)).2 && (decSrc (bits w 1 7)).2

/-- Read the operands of format structure `CDA`. -/
def decCDA (w : W32) : CDA := ⟨decGuard w, (decDst (bits w 15 6)).1, (decSrc (bits w 8 7)).1⟩
/-- Are its destination and sources legal ones? -/
def okCDA (w : W32) : Bool := (decDst (bits w 15 6)).2 && (decSrc (bits w 8 7)).2

/-- Read the operands of format structure `CK`. -/
def decCK (w : W32) : CK := ⟨decGuard w, bits w 17 4, bits w 13 4, (decSrc (bits w 6 7)).1⟩
/-- Are its destination and sources legal ones? -/
def okCK (w : W32) : Bool := (decSrc (bits w 6 7)).2

/-- Read the operands of format structure `CCR`. -/
def decCCR (w : W32) : CCR := ⟨decGuard w, bits w 9 12, (decDst (bits w 3 6)).1⟩
/-- Are its destination and sources legal ones? -/
def okCCR (w : W32) : Bool := (decDst (bits w 3 6)).2

/-- Read the operands of format structure `CCW`. -/
def decCCW (w : W32) : CCW := ⟨decGuard w, bits w 9 12, (decSrc (bits w 2 7)).1⟩
/-- Are its destination and sources legal ones? -/
def okCCW (w : W32) : Bool := (decSrc (bits w 2 7)).2

/-- Read the operands of format structure `IA`. -/
def decIA (sl : ISlot) (w : W32) : IA := ⟨decGuard w, sl, (decDst (bits w 15 6)).1, (decSrc (bits w 8 7)).1, (decSrc (bits w 1 7)).1, bitAt w 0⟩
/-- Are its destination and sources legal ones? -/
def okIA (w : W32) : Bool := (decDst (bits w 15 6)).2 && (decSrc (bits w 8 7)).2 && (decSrc (bits w 1 7)).2

/-- Read the operands of format structure `IA1`. -/
def decIA1 (sl : ISlot) (w : W32) : IA1 := ⟨decGuard w, sl, (decDst (bits w 15 6)).1, (decSrc (bits w 8 7)).1, bitAt w 0⟩
/-- Are its destination and sources legal ones? -/
def okIA1 (w : W32) : Bool := (decDst (bits w 15 6)).2 && (decSrc (bits w 8 7)).2

/-- Read the operands of format structure `IL`. -/
def decIL (sl : ISlot) (w : W32) : IL := ⟨decGuard w, sl, bits w 16 5, bits w 0 16⟩
/-- Are its destination and sources legal ones? -/
def okIL (w : W32) : Bool := w == w

/-- Read the operands of format structure `II`. -/
def decII (sl : ISlot) (w : W32) : II := ⟨decGuard w, sl, bits w 16 5, (decSrc (bits w 9 7)).1, bits w 0 9⟩
/-- Are its destination and sources legal ones? -/
def okII (w : W32) : Bool := (decSrc (bits w 9 7)).2

/-- Read the operands of format structure `IC`. -/
def decIC (sl : ISlot) (w : W32) : IC := ⟨decGuard w, sl, bits w 17 4, bits w 14 3, (decSrc (bits w 7 7)).1, (decSrc (bits w 0 7)).1⟩
/-- Are its destination and sources legal ones? -/
def okIC (w : W32) : Bool := (decSrc (bits w 7 7)).2 && (decSrc (bits w 0 7)).2

/-- Read the operands of format structure `IP`. -/
def decIP (sl : ISlot) (w : W32) : IP := ⟨decGuard w, sl, bits w 17 4, bits w 13 4, bits w 9 4, bits w 5 4⟩
/-- Are its destination and sources legal ones? -/
def okIP (w : W32) : Bool := w == w

/-- Read the operands of format structure `IQC`. -/
def decIQC (sl : ISlot) (w : W32) : IQC := ⟨decGuard w, sl, (decDst (bits w 15 6)).1, bits w 10 5⟩
/-- Are its destination and sources legal ones? -/
def okIQC (w : W32) : Bool := (decDst (bits w 15 6)).2

/-- Read the operands of format structure `IQD`. -/
def decIQD (sl : ISlot) (w : W32) : IQD := ⟨decGuard w, sl, bits w 10 5, bits w 7 3⟩
/-- Are its destination and sources legal ones? -/
def okIQD (w : W32) : Bool := w == w

/-- Read the operands of format structure `ISW`. -/
def decISW (w : W32) : ISW := ⟨decGuard w, bits w 18 3, bits w 13 5, (decSrc (bits w 6 7)).1⟩
/-- Are its destination and sources legal ones? -/
def okISW (w : W32) : Bool := (decSrc (bits w 6 7)).2

/-- Read the operands of format structure `ISR`. -/
def decISR (w : W32) : ISR := ⟨decGuard w, (decDst (bits w 15 6)).1, bits w 12 3, bits w 7 5, bitAt w 6⟩
/-- Are its destination and sources legal ones? -/
def okISR (w : W32) : Bool := (decDst (bits w 15 6)).2

/-- Read the operands of format structure `FA`. -/
def decFA (w : W32) : FA := ⟨decGuard w, (decDst (bits w 15 6)).1, (decSrc (bits w 8 7)).1, (decSrc (bits w 1 7)).1⟩
/-- Are its destination and sources legal ones? -/
def okFA (w : W32) : Bool := (decDst (bits w 15 6)).2 && (decSrc (bits w 8 7)).2 && (decSrc (bits w 1 7)).2

/-- Read the operands of format structure `FA1`. -/
def decFA1 (w : W32) : FA1 := ⟨decGuard w, (decDst (bits w 15 6)).1, (decSrc (bits w 8 7)).1⟩
/-- Are its destination and sources legal ones? -/
def okFA1 (w : W32) : Bool := (decDst (bits w 15 6)).2 && (decSrc (bits w 8 7)).2

/-- Read the operands of format structure `FC`. -/
def decFC (w : W32) : FC := ⟨decGuard w, bits w 17 4, bits w 14 3, (decSrc (bits w 7 7)).1, (decSrc (bits w 0 7)).1⟩
/-- Are its destination and sources legal ones? -/
def okFC (w : W32) : Bool := (decSrc (bits w 7 7)).2 && (decSrc (bits w 0 7)).2

/-- Read the operands of format structure `IF`. -/
def decIF (w : W32) : IF := ⟨decGuard w, (decDst (bits w 15 6)).1, (decSrc (bits w 8 7)).1, bits w 5 3, bits w 2 3⟩
/-- Are its destination and sources legal ones? -/
def okIF (w : W32) : Bool := (decDst (bits w 15 6)).2 && (decSrc (bits w 8 7)).2

/-- Read the operands of format structure `VT`. -/
def decVT (w : W32) : VT := ⟨decGuard w, bits w 17 4, bits w 13 4, bits w 9 4, bits w 5 4, bits w 2 3, bits w 0 2⟩
/-- Are its destination and sources legal ones? -/
def okVT (w : W32) : Bool := w == w

/-- Read the operands of format structure `VT0`. -/
def decVT0 (w : W32) : VT0 := ⟨decGuard w, bits w 17 4, bits w 13 4, bits w 9 4, bits w 5 4, bits w 2 3⟩
/-- Are its destination and sources legal ones? -/
def okVT0 (w : W32) : Bool := w == w

/-- Read the operands of format structure `VT1`. -/
def decVT1 (w : W32) : VT1 := ⟨decGuard w, bits w 17 4, bits w 13 4, bits w 5 4, bits w 2 3⟩
/-- Are its destination and sources legal ones? -/
def okVT1 (w : W32) : Bool := w == w

/-- Read the operands of format structure `VTM`. -/
def decVTM (w : W32) : VTM := ⟨decGuard w, bits w 17 4, bits w 13 4, bits w 5 4, bits w 2 3, bits w 0 2⟩
/-- Are its destination and sources legal ones? -/
def okVTM (w : W32) : Bool := w == w

/-- Read the operands of format structure `VS`. -/
def decVS (w : W32) : VS := ⟨decGuard w, bits w 17 4, bits w 13 4, bits w 9 4, (decSrc (bits w 2 7)).1, bits w 0 2⟩
/-- Are its destination and sources legal ones? -/
def okVS (w : W32) : Bool := (decSrc (bits w 2 7)).2

/-- Read the operands of format structure `VS1`. -/
def decVS1 (w : W32) : VS1 := ⟨decGuard w, bits w 17 4, bits w 9 4, (decSrc (bits w 2 7)).1, bits w 0 2⟩
/-- Are its destination and sources legal ones? -/
def okVS1 (w : W32) : Bool := (decSrc (bits w 2 7)).2

/-- Read the operands of format structure `VC`. -/
def decVC (w : W32) : VC := ⟨decGuard w, bits w 18 3, bits w 14 4, bits w 10 4, bits w 6 4, bits w 3 3, bits w 0 3⟩
/-- Are its destination and sources legal ones? -/
def okVC (w : W32) : Bool := w == w

/-- Read the operands of format structure `VCS`. -/
def decVCS (w : W32) : VCS := ⟨decGuard w, bits w 18 3, bits w 14 4, bits w 10 4, bits w 7 3, (decSrc (bits w 0 7)).1⟩
/-- Are its destination and sources legal ones? -/
def okVCS (w : W32) : Bool := (decSrc (bits w 0 7)).2

/-- Read the operands of format structure `WC`. -/
def decWC (w : W32) : WC := ⟨decGuard w, bits w 17 4, bits w 13 4, bits w 9 4, bits w 5 4, bits w 2 3, bitAt w 1, bitAt w 0⟩
/-- Are its destination and sources legal ones? -/
def okWC (w : W32) : Bool := w == w

/-- Read the operands of format structure `WR`. -/
def decWR (w : W32) : WR := ⟨decGuard w, (decDst (bits w 15 6)).1, bits w 11 4, bits w 7 4, bits w 4 3, bits w 1 3⟩
/-- Are its destination and sources legal ones? -/
def okWR (w : W32) : Bool := (decDst (bits w 15 6)).2

/-- Read the operands of format structure `WD`. -/
def decWD (w : W32) : WD := ⟨decGuard w, bits w 19 2, bits w 15 4, bits w 11 4, bits w 7 4, bits w 4 3⟩
/-- Are its destination and sources legal ones? -/
def okWD (w : W32) : Bool := w == w

/-- Read the operands of format structure `WX`. -/
def decWX (w : W32) : WX := ⟨decGuard w, (decDst (bits w 15 6)).1, bits w 13 2, bits w 10 3, bitAt w 9⟩
/-- Are its destination and sources legal ones? -/
def okWX (w : W32) : Bool := (decDst (bits w 15 6)).2

/-- Read the operands of format structure `WXC`. -/
def decWXC (w : W32) : WXC := ⟨decGuard w, bits w 13 2⟩
/-- Are its destination and sources legal ones? -/
def okWXC (w : W32) : Bool := w == w

/-- Read the operands of format structure `WM`. -/
def decWM (w : W32) : WM := ⟨decGuard w, bits w 18 3, bits w 15 3, bits w 12 3, bits w 8 4⟩
/-- Are its destination and sources legal ones? -/
def okWM (w : W32) : Bool := w == w

/-- Read the operands of format structure `WQT`. -/
def decWQT (w : W32) : WQT := ⟨decGuard w, bits w 18 3, (decSrc (bits w 10 7)).1⟩
/-- Are its destination and sources legal ones? -/
def okWQT (w : W32) : Bool := (decSrc (bits w 10 7)).2

/-- Read the operands of format structure `WQF`. -/
def decWQF (w : W32) : WQF := ⟨decGuard w, bits w 18 3, (decDst (bits w 4 6)).1⟩
/-- Are its destination and sources legal ones? -/
def okWQF (w : W32) : Bool := (decDst (bits w 4 6)).2

/-- Read the operands of format structure `WHR`. -/
def decWHR (w : W32) : WHR := ⟨decGuard w, bits w 17 4, bits w 13 4, bits w 0 5⟩
/-- Are its destination and sources legal ones? -/
def okWHR (w : W32) : Bool := w == w

/-- Read the operands of format structure `WHW`. -/
def decWHW (w : W32) : WHW := ⟨decGuard w, bits w 17 4, bits w 13 4, (decSrc (bits w 5 7)).1⟩
/-- Are its destination and sources legal ones? -/
def okWHW (w : W32) : Bool := (decSrc (bits w 5 7)).2

/-- Read the operands of format structure `MB`. -/
def decMB (w : W32) : MB := ⟨decGuard w, bits w 17 4, bits w 13 4, bits w 10 3, bits w 4 6⟩
/-- Are its destination and sources legal ones? -/
def okMB (w : W32) : Bool := w == w

/-- Read the operands of format structure `MT`. -/
def decMT (w : W32) : MT := ⟨decGuard w, bits w 17 4, bits w 13 4⟩
/-- Are its destination and sources legal ones? -/
def okMT (w : W32) : Bool := w == w

/-- Read the operands of format structure `MKS`. -/
def decMKS (w : W32) : MKS := ⟨decGuard w, bitAt w 15⟩
/-- Are its destination and sources legal ones? -/
def okMKS (w : W32) : Bool := w == w

/-- Read the operands of format structure `MK`. -/
def decMK (w : W32) : MK := ⟨decGuard w, bits w 18 3, bits w 16 2, bitAt w 15⟩
/-- Are its destination and sources legal ones? -/
def okMK (w : W32) : Bool := w == w

/-- Read the operands of format structure `MKX`. -/
def decMKX (w : W32) : MKX := ⟨decGuard w, bits w 16 2⟩
/-- Are its destination and sources legal ones? -/
def okMKX (w : W32) : Bool := w == w

/-- Read the operands of format structure `MD`. -/
def decMD (w : W32) : MD := ⟨decGuard w, bits w 17 4, bits w 13 4, bits w 11 2, bits w 7 4, bits w 4 3, bitAt w 3, bitAt w 2, bitAt w 1⟩
/-- Are its destination and sources legal ones? -/
def okMD (w : W32) : Bool := w == w

/-- Read the operands of format structure `MS`. -/
def decMS (w : W32) : MS := ⟨decGuard w, bits w 17 4, bits w 13 4, bits w 11 2, bits w 7 4, (decSrc (bits w 0 7)).1⟩
/-- Are its destination and sources legal ones? -/
def okMS (w : W32) : Bool := (decSrc (bits w 0 7)).2

/-- Read the operands of format structure `MX`. -/
def decMX (w : W32) : MX := ⟨decGuard w, bits w 17 4, bits w 13 4, bits w 9 4, bits w 7 2⟩
/-- Are its destination and sources legal ones? -/
def okMX (w : W32) : Bool := w == w

/-- Read the operands of format structure `MQ`. -/
def decMQ (w : W32) : MQ := ⟨decGuard w, (decDst (bits w 15 6)).1, bits w 11 4, bits w 5 6⟩
/-- Are its destination and sources legal ones? -/
def okMQ (w : W32) : Bool := (decDst (bits w 15 6)).2

/-- Read the operands of format structure `LT`. -/
def decLT (w : W32) : LT := ⟨decGuard w, bits w 17 4, bits w 13 4, bits w 11 2, bitAt w 10, bits w 6 4, bits w 3 3⟩
/-- Are its destination and sources legal ones? -/
def okLT (w : W32) : Bool := w == w

/-- Read the operands of format structure `LA`. -/
def decLA (w : W32) : LA := ⟨decGuard w, bits w 17 4, bits w 11 6, bits w 7 4, (decSrc (bits w 0 7)).1⟩
/-- Are its destination and sources legal ones? -/
def okLA (w : W32) : Bool := (decSrc (bits w 0 7)).2

/-- Read the operands of format structure `LL`. -/
def decLL (w : W32) : LL := ⟨decGuard w, (decDst (bits w 15 6)).1, bits w 12 3, (decSrc (bits w 5 7)).1⟩
/-- Are its destination and sources legal ones? -/
def okLL (w : W32) : Bool := (decDst (bits w 15 6)).2 && (decSrc (bits w 5 7)).2

/-- Read the operands of format structure `LLH`. -/
def decLLH (w : W32) : LLH := ⟨decGuard w, (decDst (bits w 15 6)).1, (decSrc (bits w 5 7)).1⟩
/-- Are its destination and sources legal ones? -/
def okLLH (w : W32) : Bool := (decDst (bits w 15 6)).2 && (decSrc (bits w 5 7)).2

/-- Read the operands of format structure `LS`. -/
def decLS (w : W32) : LS := ⟨decGuard w, (decSrc (bits w 14 7)).1, (decSrc (bits w 7 7)).1, bits w 4 3⟩
/-- Are its destination and sources legal ones? -/
def okLS (w : W32) : Bool := (decSrc (bits w 14 7)).2 && (decSrc (bits w 7 7)).2

/-- Read the operands of format structure `LSH`. -/
def decLSH (w : W32) : LSH := ⟨decGuard w, (decSrc (bits w 14 7)).1, (decSrc (bits w 7 7)).1⟩
/-- Are its destination and sources legal ones? -/
def okLSH (w : W32) : Bool := (decSrc (bits w 14 7)).2 && (decSrc (bits w 7 7)).2

/-- Read the operands of format structure `LF`. -/
def decLF (w : W32) : LF := ⟨decGuard w, bits w 18 3⟩
/-- Are its destination and sources legal ones? -/
def okLF (w : W32) : Bool := w == w

/-- Read the operands of format structure `LP`. -/
def decLP (w : W32) : LP := ⟨decGuard w, (decSrc (bits w 14 7)).1, (decSrc (bits w 7 7)).1⟩
/-- Are its destination and sources legal ones? -/
def okLP (w : W32) : Bool := (decSrc (bits w 14 7)).2 && (decSrc (bits w 7 7)).2

/-- Read the operands of format structure `LC`. -/
def decLC (w : W32) : LC := ⟨decGuard w, bits w 16 5, (decSrc (bits w 9 7)).1, (decSrc (bits w 2 7)).1⟩
/-- Are its destination and sources legal ones? -/
def okLC (w : W32) : Bool := (decSrc (bits w 9 7)).2 && (decSrc (bits w 2 7)).2

/-- Read the operands of format structure `LY`. -/
def decLY (w : W32) : LY := ⟨decGuard w, (decSrc (bits w 14 7)).1, (decSrc (bits w 7 7)).1, (decSrc (bits w 0 7)).1⟩
/-- Are its destination and sources legal ones? -/
def okLY (w : W32) : Bool := (decSrc (bits w 14 7)).2 && (decSrc (bits w 7 7)).2 && (decSrc (bits w 0 7)).2

/-- Read the operands of format structure `LR`. -/
def decLR (w : W32) : LR := ⟨decGuard w, bits w 19 2, bits w 13 6⟩
/-- Are its destination and sources legal ones? -/
def okLR (w : W32) : Bool := w == w

/-- Read the operands of format structure `XN`. -/
def decXN (w : W32) : XN := ⟨decGuard w, bits w 18 3, (decSrc (bits w 11 7)).1⟩
/-- Are its destination and sources legal ones? -/
def okXN (w : W32) : Bool := (decSrc (bits w 11 7)).2

/-- Read the operands of format structure `XS`. -/
def decXS (w : W32) : XS := ⟨decGuard w, bits w 18 3, bits w 15 3, (decSrc (bits w 8 7)).1, (decSrc (bits w 1 7)).1⟩
/-- Are its destination and sources legal ones? -/
def okXS (w : W32) : Bool := (decSrc (bits w 8 7)).2 && (decSrc (bits w 1 7)).2

/-- Read the operands of format structure `XB`. -/
def decXB (w : W32) : XB := ⟨decGuard w, bits w 20 1, bitAt w 19, (decSrc (bits w 12 7)).1, bitAt w 11⟩
/-- Are its destination and sources legal ones? -/
def okXB (w : W32) : Bool := (decSrc (bits w 12 7)).2

/-- Read the operands of format structure `XP`. -/
def decXP (w : W32) : XP := ⟨decGuard w, bits w 18 3, bitAt w 17, bits w 15 2, bitAt w 14⟩
/-- Are its destination and sources legal ones? -/
def okXP (w : W32) : Bool := w == w

/-- Read the operands of format structure `XPU`. -/
def decXPU (w : W32) : XPU := ⟨decGuard w, bits w 18 3⟩
/-- Are its destination and sources legal ones? -/
def okXPU (w : W32) : Bool := w == w

/-- Read the operands of format structure `XA`. -/
def decXA (w : W32) : XA := ⟨decGuard w, bits w 18 3, bits w 15 3, (decSrc (bits w 8 7)).1, (decSrc (bits w 1 7)).1⟩
/-- Are its destination and sources legal ones? -/
def okXA (w : W32) : Bool := (decSrc (bits w 8 7)).2 && (decSrc (bits w 1 7)).2

/-- Read the operands of format structure `XF`. -/
def decXF (w : W32) : XF := ⟨decGuard w, (decSrc (bits w 14 7)).1⟩
/-- Are its destination and sources legal ones? -/
def okXF (w : W32) : Bool := (decSrc (bits w 14 7)).2

/-- Read the operands of format structure `XM`. -/
def decXM (w : W32) : XM := ⟨decGuard w, bits w 18 3, (decSrc (bits w 11 7)).1⟩
/-- Are its destination and sources legal ones? -/
def okXM (w : W32) : Bool := (decSrc (bits w 11 7)).2

/-- Read the operands of format structure `XQ`. -/
def decXQ (w : W32) : XQ := ⟨decGuard w, (decSrc (bits w 14 7)).1, (decSrc (bits w 7 7)).1⟩
/-- Are its destination and sources legal ones? -/
def okXQ (w : W32) : Bool := (decSrc (bits w 14 7)).2 && (decSrc (bits w 7 7)).2

/-- Read the operands of format structure `XT`. -/
def decXT (w : W32) : XT := ⟨decGuard w, bits w 15 6⟩
/-- Are its destination and sources legal ones? -/
def okXT (w : W32) : Bool := w == w

/-- The C slot's map (R68). -/
def decodeC (w : W32) : Dec :=
  match (bits w 26 6).toNat with
  | 1 => parse w 0x0 (okCB w) (.br (decCB w))
  | 2 => parse w 0x0 (okCB w) (.call (decCB w))
  | 3 => parse w 0x1F80FF (okCA w) (.bri (decCA w))
  | 4 => parse w 0x1F80FF (okCA w) (.calli (decCA w))
  | 5 => parse w 0x1FFFFF (okFG w) (.ret (decFG w))
  | 6 => parse w 0x0 (okCL w) (.loop (decCL w))
  | 7 => parse w 0x1C0000 (okCS w) (.seg (decCS w))
  | 8 => parse w 0x10000 (okCN w) (.rdv (decCN w))
  | 9 => parse w 0x1FFFF (okCNB w) (.bar (decCNB w))
  | 10 => parse w 0xFFFF (okCD w) (.wake (decCD w))
  | 11 => parse w 0xFFFF (okCD w) (.sleep (decCD w))
  | 12 => parse w 0x1F8001 (okCAB w) (.waitg (decCAB w))
  | 13 => parse w 0x1 (okCDAB w) (.waitr (decCDAB w))
  | 14 => parse w 0x1F8001 (okCAB w) (.signal (decCAB w))
  | 15 => parse w 0xFF (okCDA w) (.launch (decCDA w))
  | 16 => parse w 0x1F0000 (okCNT w) (.trap (decCNT w))
  | 17 => parse w 0x1FFFFF (okFG w) (.endTask (decFG w))
  | 18 => parse w 0x3F (okCK w) (.kchk (decCK w))
  | 19 => parse w 0x7 (okCCR w) (.csrr (decCCR w))
  | 20 => parse w 0x3 (okCCW w) (.csrw (decCCW w))
  | _ => .bad .illegalOpcode

/-- The V slot's map (R70). -/
def decodeV (w : W32) : Dec :=
  match (bits w 26 6).toNat with
  | 1 => parse w 0x0 (okVT w) (.vadd (decVT w))
  | 2 => parse w 0x0 (okVT w) (.vsub (decVT w))
  | 3 => parse w 0x0 (okVT w) (.vmul (decVT w))
  | 4 => parse w 0x0 (okVT w) (.vfma (decVT w))
  | 5 => parse w 0x3 (okVT0 w) (.vmin (decVT0 w))
  | 6 => parse w 0x3 (okVT0 w) (.vmax (decVT0 w))
  | 7 => parse w 0x1E03 (okVT1 w) (.vabs (decVT1 w))
  | 8 => parse w 0x1E03 (okVT1 w) (.vneg (decVT1 w))
  | 9 => parse w 0x0 (okVT w) (.vdiv (decVT w))
  | 10 => parse w 0x1E00 (okVTM w) (.vsqrt (decVTM w))
  | 11 => parse w 0x0 (okVS w) (.vadds (decVS w))
  | 12 => parse w 0x0 (okVS w) (.vmuls (decVS w))
  | 13 => parse w 0x0 (okVS w) (.vfmas (decVS w))
  | 14 => parse w 0x3 (okVT0 w) (.viadd (decVT0 w))
  | 15 => parse w 0x3 (okVT0 w) (.visub (decVT0 w))
  | 16 => parse w 0x3 (okVT0 w) (.vimul (decVT0 w))
  | 17 => parse w 0x3 (okVT0 w) (.vand (decVT0 w))
  | 18 => parse w 0x3 (okVT0 w) (.vor (decVT0 w))
  | 19 => parse w 0x3 (okVT0 w) (.vxor (decVT0 w))
  | 20 => parse w 0x3 (okVT0 w) (.vshl (decVT0 w))
  | 21 => parse w 0x3 (okVT0 w) (.vshr (decVT0 w))
  | 22 => parse w 0x0 (okVC w) (.vcmp (decVC w))
  | 23 => parse w 0x0 (okVCS w) (.vcmps (decVCS w))
  | 24 => parse w 0x3 (okVT0 w) (.vsel (decVT0 w))
  | 25 => parse w 0x1E03 (okVT1 w) (.vmov (decVT1 w))
  | 26 => parse w 0x1E000 (okVS1 w) (.vbcst (decVS1 w))
  | 27 => parse w 0x1E000 (okVS1 w) (.viota (decVS1 w))
  | _ => .bad .illegalOpcode

/-- The W slot's map (R71). -/
def decodeW (w : W32) : Dec :=
  match (bits w 26 6).toNat with
  | 1 => parse w 0x0 (okWC w) (.vcvt (decWC w))
  | 2 => parse w 0x3 (okVT0 w) (.vperm (decVT0 w))
  | 3 => parse w 0x0 (okVS w) (.vlsh (decVS w))
  | 4 => parse w 0x1 (okWR w) (.vrdx (decWR w))
  | 5 => parse w 0xF (okWD w) (.vdot (decWD w))
  | 6 => parse w 0x1FF (okWX w) (.vxdrn (decWX w))
  | 7 => parse w 0x1F9FFF (okWXC w) (.vxclr (decWXC w))
  | 8 => parse w 0x1E03 (okVT1 w) (.vexp2 (decVT1 w))
  | 9 => parse w 0x1E03 (okVT1 w) (.vlog2 (decVT1 w))
  | 10 => parse w 0x1E03 (okVT1 w) (.vrcp (decVT1 w))
  | 11 => parse w 0x1E03 (okVT1 w) (.vrsq (decVT1 w))
  | 12 => parse w 0x1E03 (okVT1 w) (.vtanh (decVT1 w))
  | 13 => parse w 0x1E03 (okVT1 w) (.vsigm (decVT1 w))
  | 14 => parse w 0xFF (okWM w) (.vmsk (decWM w))
  | 15 => if bitAt w 17 then parse w 0x1FC0F (okWQF w) (.vmskqFromMask (decWQF w)) else parse w 0x203FF (okWQT w) (.vmskqToMask (decWQT w))
  | 16 => if bitAt w 12 then parse w 0xFE0 (okWHR w) (.vhdrRead (decWHR w)) else parse w 0x101F (okWHW w) (.vhdrWrite (decWHW w))
  | _ => .bad .illegalOpcode

/-- The M slot's map (R72). -/
def decodeM (w : W32) : Dec :=
  match (bits w 26 6).toNat with
  | 1 => parse w 0xF (okMB w) (.mbld (decMB w))
  | 2 => parse w 0x1FFF (okMT w) (.mpush (decMT w))
  | 3 => parse w 0x1F7FFF (okMKS w) (.mshift (decMKS w))
  | 4 => parse w 0x7FFF (okMK w) (.macc (decMK w))
  | 5 => parse w 0x1FFFFF (okFG w) (.mswap (decFG w))
  | 6 => parse w 0x1 (okMD w) (.mdrain (decMD w))
  | 7 => parse w 0x0 (okMS w) (.mdrns (decMS w))
  | 8 => parse w 0x1CFFFF (okMKX w) (.mclr (decMKX w))
  | 9 => parse w 0x7F (okMX w) (.mspill (decMX w))
  | 10 => parse w 0x7F (okMX w) (.mfill (decMX w))
  | 11 => parse w 0x1F (okMQ w) (.mstat (decMQ w))
  | _ => .bad .illegalOpcode

/-- The L slot's map (R73). -/
def decodeL (w : W32) : Dec :=
  match (bits w 26 6).toNat with
  | 1 => parse w 0x7 (okLT w) (.tld (decLT w))
  | 2 => parse w 0x7 (okLT w) (.tst (decLT w))
  | 3 => parse w 0x0 (okLA w) (.tlda (decLA w))
  | 4 => parse w 0x0 (okLA w) (.tsta (decLA w))
  | 5 => parse w 0x1F (okLL w) (.ld (decLL w))
  | 6 => parse w 0xF (okLS w) (.st (decLS w))
  | 7 => parse w 0x701F (okLLH w) (.ldh (decLLH w))
  | 8 => parse w 0x7F (okLSH w) (.sth (decLSH w))
  | 9 => parse w 0x3FFFF (okLF w) (.fence (decLF w))
  | 10 => parse w 0x7F (okLP w) (.synca (decLP w))
  | 11 => parse w 0x1FFF (okLR w) (.vref (decLR w))
  | 12 => if bitAt w 6 then parse w 0x3F (okLP w) (.voaddS64 (decLP w)) else parse w 0x7F (okLP w) (.voadd (decLP w))
  | 13 => parse w 0x3 (okLC w) (.vocas (decLC w))
  | 14 => parse w 0x0 (okLY w) (.vosax (decLY w))
  | 15 => parse w 0x7F (okLP w) (.publ (decLP w))
  | 16 => parse w 0x0 (okLY w) (.hand (decLY w))
  | 17 => parse w 0x701F (okLLH w) (.tagr (decLLH w))
  | _ => .bad .illegalOpcode

/-- The X slot's map (R74). -/
def decodeX (w : W32) : Dec :=
  match (bits w 26 6).toNat with
  | 1 => parse w 0x7FF (okXN w) (.lncnt (decXN w))
  | 2 => parse w 0x1 (okXS w) (.lnstr (decXS w))
  | 3 => parse w 0x7FF (okXB w) (.bcopy (decXB w))
  | 4 => parse w 0x3FFF (okXP w) (.sbind (decXP w))
  | 5 => parse w 0x3FFFF (okXPU w) (.sunb (decXPU w))
  | 6 => parse w 0x1 (okXA w) (.saego (decXA w))
  | 7 => parse w 0x3FFF (okXF w) (.saef (decXF w))
  | 8 => parse w 0x7FF (okXM w) (.send (decXM w))
  | 9 => parse w 0x7FF (okXM w) (.recv (decXM w))
  | 10 => parse w 0x7F (okXQ w) (.synci (decXQ w))
  | 11 => parse w 0x7FFF (okXT w) (.fslot (decXT w))
  | _ => .bad .illegalOpcode

/-- The map the I and J slots share; OPC 36 to 47 are J-only (R69). -/
def decodeIJ (sl : ISlot) (w : W32) : Dec :=
  let jOnly (d : Dec) : Dec := if sl = .I then .bad .illegalOpcode else d
  match (bits w 26 6).toNat with
  | 1 => parse w 0x0 (okIA w) (.add (decIA sl w))
  | 2 => parse w 0x0 (okIA w) (.sub (decIA sl w))
  | 3 => parse w 0x0 (okIA w) (.mul (decIA sl w))
  | 4 => parse w 0x0 (okIA w) (.mulh (decIA sl w))
  | 5 => parse w 0x0 (okIA w) (.mulhn (decIA sl w))
  | 6 => parse w 0x0 (okIA w) (.divs (decIA sl w))
  | 7 => parse w 0x0 (okIA w) (.divn (decIA sl w))
  | 8 => parse w 0x0 (okIA w) (.rems (decIA sl w))
  | 9 => parse w 0x0 (okIA w) (.remn (decIA sl w))
  | 10 => parse w 0x0 (okIA w) (.and (decIA sl w))
  | 11 => parse w 0x0 (okIA w) (.or (decIA sl w))
  | 12 => parse w 0x0 (okIA w) (.xor (decIA sl w))
  | 13 => parse w 0x0 (okIA w) (.andn (decIA sl w))
  | 14 => parse w 0x0 (okIA w) (.shl (decIA sl w))
  | 15 => parse w 0x0 (okIA w) (.shrl (decIA sl w))
  | 16 => parse w 0x0 (okIA w) (.shra (decIA sl w))
  | 17 => parse w 0x0 (okIA w) (.mins (decIA sl w))
  | 18 => parse w 0x0 (okIA w) (.maxs (decIA sl w))
  | 19 => parse w 0x0 (okIA w) (.minn (decIA sl w))
  | 20 => parse w 0x0 (okIA w) (.maxn (decIA sl w))
  | 21 => parse w 0xFE (okIA1 w) (.clz (decIA1 sl w))
  | 22 => parse w 0xFE (okIA1 w) (.popc (decIA1 sl w))
  | 23 => parse w 0x0 (okIA w) (.bfx (decIA sl w))
  | 24 => parse w 0x0 (okIA w) (.bfi (decIA sl w))
  | 25 => parse w 0x0 (okIA w) (.lea (decIA sl w))
  | 26 => parse w 0x0 (okIC w) (.cmp (decIC sl w))
  | 27 => parse w 0x1F (okIP w) (.plog (decIP sl w))
  | 28 => parse w 0xFE (okIA1 w) (.mov (decIA1 sl w))
  | 29 => parse w 0x0 (okIL w) (.ldiH0 (decIL sl w))
  | 30 => parse w 0x0 (okIL w) (.ldiH1 (decIL sl w))
  | 31 => parse w 0x0 (okIL w) (.ldiH2 (decIL sl w))
  | 32 => parse w 0x0 (okIL w) (.ldiH3 (decIL sl w))
  | 33 => parse w 0x0 (okII w) (.addi (decII sl w))
  | 34 => parse w 0x3FF (okIQC w) (.qcnt (decIQC sl w))
  | 35 => parse w 0x1F807F (okIQD w) (.qdrop (decIQD sl w))
  | 36 => jOnly (parse w 0x3F (okISW w) (.shpw (decISW w)))
  | 37 => jOnly (parse w 0x3F (okISR w) (.shpr (decISR w)))
  | 38 => jOnly (parse w 0x1 (okFA w) (.fadd (decFA w)))
  | 39 => jOnly (parse w 0x1 (okFA w) (.fsub (decFA w)))
  | 40 => jOnly (parse w 0x1 (okFA w) (.fmul (decFA w)))
  | 41 => jOnly (parse w 0x1 (okFA w) (.fmac (decFA w)))
  | 42 => jOnly (parse w 0x1 (okFA w) (.fdiv (decFA w)))
  | 43 => jOnly (parse w 0xFF (okFA1 w) (.fsqrt (decFA1 w)))
  | 44 => jOnly (parse w 0x1 (okFA w) (.fmin (decFA w)))
  | 45 => jOnly (parse w 0x1 (okFA w) (.fmax (decFA w)))
  | 46 => jOnly (parse w 0x0 (okFC w) (.fcmp (decFC w)))
  | 47 => jOnly (parse w 0x3 (okIF w) (.fcvt (decIF w)))
  | _ => .bad .illegalOpcode

/-- What a slot word is in a slot: NOP, an instruction, or the fate of its encoding (R56, R57, R79). -/
def decode (s : Slot) (w : W32) : Dec :=
  if w = 0 then .nop
  else if bits w 26 6 = 0 then .bad .illegalSlot
  else if bitAt w 25 && bits w 21 4 == 0 then .bad .illegalSlot
  else match s with
    | .C => decodeC w
    | .I => decodeIJ .I w
    | .J => decodeIJ .J w
    | .V => decodeV w
    | .W => decodeW w
    | .M => decodeM w
    | .L => decodeL w
    | .X => decodeX w

/-- The top of a slot word: OPC and guard (R56). -/
def encTop (opc : BitVec 6) (g : Guard) : BitVec 11 := opc ++ bit g.neg ++ g.p

/-- The word of format structure `FG` with an operation code. -/
def encFG (opc : BitVec 6) (o : FG) : W32 := encTop opc o.g ++ ((0 : BitVec 21) : BitVec 21)
/-- The word of format structure `CB` with an operation code. -/
def encCB (opc : BitVec 6) (o : CB) : W32 := encTop opc o.g ++ (o.off : BitVec 21)
/-- The word of format structure `CA` with an operation code. -/
def encCA (opc : BitVec 6) (o : CA) : W32 := encTop opc o.g ++ ((0 : BitVec 6) ++ encSrc o.a ++ (0 : BitVec 8) : BitVec 21)
/-- The word of format structure `CL` with an operation code. -/
def encCL (opc : BitVec 6) (o : CL) : W32 := encTop opc o.g ++ (encSrc o.a ++ o.len ++ o.stages : BitVec 21)
/-- The word of format structure `CS` with an operation code. -/
def encCS (opc : BitVec 6) (o : CS) : W32 := encTop opc o.g ++ ((0 : BitVec 3) ++ bit o.safe ++ bit o.commit ++ o.id : BitVec 21)
/-- The word of format structure `CN` with an operation code. -/
def encCN (opc : BitVec 6) (o : CN) : W32 := encTop opc o.g ++ (o.n ++ (0 : BitVec 1) ++ o.id : BitVec 21)
/-- The word of format structure `CNB` with an operation code. -/
def encCNB (opc : BitVec 6) (o : CNB) : W32 := encTop opc o.g ++ (o.n ++ (0 : BitVec 17) : BitVec 21)
/-- The word of format structure `CNT` with an operation code. -/
def encCNT (opc : BitVec 6) (o : CNT) : W32 := encTop opc o.g ++ ((0 : BitVec 5) ++ o.imm : BitVec 21)
/-- The word of format structure `CD` with an operation code. -/
def encCD (opc : BitVec 6) (o : CD) : W32 := encTop opc o.g ++ (o.dom ++ (0 : BitVec 16) : BitVec 21)
/-- The word of format structure `CAB` with an operation code. -/
def encCAB (opc : BitVec 6) (o : CAB) : W32 := encTop opc o.g ++ ((0 : BitVec 6) ++ encSrc o.a ++ encSrc o.b ++ (0 : BitVec 1) : BitVec 21)
/-- The word of format structure `CDAB` with an operation code. -/
def encCDAB (opc : BitVec 6) (o : CDAB) : W32 := encTop opc o.g ++ (encDst o.d ++ encSrc o.a ++ encSrc o.b ++ (0 : BitVec 1) : BitVec 21)
/-- The word of format structure `CDA` with an operation code. -/
def encCDA (opc : BitVec 6) (o : CDA) : W32 := encTop opc o.g ++ (encDst o.d ++ encSrc o.a ++ (0 : BitVec 8) : BitVec 21)
/-- The word of format structure `CK` with an operation code. -/
def encCK (opc : BitVec 6) (o : CK) : W32 := encTop opc o.g ++ (o.t ++ o.grp ++ encSrc o.a ++ (0 : BitVec 6) : BitVec 21)
/-- The word of format structure `CCR` with an operation code. -/
def encCCR (opc : BitVec 6) (o : CCR) : W32 := encTop opc o.g ++ (o.idx ++ encDst o.d ++ (0 : BitVec 3) : BitVec 21)
/-- The word of format structure `CCW` with an operation code. -/
def encCCW (opc : BitVec 6) (o : CCW) : W32 := encTop opc o.g ++ (o.idx ++ encSrc o.a ++ (0 : BitVec 2) : BitVec 21)
/-- The word of format structure `IA` with an operation code. -/
def encIA (opc : BitVec 6) (o : IA) : W32 := encTop opc o.g ++ (encDst o.d ++ encSrc o.a ++ encSrc o.b ++ bit o.m : BitVec 21)
/-- The word of format structure `IA1` with an operation code. -/
def encIA1 (opc : BitVec 6) (o : IA1) : W32 := encTop opc o.g ++ (encDst o.d ++ encSrc o.a ++ (0 : BitVec 7) ++ bit o.m : BitVec 21)
/-- The word of format structure `IL` with an operation code. -/
def encIL (opc : BitVec 6) (o : IL) : W32 := encTop opc o.g ++ (o.q ++ o.imm : BitVec 21)
/-- The word of format structure `II` with an operation code. -/
def encII (opc : BitVec 6) (o : II) : W32 := encTop opc o.g ++ (o.q ++ encSrc o.a ++ o.imm : BitVec 21)
/-- The word of format structure `IC` with an operation code. -/
def encIC (opc : BitVec 6) (o : IC) : W32 := encTop opc o.g ++ (o.pd ++ o.cond ++ encSrc o.a ++ encSrc o.b : BitVec 21)
/-- The word of format structure `IP` with an operation code. -/
def encIP (opc : BitVec 6) (o : IP) : W32 := encTop opc o.g ++ (o.pd ++ o.pa ++ o.pb ++ o.tt ++ (0 : BitVec 5) : BitVec 21)
/-- The word of format structure `IQC` with an operation code. -/
def encIQC (opc : BitVec 6) (o : IQC) : W32 := encTop opc o.g ++ (encDst o.d ++ o.q ++ (0 : BitVec 10) : BitVec 21)
/-- The word of format structure `IQD` with an operation code. -/
def encIQD (opc : BitVec 6) (o : IQD) : W32 := encTop opc o.g ++ ((0 : BitVec 6) ++ o.q ++ o.n ++ (0 : BitVec 7) : BitVec 21)
/-- The word of format structure `ISW` with an operation code. -/
def encISW (opc : BitVec 6) (o : ISW) : W32 := encTop opc o.g ++ (o.sr ++ o.f ++ encSrc o.a ++ (0 : BitVec 6) : BitVec 21)
/-- The word of format structure `ISR` with an operation code. -/
def encISR (opc : BitVec 6) (o : ISR) : W32 := encTop opc o.g ++ (encDst o.d ++ o.sr ++ o.f ++ bit o.shadow ++ (0 : BitVec 6) : BitVec 21)
/-- The word of format structure `FA` with an operation code. -/
def encFA (opc : BitVec 6) (o : FA) : W32 := encTop opc o.g ++ (encDst o.d ++ encSrc o.a ++ encSrc o.b ++ (0 : BitVec 1) : BitVec 21)
/-- The word of format structure `FA1` with an operation code. -/
def encFA1 (opc : BitVec 6) (o : FA1) : W32 := encTop opc o.g ++ (encDst o.d ++ encSrc o.a ++ (0 : BitVec 8) : BitVec 21)
/-- The word of format structure `FC` with an operation code. -/
def encFC (opc : BitVec 6) (o : FC) : W32 := encTop opc o.g ++ (o.pd ++ o.cond ++ encSrc o.a ++ encSrc o.b : BitVec 21)
/-- The word of format structure `IF` with an operation code. -/
def encIF (opc : BitVec 6) (o : IF) : W32 := encTop opc o.g ++ (encDst o.d ++ encSrc o.a ++ o.kind ++ o.rnd ++ (0 : BitVec 2) : BitVec 21)
/-- The word of format structure `VT` with an operation code. -/
def encVT (opc : BitVec 6) (o : VT) : W32 := encTop opc o.g ++ (o.td ++ o.ta ++ o.tb ++ o.grp ++ o.mask ++ o.mode : BitVec 21)
/-- The word of format structure `VT0` with an operation code. -/
def encVT0 (opc : BitVec 6) (o : VT0) : W32 := encTop opc o.g ++ (o.td ++ o.ta ++ o.tb ++ o.grp ++ o.mask ++ (0 : BitVec 2) : BitVec 21)
/-- The word of format structure `VT1` with an operation code. -/
def encVT1 (opc : BitVec 6) (o : VT1) : W32 := encTop opc o.g ++ (o.td ++ o.ta ++ (0 : BitVec 4) ++ o.grp ++ o.mask ++ (0 : BitVec 2) : BitVec 21)
/-- The word of format structure `VTM` with an operation code. -/
def encVTM (opc : BitVec 6) (o : VTM) : W32 := encTop opc o.g ++ (o.td ++ o.ta ++ (0 : BitVec 4) ++ o.grp ++ o.mask ++ o.mode : BitVec 21)
/-- The word of format structure `VS` with an operation code. -/
def encVS (opc : BitVec 6) (o : VS) : W32 := encTop opc o.g ++ (o.td ++ o.ta ++ o.grp ++ encSrc o.a ++ o.mask : BitVec 21)
/-- The word of format structure `VS1` with an operation code. -/
def encVS1 (opc : BitVec 6) (o : VS1) : W32 := encTop opc o.g ++ (o.td ++ (0 : BitVec 4) ++ o.grp ++ encSrc o.a ++ o.mask : BitVec 21)
/-- The word of format structure `VC` with an operation code. -/
def encVC (opc : BitVec 6) (o : VC) : W32 := encTop opc o.g ++ (o.md ++ o.ta ++ o.tb ++ o.grp ++ o.cond ++ o.mask : BitVec 21)
/-- The word of format structure `VCS` with an operation code. -/
def encVCS (opc : BitVec 6) (o : VCS) : W32 := encTop opc o.g ++ (o.md ++ o.ta ++ o.grp ++ o.cond ++ encSrc o.a : BitVec 21)
/-- The word of format structure `WC` with an operation code. -/
def encWC (opc : BitVec 6) (o : WC) : W32 := encTop opc o.g ++ (o.td ++ o.ta ++ o.grp ++ o.fmt ++ o.slice ++ bit o.sat ++ bit o.sto : BitVec 21)
/-- The word of format structure `WR` with an operation code. -/
def encWR (opc : BitVec 6) (o : WR) : W32 := encTop opc o.g ++ (encDst o.d ++ o.ta ++ o.grp ++ o.op ++ o.mask ++ (0 : BitVec 1) : BitVec 21)
/-- The word of format structure `WD` with an operation code. -/
def encWD (opc : BitVec 6) (o : WD) : W32 := encTop opc o.g ++ (o.xv ++ o.ta ++ o.tb ++ o.grp ++ o.mask ++ (0 : BitVec 4) : BitVec 21)
/-- The word of format structure `WX` with an operation code. -/
def encWX (opc : BitVec 6) (o : WX) : W32 := encTop opc o.g ++ (encDst o.d ++ o.xv ++ o.rnd ++ bit o.clr ++ (0 : BitVec 9) : BitVec 21)
/-- The word of format structure `WXC` with an operation code. -/
def encWXC (opc : BitVec 6) (o : WXC) : W32 := encTop opc o.g ++ ((0 : BitVec 6) ++ o.xv ++ (0 : BitVec 13) : BitVec 21)
/-- The word of format structure `WM` with an operation code. -/
def encWM (opc : BitVec 6) (o : WM) : W32 := encTop opc o.g ++ (o.md ++ o.ma ++ o.mb ++ o.tt ++ (0 : BitVec 8) : BitVec 21)
/-- The word of format structure `WQT` with an operation code. -/
def encWQT (opc : BitVec 6) (o : WQT) : W32 := encTop opc o.g ++ (o.k ++ (0 : BitVec 1) ++ encSrc o.a ++ (0 : BitVec 10) : BitVec 21)
/-- The word of format structure `WHW` with an operation code. -/
def encWHW (opc : BitVec 6) (o : WHW) : W32 := encTop opc o.g ++ (o.t ++ o.grp ++ (0 : BitVec 1) ++ encSrc o.a ++ (0 : BitVec 5) : BitVec 21)
/-- The word of format structure `MB` with an operation code. -/
def encMB (opc : BitVec 6) (o : MB) : W32 := encTop opc o.g ++ (o.t ++ o.grp ++ o.panel ++ o.pos ++ (0 : BitVec 4) : BitVec 21)
/-- The word of format structure `MT` with an operation code. -/
def encMT (opc : BitVec 6) (o : MT) : W32 := encTop opc o.g ++ (o.t ++ o.grp ++ (0 : BitVec 13) : BitVec 21)
/-- The word of format structure `MKS` with an operation code. -/
def encMKS (opc : BitVec 6) (o : MKS) : W32 := encTop opc o.g ++ ((0 : BitVec 5) ++ bit o.s ++ (0 : BitVec 15) : BitVec 21)
/-- The word of format structure `MK` with an operation code. -/
def encMK (opc : BitVec 6) (o : MK) : W32 := encTop opc o.g ++ (o.panel ++ o.xg ++ bit o.s ++ (0 : BitVec 15) : BitVec 21)
/-- The word of format structure `MKX` with an operation code. -/
def encMKX (opc : BitVec 6) (o : MKX) : W32 := encTop opc o.g ++ ((0 : BitVec 3) ++ o.xg ++ (0 : BitVec 16) : BitVec 21)
/-- The word of format structure `MD` with an operation code. -/
def encMD (opc : BitVec 6) (o : MD) : W32 := encTop opc o.g ++ (o.t ++ o.grp ++ o.xg ++ o.fmt ++ o.rnd ++ bit o.clr ++ bit o.auto ++ bit o.dyn ++ (0 : BitVec 1) : BitVec 21)
/-- The word of format structure `MS` with an operation code. -/
def encMS (opc : BitVec 6) (o : MS) : W32 := encTop opc o.g ++ (o.t ++ o.grp ++ o.xg ++ o.fmt ++ encSrc o.a : BitVec 21)
/-- The word of format structure `MX` with an operation code. -/
def encMX (opc : BitVec 6) (o : MX) : W32 := encTop opc o.g ++ (o.t ++ o.grp ++ o.row ++ o.cb ++ (0 : BitVec 7) : BitVec 21)
/-- The word of format structure `MQ` with an operation code. -/
def encMQ (opc : BitVec 6) (o : MQ) : W32 := encTop opc o.g ++ (encDst o.d ++ o.row ++ o.col ++ (0 : BitVec 5) : BitVec 21)
/-- The word of format structure `LT` with an operation code. -/
def encLT (opc : BitVec 6) (o : LT) : W32 := encTop opc o.g ++ (o.t ++ o.grp ++ o.lsh ++ bit o.swap ++ o.fmt ++ o.rnd ++ (0 : BitVec 3) : BitVec 21)
/-- The word of format structure `LA` with an operation code. -/
def encLA (opc : BitVec 6) (o : LA) : W32 := encTop opc o.g ++ (o.t ++ o.first ++ o.rows ++ encSrc o.a : BitVec 21)
/-- The word of format structure `LL` with an operation code. -/
def encLL (opc : BitVec 6) (o : LL) : W32 := encTop opc o.g ++ (encDst o.d ++ o.width ++ encSrc o.a ++ (0 : BitVec 5) : BitVec 21)
/-- The word of format structure `LLH` with an operation code. -/
def encLLH (opc : BitVec 6) (o : LLH) : W32 := encTop opc o.g ++ (encDst o.d ++ (0 : BitVec 3) ++ encSrc o.a ++ (0 : BitVec 5) : BitVec 21)
/-- The word of format structure `LS` with an operation code. -/
def encLS (opc : BitVec 6) (o : LS) : W32 := encTop opc o.g ++ (encSrc o.a ++ encSrc o.b ++ o.width ++ (0 : BitVec 4) : BitVec 21)
/-- The word of format structure `LSH` with an operation code. -/
def encLSH (opc : BitVec 6) (o : LSH) : W32 := encTop opc o.g ++ (encSrc o.a ++ encSrc o.b ++ (0 : BitVec 7) : BitVec 21)
/-- The word of format structure `LF` with an operation code. -/
def encLF (opc : BitVec 6) (o : LF) : W32 := encTop opc o.g ++ (o.k ++ (0 : BitVec 18) : BitVec 21)
/-- The word of format structure `LP` with an operation code. -/
def encLP (opc : BitVec 6) (o : LP) : W32 := encTop opc o.g ++ (encSrc o.a ++ encSrc o.b ++ (0 : BitVec 7) : BitVec 21)
/-- The word of format structure `LC` with an operation code. -/
def encLC (opc : BitVec 6) (o : LC) : W32 := encTop opc o.g ++ (o.q ++ encSrc o.a ++ encSrc o.b ++ (0 : BitVec 2) : BitVec 21)
/-- The word of format structure `LY` with an operation code. -/
def encLY (opc : BitVec 6) (o : LY) : W32 := encTop opc o.g ++ (encSrc o.a ++ encSrc o.b ++ encSrc o.c : BitVec 21)
/-- The word of format structure `LR` with an operation code. -/
def encLR (opc : BitVec 6) (o : LR) : W32 := encTop opc o.g ++ (o.slice ++ o.group ++ (0 : BitVec 13) : BitVec 21)
/-- The word of format structure `XN` with an operation code. -/
def encXN (opc : BitVec 6) (o : XN) : W32 := encTop opc o.g ++ (o.l ++ encSrc o.a ++ (0 : BitVec 11) : BitVec 21)
/-- The word of format structure `XS` with an operation code. -/
def encXS (opc : BitVec 6) (o : XS) : W32 := encTop opc o.g ++ (o.l ++ o.dim ++ encSrc o.a ++ encSrc o.b ++ (0 : BitVec 1) : BitVec 21)
/-- The word of format structure `XB` with an operation code. -/
def encXB (opc : BitVec 6) (o : XB) : W32 := encTop opc o.g ++ (o.pair ++ bit o.swap ++ encSrc o.a ++ bit o.ring ++ (0 : BitVec 11) : BitVec 21)
/-- The word of format structure `XP` with an operation code. -/
def encXP (opc : BitVec 6) (o : XP) : W32 := encTop opc o.g ++ (o.port ++ bit o.out ++ o.xsh ++ bit o.swap ++ (0 : BitVec 14) : BitVec 21)
/-- The word of format structure `XPU` with an operation code. -/
def encXPU (opc : BitVec 6) (o : XPU) : W32 := encTop opc o.g ++ (o.port ++ (0 : BitVec 18) : BitVec 21)
/-- The word of format structure `XA` with an operation code. -/
def encXA (opc : BitVec 6) (o : XA) : W32 := encTop opc o.g ++ (o.ip ++ o.vp ++ encSrc o.a ++ encSrc o.b ++ (0 : BitVec 1) : BitVec 21)
/-- The word of format structure `XF` with an operation code. -/
def encXF (opc : BitVec 6) (o : XF) : W32 := encTop opc o.g ++ (encSrc o.a ++ (0 : BitVec 14) : BitVec 21)
/-- The word of format structure `XM` with an operation code. -/
def encXM (opc : BitVec 6) (o : XM) : W32 := encTop opc o.g ++ (o.cls ++ encSrc o.a ++ (0 : BitVec 11) : BitVec 21)
/-- The word of format structure `XQ` with an operation code. -/
def encXQ (opc : BitVec 6) (o : XQ) : W32 := encTop opc o.g ++ (encSrc o.a ++ encSrc o.b ++ (0 : BitVec 7) : BitVec 21)
/-- The word of format structure `XT` with an operation code. -/
def encXT (opc : BitVec 6) (o : XT) : W32 := encTop opc o.g ++ (o.slot ++ (0 : BitVec 15) : BitVec 21)

/-- The word of VOADD_S64: its format with the bit that selects it set. -/
def encVoaddS64 (opc : BitVec 6) (o : LP) : W32 := encTop opc o.g ++ (encSrc o.a ++ encSrc o.b ++ (1 : BitVec 1) ++ (0 : BitVec 6) : BitVec 21)
/-- The word of VMSKQ_FROM_MASK: its format with the bit that selects it set. -/
def encVmskqFromMask (opc : BitVec 6) (o : WQF) : W32 := encTop opc o.g ++ (o.k ++ (1 : BitVec 1) ++ (0 : BitVec 7) ++ encDst o.d ++ (0 : BitVec 4) : BitVec 21)
/-- The word of VHDR_READ: its format with the bit that selects it set. -/
def encVhdrRead (opc : BitVec 6) (o : WHR) : W32 := encTop opc o.g ++ (o.t ++ o.grp ++ (1 : BitVec 1) ++ (0 : BitVec 7) ++ o.q : BitVec 21)

/-- The word of an instruction, written from the tables of R61 to R74; events have no word. -/
def encode : Instr → Option W32
  | .br o => some (encCB 1 o)
  | .call o => some (encCB 2 o)
  | .bri o => some (encCA 3 o)
  | .calli o => some (encCA 4 o)
  | .ret o => some (encFG 5 o)
  | .loop o => some (encCL 6 o)
  | .seg o => some (encCS 7 o)
  | .rdv o => some (encCN 8 o)
  | .bar o => some (encCNB 9 o)
  | .wake o => some (encCD 10 o)
  | .sleep o => some (encCD 11 o)
  | .waitg o => some (encCAB 12 o)
  | .waitr o => some (encCDAB 13 o)
  | .signal o => some (encCAB 14 o)
  | .launch o => some (encCDA 15 o)
  | .trap o => some (encCNT 16 o)
  | .endTask o => some (encFG 17 o)
  | .kchk o => some (encCK 18 o)
  | .csrr o => some (encCCR 19 o)
  | .csrw o => some (encCCW 20 o)
  | .add o => some (encIA 1 o)
  | .sub o => some (encIA 2 o)
  | .mul o => some (encIA 3 o)
  | .mulh o => some (encIA 4 o)
  | .mulhn o => some (encIA 5 o)
  | .divs o => some (encIA 6 o)
  | .divn o => some (encIA 7 o)
  | .rems o => some (encIA 8 o)
  | .remn o => some (encIA 9 o)
  | .and o => some (encIA 10 o)
  | .or o => some (encIA 11 o)
  | .xor o => some (encIA 12 o)
  | .andn o => some (encIA 13 o)
  | .shl o => some (encIA 14 o)
  | .shrl o => some (encIA 15 o)
  | .shra o => some (encIA 16 o)
  | .mins o => some (encIA 17 o)
  | .maxs o => some (encIA 18 o)
  | .minn o => some (encIA 19 o)
  | .maxn o => some (encIA 20 o)
  | .clz o => some (encIA1 21 o)
  | .popc o => some (encIA1 22 o)
  | .bfx o => some (encIA 23 o)
  | .bfi o => some (encIA 24 o)
  | .lea o => some (encIA 25 o)
  | .cmp o => some (encIC 26 o)
  | .plog o => some (encIP 27 o)
  | .mov o => some (encIA1 28 o)
  | .ldiH0 o => some (encIL 29 o)
  | .ldiH1 o => some (encIL 30 o)
  | .ldiH2 o => some (encIL 31 o)
  | .ldiH3 o => some (encIL 32 o)
  | .addi o => some (encII 33 o)
  | .qcnt o => some (encIQC 34 o)
  | .qdrop o => some (encIQD 35 o)
  | .shpw o => some (encISW 36 o)
  | .shpr o => some (encISR 37 o)
  | .fadd o => some (encFA 38 o)
  | .fsub o => some (encFA 39 o)
  | .fmul o => some (encFA 40 o)
  | .fmac o => some (encFA 41 o)
  | .fdiv o => some (encFA 42 o)
  | .fsqrt o => some (encFA1 43 o)
  | .fmin o => some (encFA 44 o)
  | .fmax o => some (encFA 45 o)
  | .fcmp o => some (encFC 46 o)
  | .fcvt o => some (encIF 47 o)
  | .vadd o => some (encVT 1 o)
  | .vsub o => some (encVT 2 o)
  | .vmul o => some (encVT 3 o)
  | .vfma o => some (encVT 4 o)
  | .vmin o => some (encVT0 5 o)
  | .vmax o => some (encVT0 6 o)
  | .vabs o => some (encVT1 7 o)
  | .vneg o => some (encVT1 8 o)
  | .vdiv o => some (encVT 9 o)
  | .vsqrt o => some (encVTM 10 o)
  | .vadds o => some (encVS 11 o)
  | .vmuls o => some (encVS 12 o)
  | .vfmas o => some (encVS 13 o)
  | .viadd o => some (encVT0 14 o)
  | .visub o => some (encVT0 15 o)
  | .vimul o => some (encVT0 16 o)
  | .vand o => some (encVT0 17 o)
  | .vor o => some (encVT0 18 o)
  | .vxor o => some (encVT0 19 o)
  | .vshl o => some (encVT0 20 o)
  | .vshr o => some (encVT0 21 o)
  | .vcmp o => some (encVC 22 o)
  | .vcmps o => some (encVCS 23 o)
  | .vsel o => some (encVT0 24 o)
  | .vmov o => some (encVT1 25 o)
  | .vbcst o => some (encVS1 26 o)
  | .viota o => some (encVS1 27 o)
  | .vcvt o => some (encWC 1 o)
  | .vperm o => some (encVT0 2 o)
  | .vlsh o => some (encVS 3 o)
  | .vrdx o => some (encWR 4 o)
  | .vdot o => some (encWD 5 o)
  | .vxdrn o => some (encWX 6 o)
  | .vxclr o => some (encWXC 7 o)
  | .vexp2 o => some (encVT1 8 o)
  | .vlog2 o => some (encVT1 9 o)
  | .vrcp o => some (encVT1 10 o)
  | .vrsq o => some (encVT1 11 o)
  | .vtanh o => some (encVT1 12 o)
  | .vsigm o => some (encVT1 13 o)
  | .vmsk o => some (encWM 14 o)
  | .vmskqToMask o => some (encWQT 15 o)
  | .vmskqFromMask o => some (encVmskqFromMask 15 o)
  | .vhdrRead o => some (encVhdrRead 16 o)
  | .vhdrWrite o => some (encWHW 16 o)
  | .mbld o => some (encMB 1 o)
  | .mpush o => some (encMT 2 o)
  | .mshift o => some (encMKS 3 o)
  | .macc o => some (encMK 4 o)
  | .mswap o => some (encFG 5 o)
  | .mdrain o => some (encMD 6 o)
  | .mdrns o => some (encMS 7 o)
  | .mclr o => some (encMKX 8 o)
  | .mspill o => some (encMX 9 o)
  | .mfill o => some (encMX 10 o)
  | .mstat o => some (encMQ 11 o)
  | .tld o => some (encLT 1 o)
  | .tst o => some (encLT 2 o)
  | .tlda o => some (encLA 3 o)
  | .tsta o => some (encLA 4 o)
  | .ld o => some (encLL 5 o)
  | .st o => some (encLS 6 o)
  | .ldh o => some (encLLH 7 o)
  | .sth o => some (encLSH 8 o)
  | .fence o => some (encLF 9 o)
  | .synca o => some (encLP 10 o)
  | .vref o => some (encLR 11 o)
  | .voadd o => some (encLP 12 o)
  | .voaddS64 o => some (encVoaddS64 12 o)
  | .vocas o => some (encLC 13 o)
  | .vosax o => some (encLY 14 o)
  | .publ o => some (encLP 15 o)
  | .hand o => some (encLY 16 o)
  | .tagr o => some (encLLH 17 o)
  | .lncnt o => some (encXN 1 o)
  | .lnstr o => some (encXS 2 o)
  | .bcopy o => some (encXB 3 o)
  | .sbind o => some (encXP 4 o)
  | .sunb o => some (encXPU 5 o)
  | .saego o => some (encXA 6 o)
  | .saef o => some (encXF 7 o)
  | .send o => some (encXM 8 o)
  | .recv o => some (encXM 9 o)
  | .synci o => some (encXQ 10 o)
  | .fslot o => some (encXT 11 o)
  | .emptyBundle => none
  | .secondaryHold => none
  | .land => none
  | .itemArrival _ => none
  | .accessPerforms _ => none
  | .lateCheckReplay _ => none
  | .remotePushLands _ _ _ => none
  | .segmentCheckpoint _ => none
  | .barrierComplete _ _ => none
  | .rendezvousComplete _ _ => none
  | .waitgWake _ => none
  | .waitrWake _ => none
  | .fenceRelease _ => none
  | .wrapSweepDone _ => none
  | .domainAwake _ => none
  | .copyBlockPost _ => none
  | .portPrefetch _ _ => none
  | .outPortWrite _ _ => none
  | .rowBufferFeedFill _ => none
  | .saeWindowApply _ => none
  | .refreshDue _ _ => none
  | .controllerRefresh _ _ => none
  | .columnDegraded _ => none
  | .rewind _ => none
  | .trapHandling _ => none
  | .preemptionRequest _ => none
  | .contextSave _ => none
  | .contextRestore _ => none
  | .watchdogSample => none
  | .watchdogKill _ => none
  | .gangStart _ => none
  | .gangCompletion _ => none
  | .create _ => none
  | .load _ => none
  | .post _ => none
  | .teardownQueue _ _ => none
  | .teardownSession _ => none
  | .telemetry _ => none
  | .blackbox _ => none
  | .attest _ _ => none
  | .diag _ _ _ => none
  | .fwupdate _ _ => none
  | .balanceWindow => none
  | .rampStep => none
  | .thermalObserverStep => none
  | .thermalTrip _ _ => none
  | .thermalTripClear _ _ => none
  | .powerSample => none
  | .powerFirmwareAbsent => none
  | .powerFirmwarePresent => none
  | .fabricSlot => none
  | .fabricStatusPoint => none
  | .holdTimeout => none
  | .fragmentArrival _ => none
  | .deadlineExpiry _ _ _ => none
  | .retransmissionRequest _ _ _ => none
  | .fabricAck _ _ => none
  | .linkDown _ => none
  | .probeOperation _ => none
  | .reset => none
  | .bootStage _ _ => none
  | .startTimeout => none
  | .railOutOfRange => none
  | .rejoin => none
  | .badkind _ _ _ => none
  | .redfishSettings _ _ => none

/-- The slot whose map an instruction word stands in; none for an event. -/
def Instr.slot : Instr → Option Slot
  | .br _ => some .C
  | .call _ => some .C
  | .bri _ => some .C
  | .calli _ => some .C
  | .ret _ => some .C
  | .loop _ => some .C
  | .seg _ => some .C
  | .rdv _ => some .C
  | .bar _ => some .C
  | .wake _ => some .C
  | .sleep _ => some .C
  | .waitg _ => some .C
  | .waitr _ => some .C
  | .signal _ => some .C
  | .launch _ => some .C
  | .trap _ => some .C
  | .endTask _ => some .C
  | .kchk _ => some .C
  | .csrr _ => some .C
  | .csrw _ => some .C
  | .add o => some o.slot.slot
  | .sub o => some o.slot.slot
  | .mul o => some o.slot.slot
  | .mulh o => some o.slot.slot
  | .mulhn o => some o.slot.slot
  | .divs o => some o.slot.slot
  | .divn o => some o.slot.slot
  | .rems o => some o.slot.slot
  | .remn o => some o.slot.slot
  | .and o => some o.slot.slot
  | .or o => some o.slot.slot
  | .xor o => some o.slot.slot
  | .andn o => some o.slot.slot
  | .shl o => some o.slot.slot
  | .shrl o => some o.slot.slot
  | .shra o => some o.slot.slot
  | .mins o => some o.slot.slot
  | .maxs o => some o.slot.slot
  | .minn o => some o.slot.slot
  | .maxn o => some o.slot.slot
  | .clz o => some o.slot.slot
  | .popc o => some o.slot.slot
  | .bfx o => some o.slot.slot
  | .bfi o => some o.slot.slot
  | .lea o => some o.slot.slot
  | .cmp o => some o.slot.slot
  | .plog o => some o.slot.slot
  | .mov o => some o.slot.slot
  | .ldiH0 o => some o.slot.slot
  | .ldiH1 o => some o.slot.slot
  | .ldiH2 o => some o.slot.slot
  | .ldiH3 o => some o.slot.slot
  | .addi o => some o.slot.slot
  | .qcnt o => some o.slot.slot
  | .qdrop o => some o.slot.slot
  | .shpw _ => some .J
  | .shpr _ => some .J
  | .fadd _ => some .J
  | .fsub _ => some .J
  | .fmul _ => some .J
  | .fmac _ => some .J
  | .fdiv _ => some .J
  | .fsqrt _ => some .J
  | .fmin _ => some .J
  | .fmax _ => some .J
  | .fcmp _ => some .J
  | .fcvt _ => some .J
  | .vadd _ => some .V
  | .vsub _ => some .V
  | .vmul _ => some .V
  | .vfma _ => some .V
  | .vmin _ => some .V
  | .vmax _ => some .V
  | .vabs _ => some .V
  | .vneg _ => some .V
  | .vdiv _ => some .V
  | .vsqrt _ => some .V
  | .vadds _ => some .V
  | .vmuls _ => some .V
  | .vfmas _ => some .V
  | .viadd _ => some .V
  | .visub _ => some .V
  | .vimul _ => some .V
  | .vand _ => some .V
  | .vor _ => some .V
  | .vxor _ => some .V
  | .vshl _ => some .V
  | .vshr _ => some .V
  | .vcmp _ => some .V
  | .vcmps _ => some .V
  | .vsel _ => some .V
  | .vmov _ => some .V
  | .vbcst _ => some .V
  | .viota _ => some .V
  | .vcvt _ => some .W
  | .vperm _ => some .W
  | .vlsh _ => some .W
  | .vrdx _ => some .W
  | .vdot _ => some .W
  | .vxdrn _ => some .W
  | .vxclr _ => some .W
  | .vexp2 _ => some .W
  | .vlog2 _ => some .W
  | .vrcp _ => some .W
  | .vrsq _ => some .W
  | .vtanh _ => some .W
  | .vsigm _ => some .W
  | .vmsk _ => some .W
  | .vmskqToMask _ => some .W
  | .vmskqFromMask _ => some .W
  | .vhdrRead _ => some .W
  | .vhdrWrite _ => some .W
  | .mbld _ => some .M
  | .mpush _ => some .M
  | .mshift _ => some .M
  | .macc _ => some .M
  | .mswap _ => some .M
  | .mdrain _ => some .M
  | .mdrns _ => some .M
  | .mclr _ => some .M
  | .mspill _ => some .M
  | .mfill _ => some .M
  | .mstat _ => some .M
  | .tld _ => some .L
  | .tst _ => some .L
  | .tlda _ => some .L
  | .tsta _ => some .L
  | .ld _ => some .L
  | .st _ => some .L
  | .ldh _ => some .L
  | .sth _ => some .L
  | .fence _ => some .L
  | .synca _ => some .L
  | .vref _ => some .L
  | .voadd _ => some .L
  | .voaddS64 _ => some .L
  | .vocas _ => some .L
  | .vosax _ => some .L
  | .publ _ => some .L
  | .hand _ => some .L
  | .tagr _ => some .L
  | .lncnt _ => some .X
  | .lnstr _ => some .X
  | .bcopy _ => some .X
  | .sbind _ => some .X
  | .sunb _ => some .X
  | .saego _ => some .X
  | .saef _ => some .X
  | .send _ => some .X
  | .recv _ => some .X
  | .synci _ => some .X
  | .fslot _ => some .X
  | .emptyBundle => none
  | .secondaryHold => none
  | .land => none
  | .itemArrival _ => none
  | .accessPerforms _ => none
  | .lateCheckReplay _ => none
  | .remotePushLands _ _ _ => none
  | .segmentCheckpoint _ => none
  | .barrierComplete _ _ => none
  | .rendezvousComplete _ _ => none
  | .waitgWake _ => none
  | .waitrWake _ => none
  | .fenceRelease _ => none
  | .wrapSweepDone _ => none
  | .domainAwake _ => none
  | .copyBlockPost _ => none
  | .portPrefetch _ _ => none
  | .outPortWrite _ _ => none
  | .rowBufferFeedFill _ => none
  | .saeWindowApply _ => none
  | .refreshDue _ _ => none
  | .controllerRefresh _ _ => none
  | .columnDegraded _ => none
  | .rewind _ => none
  | .trapHandling _ => none
  | .preemptionRequest _ => none
  | .contextSave _ => none
  | .contextRestore _ => none
  | .watchdogSample => none
  | .watchdogKill _ => none
  | .gangStart _ => none
  | .gangCompletion _ => none
  | .create _ => none
  | .load _ => none
  | .post _ => none
  | .teardownQueue _ _ => none
  | .teardownSession _ => none
  | .telemetry _ => none
  | .blackbox _ => none
  | .attest _ _ => none
  | .diag _ _ _ => none
  | .fwupdate _ _ => none
  | .balanceWindow => none
  | .rampStep => none
  | .thermalObserverStep => none
  | .thermalTrip _ _ => none
  | .thermalTripClear _ _ => none
  | .powerSample => none
  | .powerFirmwareAbsent => none
  | .powerFirmwarePresent => none
  | .fabricSlot => none
  | .fabricStatusPoint => none
  | .holdTimeout => none
  | .fragmentArrival _ => none
  | .deadlineExpiry _ _ _ => none
  | .retransmissionRequest _ _ _ => none
  | .fabricAck _ _ => none
  | .linkDown _ => none
  | .probeOperation _ => none
  | .reset => none
  | .bootStage _ _ => none
  | .startTimeout => none
  | .railOutOfRange => none
  | .rejoin => none
  | .badkind _ _ _ => none
  | .redfishSettings _ _ => none

/-- The slots in the order `decodeTableWord` tries them (DESIGN CHOICE, log 7: a table row's bits do not name its slot). -/
def allSlots : List Slot := [.C, .I, .J, .V, .W, .M, .L, .X]

/-- The first slot whose map gives the word an instruction, with that instruction. -/
def decodeAny (w : W32) : Option (Slot × Instr) :=
  allSlots.findSome? (fun s => match decode s w with
    | .instr i => some (s, i)
    | _ => none)

/-- The instruction of a table row's word, numbered as the table numbers its bits: in the first slot that has it. -/
def decodeTableWord (nbits w : Nat) : Option Instr := (decodeAny (BitVec.ofNat 32 (w % 2 ^ nbits))).map (·.2)

/-! ### Bundle headers and packets (R51 to R54) -/

/-- Number of slots present in a bundle header's mask (R54). -/
def maskCount (h : W32) : Nat := (List.range 8).countP (fun i => bitAt h (24 + i))

/-- Words a stored bundle occupies: its header and one word per slot present (R52). -/
def bundleLen (h : W32) : Nat := 1 + maskCount h

/-- The scope field of a bundle header (R54). -/
def hdrScope (h : W32) : Nat := (bits h 21 3).toNat
/-- The profile field (R54). -/
def hdrProfile (h : W32) : Nat := (bits h 17 4).toNat
/-- The ROT bit (R54). -/
def hdrRot (h : W32) : Bool := bitAt h 16

/-- Word `i` of a packet. -/
def pword (ws : List W32) (i : Nat) : W32 := ws.getD i 0

/-- Start bit of word `i` in the packet header (R51). -/
def startBit (ws : List W32) (i : Nat) : Bool := 1 ≤ i && i < 16 && bitAt (pword ws 0) i

/-- Do the start map and the padding agree with the bundles stored from word `i` on (R52)? -/
def walkOk (ws : List W32) : Nat → Nat → Bool
  | 0, _ => true
  | fuel + 1, i =>
    let n := i + bundleLen (pword ws i)
    if (List.range 16).any (fun j => i < j && j < n && startBit ws j) then false
    else if 16 < n then true
    else if (List.range 16).any (fun j => n ≤ j && startBit ws j) then startBit ws n && walkOk ws fuel n
    else (List.range 16).all (fun j => j < n || pword ws j == 0)

/-- Is the packet header, its start map and its padding as R51 and R52 require? -/
def packetOk (ws : List W32) : Bool :=
  bits (pword ws 0) 16 16 == 0 && !bitAt (pword ws 0) 0 && startBit ws 1 && walkOk ws 16 1

/-- The slot words of the bundle whose header is at word `i`, each with its slot, in slot order (R52). -/
def slotWords (ws : List W32) (i : Nat) : List (Slot × W32) :=
  let present := allSlots.filter (fun s => bitAt (pword ws i) (24 + s.idx))
  present.zipIdx.map (fun p => (p.1, pword ws (i + 1 + p.2)))

end Sys2Proof
end

