-- ==== Sys2Proof/Machine/SMap.lean ====
section
/-! DEFINITION. Sys2Proof/Machine/SMap.lean: sparse data by key in one canonical form. A map is a list of (key, value)
pairs with strictly rising keys and no value equal to the default `d`, which every unlisted key reads as. -/

namespace Sys2Proof.Machine

/-- Sparse data: keys to values, held as a sorted list. -/
abbrev SMap (α : Type) := List (Nat × α)

namespace SMap
variable {α : Type}

/-- The value at a key; `d` where the key is not listed. -/
def get (d : α) : SMap α → Nat → α
  | [], _ => d
  | (k, v) :: m, i => if k = i then v else get d m i

/-- Remove a key. -/
def erase (m : SMap α) (i : Nat) : SMap α := m.filter (fun p => !(p.1 == i))

/-- Insert a key that is not listed, before the first greater key. -/
def ins (i : Nat) (v : α) : SMap α → SMap α
  | [] => [(i, v)]
  | (k, w) :: m => if i < k then (i, v) :: (k, w) :: m else (k, w) :: ins i v m

/-- Set the value at a key; setting the default removes the entry. -/
def set [DecidableEq α] (d : α) (m : SMap α) (i : Nat) (v : α) : SMap α :=
  if v = d then erase m i else ins i v (erase m i)

/-- The canonical form: keys strictly rising, no default value listed. -/
def wf [DecidableEq α] (d : α) : SMap α → Bool
  | [] => true
  | (k, v) :: m => decide (v ≠ d) && m.all (fun p => decide (k < p.1)) && wf d m

/-- Remove every key of the half-open range `[lo, lo + n)`. -/
def clear (m : SMap α) (lo n : Nat) : SMap α := m.filter (fun p => !(decide (lo ≤ p.1) && decide (p.1 < lo + n)))

/-- The entries of values that stand at consecutive keys from `k` on. -/
def listed [DecidableEq α] (d : α) : Nat → List α → SMap α
  | _, [] => []
  | k, x :: xs => if x = d then listed d (k + 1) xs else (k, x) :: listed d (k + 1) xs

/-- Set the values at consecutive keys from `lo` on. -/
def splice [DecidableEq α] (d : α) (m : SMap α) (lo : Nat) (xs : List α) : SMap α :=
  m.filter (fun p => decide (p.1 < lo)) ++ listed d lo xs ++ m.filter (fun p => decide (lo + xs.length ≤ p.1))

end SMap
end Sys2Proof.Machine
end

