-- ==== Sys2Proof/Machine/State.lean ====
section
/-! DEFINITION. Sys2Proof/Machine/State.lean: the state of the machine as plain data: one core of the tower with its two
bundle streams, the memory it addresses, and the device-level units whose effect on it the manual gives. -/

namespace Sys2Proof.Machine

/-- Why a step can stop with a fault. -/
inductive Fault where
  /-- Raised by `step` alone, for a state in which the device is held in reset or FAILED (R376, R365) and no outside input
  waits: the device then does nothing until its surroundings change. Safe: nothing is claimed of such a device. -/
  | heldInReset
  deriving DecidableEq, Repr

/-- Why a step can be refused. -/
inductive Refusal where
  /-- Raised by the dispatcher for an instruction the model gives no meaning yet. Safe: nothing is claimed of it. -/
  | notModelled (mnemonic : String)
  deriving DecidableEq, Repr

/-- The trap and event codes of R341. -/
inductive TrapCode where
  | illegalOpcode | illegalSlot | illegalOperand | illegalBundle | illegalProfile | illegalField | badTarget | privilege
  | queueOver | queueUnder | windowRead | latchLost | streamUnbound | linkStack
  | domainAsleep | domainBusy | domainNotOwned | matrixSeq | guard | profileMix
  | format | headerMismatch | rowCheck | silentCheck | modelRace | syncOvershoot
  | translation | permission | align | windowAccess | planOrder | launchReject
  | fabricLoss | fabricHoldTimeout | refreshLate | columnDegraded | watchdog | uncorrectable | software
  deriving DecidableEq, Repr

/-- The code byte of a trap (R341). -/
def TrapCode.num : TrapCode → Nat
  | .illegalOpcode => 0x01 | .illegalSlot => 0x02 | .illegalOperand => 0x03 | .illegalBundle => 0x04
  | .illegalProfile => 0x05 | .illegalField => 0x06 | .badTarget => 0x07 | .privilege => 0x08
  | .queueOver => 0x10 | .queueUnder => 0x11 | .windowRead => 0x12 | .latchLost => 0x13 | .streamUnbound => 0x14
  | .linkStack => 0x15 | .domainAsleep => 0x20 | .domainBusy => 0x21 | .domainNotOwned => 0x22 | .matrixSeq => 0x28
  | .guard => 0x29 | .profileMix => 0x2A | .format => 0x30 | .headerMismatch => 0x31 | .rowCheck => 0x32
  | .silentCheck => 0x33 | .modelRace => 0x38 | .syncOvershoot => 0x39 | .translation => 0x40 | .permission => 0x41
  | .align => 0x42 | .windowAccess => 0x43 | .planOrder => 0x48 | .launchReject => 0x49 | .fabricLoss => 0x50
  | .fabricHoldTimeout => 0x51 | .refreshLate => 0x58 | .columnDegraded => 0x59 | .watchdog => 0x60
  | .uncorrectable => 0x61 | .software => 0x70

/-- A trap cause with its rank (R339), the slot of its word (0xFF where the record names none) and what the record
holds of it (R340, R341). -/
structure Cause where
  rank    : Nat
  slot    : Nat
  code    : TrapCode
  addr    : Nat := 0
  aux     : Nat := 0
  sub     : Nat := 0
  replay  : Bool := false     -- record flag [2]
  pending : Bool := false     -- record flag [3]
  deriving DecidableEq, Repr

/-- A tile row: payload, the two header copies and the stored CRC-32C (R31). -/
structure Row where
  payload : BitVec 512
  h1      : BitVec 16
  h2      : BitVec 16
  crc     : W32
  deriving DecidableEq, Repr

/-- CRC-32C of 64 zero bytes, the stored CRC of a row at its start value (R20). -/
def zeroRowCrc : W32 := 0x3C8EB67

/-- The start value of a tile row (R20). -/
def Row.start : Row := ⟨0, 0, 0, zeroRowCrc⟩

/-- An exact accumulator: 640-bit two's-complement number, flags and profile tag (R225, R226). -/
structure Acc where
  val  : BitVec 640
  nan  : Bool
  pinf : Bool
  ninf : Bool
  tag  : BitVec 2
  deriving DecidableEq, Repr

/-- The cleared accumulator (R225). -/
def Acc.clear : Acc := ⟨0, false, false, false, 0⟩

/-- A panel row: 64 elements of at most 16 bits and the block header (R157). -/
structure PRow where
  elems : BitVec 1024
  hdr   : BitVec 16
  deriving DecidableEq, Repr

/-- A panel row that reads NONE (R20). -/
def PRow.none : PRow := ⟨0, 0⟩

/-- State of half a row buffer (R159). -/
inductive HalfSt where
  | empty | filling | full
  deriving DecidableEq, Repr

/-- One half of the row buffer: its 16 rows with headers (lane i is rows 4i to 4i + 3), the plane counter, the profile of
its earlier beats (0 none), and for a filling half the cycle it is full (0: when its feed's rows arrive) (R159 to R161). -/
structure Half where
  st      : HalfSt
  rows    : List (BitVec 512 × BitVec 16)
  fmt     : Nat
  counter : Nat
  prof    : Nat
  readyAt : Nat
  bad     : Option Cause          -- a feed block that fails R159's checks (R204)
  deriving DecidableEq, Repr

/-- An empty half. -/
def Half.empty : Half := ⟨.empty, [], 0, 0, 0, 0, none⟩

/-- An open profile-2 pass: its panel and row group once a MACC has named them, and per accumulator and K-block the exact
sum of the finite terms (a multiple of 2^-1200), with special terms' flags (R163, R232). -/
structure Pass where
  panel : Option (Nat × Nat)
  sums  : SMap Int
  flags : SMap (BitVec 3)
  deriving DecidableEq, Repr

/-- Power-domain states (R291). -/
inductive DomSt where
  | asleep | queued | waking | awake
  deriving DecidableEq, Repr

/-- A power domain: its state, its owner, the cycle it becomes awake while waking, and the cycle its WAKE issued. -/
structure Dom where
  st    : DomSt
  owner : Option Sid
  due   : Nat
  since : Nat
  deriving DecidableEq, Repr

/-- A domain asleep with no owner. -/
def Dom.off : Dom := ⟨.asleep, none, 0, 0⟩

/-- A wake in the admission queue of a series pair: this core's or the other core's, and its domain (R292). -/
structure PairWake where
  mine : Bool
  dom  : Nat
  deriving DecidableEq, Repr

/-- A scalar result in flight: its slot, value, the physical queue it is pushed to, its landing cycle and issue order
(R25, R47). A push that QDROP discards keeps its latch move (R119). -/
structure Flight where
  slot : Nat
  val  : W64
  q    : Option Nat
  due  : Nat
  seq  : Nat
  deriving DecidableEq, Repr

/-- How a tile-row write sets the header when it lands (R131, R140, R143, R145, R154). -/
inductive HdrRule where
  | keep
  | fixed (h : BitVec 16)
  | keepOr (h : BitVec 16)          -- keeps 0x7F70 and 0x7FB0, else takes h
  | oddE2M1 (nanLane : Bool)        -- the odd slice of a narrowing to E2M1
  deriving DecidableEq, Repr

/-- A write to one physical tile row in flight: the payload bits it sets, its header rule, and whether the CRC is
recomputed. `ready` is false while its data has not arrived. Rows are pending from issue to landing (R32). A write of a copy,
a port or the SAE belongs to no segment: it is not journaled, and a rewind keeps it (R87, R355; log 65). -/
structure RowOp where
  sid   : Sid
  row   : Nat
  mask  : BitVec 512
  bits  : BitVec 512
  hdr   : HdrRule
  crc   : Bool
  ready : Bool
  due   : Nat
  seq   : Nat
  acc   : Option Nat               -- the memory access or copy that brings the data
  unit  : Bool := false            -- written by a copy, a port or the SAE
  deriving DecidableEq, Repr

/-- A mask write in flight (R130). -/
structure MaskOp where
  sid : Sid
  m   : Nat
  val : W64
  due : Nat
  seq : Nat
  deriving DecidableEq, Repr

/-- A VDOT's result in flight: value, flags and tag land together (R148). -/
structure XvOp where
  sid : Sid
  xv  : Nat
  val : Acc
  due : Nat
  seq : Nat
  deriving DecidableEq, Repr

/-- An engine operation in flight, as the scoreboards of R94, R150, R158, R164 and R165 see it. -/
inductive Unit where
  | vw                      -- a V or W word
  | xv (i : Nat)            -- a VDOT into xv i
  | panel (p : Nat)         -- an MBLD into panel p
  | panelUse (p : Nat)      -- a MACC on panel p
  | work (xg : Nat)         -- a writer of working-bank row group xg
  | mword                   -- an M word other than MBLD
  deriving DecidableEq, Repr

/-- A busy marker: the unit, its stream and the landing cycle. -/
structure Busy where
  sid  : Sid
  unit : Unit
  due  : Nat
  deriving DecidableEq, Repr

/-- A memory operation as it performs at its bank, with everything captured at issue. `fmt`, `rnd`, `seed` and `step` are
those of a converting transfer (R183 to R185, R221). -/
inductive MemOp where
  | ld (addr : Nat) (width : Nat)
  | ldh (addr : Nat)
  | tagr (addr : Nat)
  | st (addr : Nat) (bytes : List Byte)
  | sth (addr : Nat) (h : BitVec 16)
  | tld (row0 tile : Nat) (shape : List W64) (fmt rnd : Nat) (seed step : W64) (grp : Nat)
  | tst (tile : Nat) (rows : List Row) (shape : List W64) (fmt rnd : Nat) (seed step : W64) (grp : Nat)
  | tlda (row0 n : Nat) (addr : Nat)
  | tsta (rows : List Row) (addr : Nat)
  | voadd (addr : Nat) (v : W32)
  | voadd64 (addr : Nat) (v : W64)
  | vocas (addr : Nat) (old new : W64)
  | vosax (y x : Nat) (s : W32)
  | synca (addr amt : Nat)
  | synci (addr tgt : Nat)
  | publ (addr n : Nat)              -- tag transitions of a range (R197)
  | hand (addr n : Nat) (m : BitVec 10)
  | signal (addr status : Nat)
  | launch (record : Nat)            -- a LAUNCH acts after its release; its status lands like a load (R98)
  | push (core q : Nat) (sec : Bool) (v : W64)
  | probe (addr : Nat)               -- the late checks of a suppressed SYNCI, which writes nothing (R357)
  deriving DecidableEq, Repr

/-- The path of an access (R178). -/
inductive Path where
  | localPath | vertical | horizontal
  deriving DecidableEq, Repr

/-- An access in flight: its operation, the paths of its blocks, the ordinal of its bundle in the segment, the first cycle it may perform in, its
nominal landing cycle (0 where nothing lands) and its arrival cycle (of a push: the cycle it reached its mailbox, 0 before),
the destination queue of a scalar result, what it brought, and the stored error that arrives with it (R22, R178 to R181, R356, R380). -/
structure Access where
  id      : Nat
  sid     : Sid
  slot    : Nat
  ord     : Nat
  op      : MemOp
  paths   : List Path
  perform : Nat
  land    : Nat
  arrive  : Nat
  q       : Option Nat
  seq     : Nat
  done    : Bool
  val     : Option W64
  checked : Bool                   -- its late checks returned before its commit bundle issued (R177)
  scope   : Nat                    -- of a release: which earlier accesses it waits for (R253)
  err     : Option Cause := none
  deriving DecidableEq, Repr

/-- A loop level (R85). -/
structure LoopLvl where
  first : W64
  last  : W64
  iters : Nat
  j     : Nat
  count : Nat
  deriving DecidableEq, Repr

/-- A sequencer level (R198). -/
structure SeqLvl where
  c : Nat
  d : Nat
  u : Int
  w : Int
  deriving DecidableEq, Repr

/-- The start value of a sequencer level. -/
def SeqLvl.start : SeqLvl := ⟨1, 0, 0, 0⟩

/-- The scalar state of a stream that a segment checkpoint holds (R87, R354): queues, predicates, rotation base, stacks,
shapes (key: 64·register + 32·shadow + field), levels, the task control registers 0x000 to 0x004, the PC with its pending
delay target, and the safe-point count. -/
structure Scalars where
  pc        : W64
  delay     : Option W64          -- the bundle at pc is a delay bundle; then the target (R82)
  queues    : SMap (List W64)
  preds     : BitVec 16
  rb        : BitVec 4
  link      : List W64            -- top first
  loops     : List LoopLvl        -- innermost first
  shapes    : SMap W64
  levels    : SMap SeqLvl
  profile   : BitVec 4
  vrnd      : BitVec 3
  mrnd      : BitVec 3
  seed      : W64
  step      : W64
  safeCount : Nat
  deriving DecidableEq, Repr

/-- What a launch fixes for a member (R278 to R286). -/
structure Task where
  entry    : W64
  param    : W64
  event    : W64
  asid     : BitVec 12
  queue    : Nat
  stepNo   : Nat
  gslot    : BitVec 4
  member   : BitVec 10
  members  : BitVec 10
  ext      : List Nat
  walk     : BitVec 18
  tix      : Nat
  tixEnd   : Nat
  ended    : Nat
  tiles    : Nat
  banks    : Nat
  safe     : Nat
  mail     : BitVec 8
  rdv      : BitVec 16
  refresh  : Bool
  halfTime : Bool
  barriers : Bool
  deriving DecidableEq, Repr

/-- No task: the values a stream has before any launch. -/
def Task.none : Task :=
  ⟨0, 0, 0, 0, 0, 0, 0, 0, 0, [], 0, 0, 0, 0, 0, 0, 65536, 0, 0, false, false, false⟩

/-- What a stream does. -/
inductive Status where
  | idle | running
  | finished          -- its member has ended its last tile (R100)
  | trapped           -- a record is written and the service has not acted (R338)
  | saved             -- its context is in the save area (R348)
  | restoring         -- its domains wake and its contents are read back (R349)
  deriving DecidableEq, Repr

/-- A wait in progress at the bundle held at issue (R80, R381). -/
inductive Wait where
  | bar (n : Nat)
  | rdv (n id : Nat)
  | solo            -- an RDV at core scope that a pre-emption request keeps from completing (R90, R344)
  | released        -- its barrier or rendezvous is complete
  | arriving        -- a BAR or RDV that waits for its release before it is reached (R90, R91, R253)
  | other
  deriving DecidableEq, Repr

/-- An entry of an in-port: the element's stored bits, or what a read of it raises (R203). -/
structure PEntry where
  val : W64
  bad : Option Cause
  deriving DecidableEq, Repr

/-- Direction of a bound port; s7 can be the row-buffer feed (R203, R204). -/
inductive PortKind where
  | input | output | feed
  deriving DecidableEq, Repr

/-- A bound stream port: its shape, the next walk position, entries not yet read, the next cycle the unit may act, the
entries the SAE still has to take, and entries fed and not yet written; whether a block is in flight, which holds a request
entry (R181); the issue order and scope of its SBIND, for the stores it comes after (R199, R203 to R205, R255). -/
structure Port where
  kind    : PortKind
  shape   : List W64
  pos     : Nat
  entries : List PEntry
  next    : Nat
  sae     : Nat
  fed     : List W64
  closing : Bool                  -- unbound by SUNB with entries still to drain
  flying  : Bool := false
  seq     : Nat := 0
  scope   : Nat := 0
  deriving DecidableEq, Repr

/-- A fault of a copy, port, window or send, until a FENCE raises it (R202). -/
structure XFault where
  code : TrapCode
  addr : Nat
  aux  : Nat
  deriving DecidableEq, Repr

/-- A copy that is not complete: `next` is the next cycle it may begin a block, `flying` its blocks in flight, each with the
first cycle it may post in; its number is its issue order, and its scope says which earlier stores it follows (R181, R199 to
R201). -/
structure Copy where
  id     : Nat
  sid    : Sid
  src    : List W64
  dst    : List W64
  levels : List SeqLvl
  sync   : Option Nat
  ring   : Bool
  fabric : Bool
  total  : Nat                    -- blocks
  done   : List Nat
  posted : Nat
  fault  : Option TrapCode
  next   : Nat
  asid   : BitVec 12              -- tag identity of the issuing stream (R258)
  gslot  : BitVec 4
  member : BitVec 10
  scope  : Nat := 0
  flying : List (Nat × Nat) := []
  deriving DecidableEq, Repr

/-- Where a submission stands in its stream: its issue order and the scope of its bundle, for what it comes after (R192, R199,
R255). -/
structure Place where
  seq   : Nat
  scope : Nat
  deriving DecidableEq, Repr

/-- A submission to the scatter-accumulate engine: updates still to take from an index and a value port, or the closing of
the open window, with the sync word to count (R205, R206). -/
inductive SaeSub where
  | updates (ip vp base left : Nat) (at' : Place)
  | close (sync : Option Nat) (at' : Place)
  deriving DecidableEq, Repr

/-- A closed window of updates (address and value), or an SAEF's sync word to count once the windows before it are
applied (R205, R206), with the latest submission it holds. -/
inductive SaeItem where
  | window (ups : List (Nat × W32)) (at' : Place)
  | flush (sync : Nat) (at' : Place)
  deriving DecidableEq, Repr

/-- The scatter-accumulate engine of a stream: `last` is the place of the latest submission taken, `flying` whether its oldest
item is in flight, which holds a request entry (R181). -/
structure Sae where
  subs   : List SaeSub
  opened : List (Nat × W32)       -- the open window, oldest first
  items  : List SaeItem           -- closed, oldest first
  next   : Nat
  last   : Place := ⟨0, 0⟩
  flying : Bool := false
  deriving DecidableEq, Repr

/-- A RECV posted and not yet completed, with its number in posting order (R207). -/
structure Recv where
  num    : Nat
  cls    : Nat
  source : Nat
  tag    : Nat
  sync   : Nat
  seq    : Option Nat             -- the matched message
  deriving DecidableEq, Repr

/-- A message kept by its sender until its last deadline has passed (R305, R316). -/
structure Sent where
  id       : Nat
  sid      : Sid
  asid     : BitVec 12            -- tag identity of the sending stream
  gslot    : BitVec 4
  member   : BitVec 10
  cls      : Nat
  seq      : Nat
  dest     : Nat
  offset   : Nat
  tag      : Nat
  len      : Nat
  deadline : Nat
  k        : Nat
  m        : Nat
  retx     : Bool
  src      : Nat
  readAt   : Nat                  -- the cycle its source is read (R270)
  read     : Bool
  frags    : List (List Byte)     -- fragment data, F + G bytes each
  copy     : Option Nat           -- the fabric-scope copy it belongs to (R319)
  live     : Bool                 -- the task that sent it is still on its stream (R313)
  asked    : Bool                 -- its retransmission request has come (R316)
  deriving DecidableEq, Repr

/-- A fragment queued on the first link of its path: its message's number, its index, whether it is resent, and the cycle it was queued
in (R311, R312, R316). -/
structure QFrag where
  msg  : Nat
  idx  : Nat
  retx : Bool
  at'  : Nat
  deriving DecidableEq, Repr

/-- What the first write in a segment journals: an item and its value before (R87, R133, R172). -/
inductive JEntry where
  | row (i : Nat) (r : Row)
  | acc (i : Nat) (a : Acc)          -- 1024·bank + 64·row + column
  | mask (i : Nat) (v : W64)
  | xv (i : Nat) (a : Acc)
  | panelRow (i : Nat) (p : PRow)
  | panelFmt (i : Nat) (f : Nat)
  | rowBuf (active shadow : Half) (pass : Option Pass)
  | bank (b : Bool)
  deriving DecidableEq, Repr

/-- A segment checkpoint: the scalar state, the ports' walk positions and bindings, whether the segment's first bundle is the
commit bundle of a SEG.c, the segment id, and the member's place in its slice (R48, R87, R100, R354, R373). -/
structure Checkpoint where
  sc     : Scalars
  ports  : SMap (Option Port)
  seq    : Nat                      -- results numbered below it belong to earlier segments
  commit : Bool := false
  tix    : Nat := 0                 -- the tile at issue, and the tiles ended
  ended  : Nat := 0
  seg    : BitVec 16 := 0           -- the segment id
  deriving DecidableEq, Repr

/-- A replay in progress (R177): the ordinal of the bundle that holds the failing word, and the first detection. -/
structure Replay where
  ord   : Nat
  cause : Cause
  deriving DecidableEq, Repr

/-- One bundle stream of the core (R18, R20). -/
structure Stream where
  status     : Status
  task       : Task
  sc         : Scalars
  la         : SMap (Option W64)  -- latches l0a to l7a; none is invalid (R25)
  lb         : SMap (Option W64)
  ports      : SMap (Option Port) -- s0 to s7
  segId      : BitVec 16
  commit     : Bool               -- the bundle issued before held SEG.c (R48)
  ckptDue    : Option Nat         -- a checkpoint waits for these results' issue order (R87, R88)
  ckpt       : Option Checkpoint
  journal    : List JEntry        -- newest first
  retries    : Nat
  skip       : Nat                -- BCOPY, SYNCI and SAEF words still suppressed (R357)
  worked     : Nat                -- such words issued since the checkpoint
  ord        : Nat                -- bundles issued since the checkpoint
  replay     : Option Replay
  error      : Option Cause       -- a detected error whose rewind is due (R356)
  consumed   : Option Cause := none  -- an error that has arrived with data, detected at the next bundle that issues (R356)
  passed     : List (Nat × Nat × Nat) := []  -- tag checks passed since the checkpoint: ordinal, slot, block (R250)
  flights    : List Flight
  xfault     : Option XFault
  overshoot  : Option (Nat × W64) -- address and value of the first since the last WAITG (R95)
  wait       : Option Wait
  fslot      : Option Nat         -- the slot whose first cycle an FSLOT waits for (R208)
  holdUntil  : Nat                -- the bundle after PUBL or HAND (R197)
  waits2     : Nat                -- a rewind's restoring time: nothing issues before this cycle (R356)
  ready19    : Nat                -- ready cycles passed over (R19)
  refreshDue : Option (Nat × Nat) -- slice and group of the first REFRESH_LATE due (R195, R363)
  holdTmo    : Option Nat         -- FABRIC_HOLD_TIMEOUT due, with the period count (R313)
  losses     : List (Nat × Nat × Nat × Nat)  -- FABRIC_LOSS due: source, class, tag, sequence (R318)
  recvs      : List Recv          -- in posting order
  sae        : Sae
  preempt    : Bool               -- a pre-emption request is pending (R344)
  atSafe     : Bool               -- its last bundle ended at a safe point: a SEG.s, or a SEG.s.c's commit bundle (R89)
  safeC      : Bool               -- its last bundle was a SEG.s.c: the safe point follows the commit bundle (R88, R89)
  record     : Option (BitVec 512)
  actAt      : Nat                -- the cycle the service acts on the record
  progress   : Nat                -- bundles issued, for the watchdog (R351)
  lastProg   : Option Nat         -- the counter at the previous sample; none before the first
  unsampled  : Bool               -- no bundle has issued since it started or resumed (R351)
  still      : Nat                -- consecutive samples with no advance
  resumed    : Bool               -- no bundle has issued in the gang since a watchdog-forced resume (R352)
  saveBy     : Option Nat         -- a forced save must be complete by this cycle (R352)
  lateAt     : Option Nat         -- the cycle the late checks of the bundle held at issue return (R177)
  presented  : Bool               -- the bundle at issue has been presented before (R381)
  mailLog    : List (Nat × W64)   -- remote pushes landed since the checkpoint: queue and value (R354)
  owed       : List (Nat × Nat × Nat)  -- RECV updates behind an earlier SYNCI: issue order, sync word, length (R192)
  deriving DecidableEq, Repr

/-- A kernel header loaded for a session (R282): its address and its first three words. -/
structure Kernel where
  addr : Nat
  w0   : W64
  w1   : W64
  w2   : W64
  deriving DecidableEq, Repr

/-- A session (R324). Phases are per gang slot (R252). -/
structure Session where
  asid    : BitVec 12
  xmin    : Nat
  xmax    : Nat
  ymin    : Nat
  ymax    : Nat
  pages   : List Mapping
  queues  : List (Nat × Nat)      -- queue number and priority
  classes : List Nat
  assoc   : Nat
  keys    : Option (List Nat)
  window  : Bool
  strict  : Bool
  kernels : List Kernel
  phases  : SMap (BitVec 16)
  taken   : List Nat              -- gang slots in use, or waiting for a wrap sweep
  sweeps  : List (Nat × Nat)      -- gang slots being swept, with the cycle the sweep ends
  losses  : List (Nat × Nat × Nat × Nat)     -- kept losses: source, class, tag, sequence (R318)
  decoded : List (Nat × Nat × Nat × Nat × Nat)  -- decoded, not matched: source, class, tag, sequence, length
  deriving DecidableEq, Repr

/-- A plan step: its queue and number, its session, its record and its predecessors (R274 to R277). -/
structure PlanStep where
  queue  : Nat
  num    : Nat
  asid   : BitVec 12
  record : List W64
  preds  : List (Nat × Nat)
  deriving DecidableEq, Repr

/-- A gang that runs (R274): its step and gang slot, the placed cores in member order, its stream, what each member holds, and, where it
is pre-empted on other cores, the cycle in which its save is complete (R276, R279, R286, R344). -/
structure Gang where
  step  : PlanStep
  slot  : Nat
  cores : List Nat
  sec   : Bool
  tiles : Nat
  banks : Nat
  out   : Option Nat
  deriving DecidableEq, Repr

/-- Status of a completion event (R287). -/
inductive EvStatus where
  | done | rejected | aborted | killed | faulted
  deriving DecidableEq, Repr

/-- The status byte (R287). -/
def EvStatus.num : EvStatus → Nat
  | .done => 0 | .rejected => 2 | .aborted => 3 | .killed => 4 | .faulted => 5

/-- A saved context as a member restores it: what the segments of its save area hold (R346, R347; log 83). -/
structure SavedCtx where
  sid     : Sid
  doms    : List (Nat × Dom)
  stream  : Stream
  rows    : SMap Row
  masks   : SMap W64
  xvs     : SMap Acc
  prows   : SMap PRow
  pfmts   : SMap Nat
  rowBuf  : Half × Half × Option Pass
  banks   : SMap Acc × SMap Acc × Bool
  bytes   : SMap Byte
  lanes   : SMap W64
  copies  : List Copy
  forced  : Bool                  -- saved for the watchdog (R352)
  posts   : List (Nat × Nat)      -- sync words and lengths of messages written while saved (R349)
  deriving DecidableEq, Repr

/-- A black-box entry (R366): kind, its 32 bytes, and its companion's time and number. -/
structure BBEntry where
  kind  : Nat
  data  : BitVec 256
  stamp : Nat
  num   : BitVec 32
  deriving DecidableEq, Repr

/-- A response of the resident service (R332, R333). -/
structure Response where
  kind   : Nat
  id     : BitVec 32
  asid   : BitVec 12
  status : Nat
  detail : Nat
  body   : List Nat
  deriving DecidableEq, Repr

/-- A refresh group of a slice (R194, R195): last refresh, hot rate, and whether its last VREF executed. -/
structure RefGroup where
  last     : Nat
  hot      : Bool
  executed : Bool
  deriving DecidableEq, Repr

/-- The power unit (R293 to R301). Powers are in units of 0.01 W; ballast segments are numbered 128 · layer + column. -/
structure Power where
  level      : Nat                -- the bridle of the current 8-cycle window (R294)
  partner    : List (Nat × Nat)   -- waking domains of the other core of the pair, each with the cycle it is awake in (R292)
  ahead      : List (Nat × Nat)   -- the other core's wakes still to come in this 8-cycle window: cycle and domain
  ref        : Nat                -- R
  rampBridle : Nat
  ballast    : List Nat           -- segments the limiter has switched on
  target     : Nat                -- B_target
  balBridle  : Nat                -- charge balance, this core
  balPeer    : Nat                -- charge balance, the other core of the pair
  pairSegs   : List Nat           -- segments of this column that R293 has switched on for the pair
  otherSegs  : List Nat           -- segments that R293 has switched on for other pairs
  deferred   : Option Bool        -- the core whose wake at the head of the queue is deferred: is it this one (R293)?
  zones      : List Nat           -- thermal bridle per zone
  temps      : List Nat           -- predictions
  valves     : List Nat
  i3c        : List (Nat × Nat)   -- valve writes on the I3C sideband, the first in progress: target and opening (R377)
  i3cAt      : Nat                -- the cycle in which the write in progress completes
  board      : List (Nat × Nat)   -- per valve on the board: the last value written and the cycle in which it opens without another
  pump       : Nat                -- the pump-speed request at the coolant distribution unit (R298)
  tripped    : Bool
  hot        : List Nat           -- junction sensors that read 100 °C or more (R299)
  firmware   : Bool               -- present
  silent     : Nat                -- milliseconds without a signal of the firmware (R301)
  pairOver   : Bool               -- the pair exceeds its current limit (R301)
  pairLimit  : Nat
  samples    : List (BitVec 256)  -- newest first (R300)
  nextWindow : Nat
  nextRamp   : Nat
  nextZone   : Nat
  nextSample : Nat
  deriving DecidableEq, Repr

/-- A message in reception: `want` while its retransmission request waits for the slack slot, `asked` once it is sent, `buf` whether it
holds a decode buffer (R315, R316). -/
structure Reception where
  source   : Nat
  cls      : Nat
  seq      : Nat
  asid     : Nat
  tag      : Nat
  len      : Nat
  fbytes   : Nat
  k        : Nat
  m        : Nat
  deadline : Nat
  offset   : Nat
  retx     : Bool                 -- the class allows a retransmission
  want     : Bool
  asked    : Bool
  buf      : Bool
  frags    : List (Nat × List Byte)
  deriving DecidableEq, Repr

/-- The fabric unit (R303 to R321, R382). -/
structure Fabric where
  member    : Bool                -- in a fabric domain
  device    : Nat
  slot      : Nat
  period    : Nat
  nextSlot  : Nat                 -- cycle of the next slot boundary
  slotAt    : Nat                 -- cycle in which the current slot or held slot began
  joining   : Option Nat          -- slots until it joins its domain (R382)
  nextPoint : Option Nat          -- cycle of the next status point
  hold      : Bool
  overrun   : Bool                -- some device reported overrun at the last status point
  mine      : Bool                -- this device did
  heldSlots : Nat
  cut       : Bool
  throttle  : Nat
  dwell     : Nat                 -- periods the throttle level has stood
  seqs      : SMap Nat            -- next sequence number per class
  sent      : List Sent
  queue     : List QFrag          -- in the order queued (R311)
  paths     : Nat                 -- the installed path sets, and the links they avoid (R309)
  shunned   : List Nat
  rx        : List Reception
  doneMsgs  : List (Nat × Nat × Nat × Bool)   -- decoded or lost: source, class, sequence; did a RECV of this core match it?
  requests  : List (Nat × Nat × Nat × BitVec 24)  -- retransmission requests sent: source, class, sequence, missing indices
  acksDue   : List (Nat × Nat × Nat)          -- decoded copy messages not yet acknowledged: source, class, sequence (R319)
  acks      : List (Nat × Nat × Nat)          -- acknowledgements sent
  linksDown : List Nat
  late      : Nat                 -- device-wide en-passant count
  deriving DecidableEq, Repr

/-- Health states (R365). -/
inductive Health where
  | healthy | degraded | tethered | failed
  deriving DecidableEq, Repr

/-- Boot, retirement and firmware (R336, R362 to R370). -/
structure Service where
  stage     : Nat                 -- 5 is ready
  started   : Nat                 -- cycle stage 0 began
  failures  : Nat
  newImage  : Bool                -- the running image is newly written
  imageB    : Bool
  imgA      : List Byte           -- the bytes of the two firmware images
  imgB      : List Byte
  written   : Bool                -- the other image is newly written: the next start runs it
  freed     : List (Nat × Nat)    -- ASIDs not given out before a period count (R331)
  health    : Health
  failCode  : Option Nat          -- the status code of the stage at which the start has failed
  retired   : List (Nat × Nat)    -- unit kind and index (event 0x010F)
  inReset   : Bool                -- a rail holds the device in reset
  measures  : List (Nat × Nat × BitVec 512)  -- attestation: kind, ASID, digest (R337)
  tetherKey : Nat                 -- association provisioned through Redfish
  probeBad  : List (Nat × Nat × Nat)  -- failing probe attempts: slot, signature, consecutive failures
  rewinds   : List (Nat × Nat)    -- cause and cycle of the rewinds of the last second (R360)
  sweep     : List (Nat × Nat)    -- the probes that a sweep of this core still has to run: engine slot and signature (R360)
  dropped   : Nat                 -- packets of services that are not supported (R332)
  deriving DecidableEq, Repr

/-- Whose turn it is within a cycle (the model's own). -/
inductive Turn where
  | prim | sec
  deriving DecidableEq, Repr

/-- The bundle at issue: its header word, its address, and the mask of the primary's bundle of the cycle (the model's own
copy of what fetch found). -/
structure Bundle where
  hdr  : W32
  pc   : W64
  next : W64                      -- the bundle that follows it in sequence (R53)
  deriving DecidableEq, Repr

/-- The machine. -/
structure State where
  -- the core
  coreNo    : BitVec 9
  cycle     : W64
  prim      : Stream
  sec       : Stream
  tiles     : SMap Row            -- key 64·tile + row
  rowOps    : List RowOp          -- in issue order
  masks     : SMap W64            -- m1 to m7
  maskOps   : List MaskOp         -- in issue order
  xvs       : SMap Acc
  xvOps     : List XvOp           -- in issue order
  prows     : SMap PRow           -- key 512·panel + k
  pfmts     : SMap Nat
  active    : Half
  shadow    : Half
  pass      : Option Pass
  bank0     : SMap Acc            -- key 64·row + column
  bank1     : SMap Acc
  work1     : Bool                -- bank 1 is the working bank
  mHold     : Option (Nat × Nat)  -- MFILL keeps the M engine in this cycle (R170): from, to
  busy      : List Busy
  doms      : SMap Dom
  wakeQ     : List PairWake       -- admission queue of the series pair (R292)
  filler    : Option Nat          -- a filler gang on the secondary stream, with the ready cycles it was passed over (R19, R296)
  halfWidth : Bool
  window    : Bool                -- ctl.window: true is PROD
  strict    : Bool
  fabLate   : W64
  accs      : List Access
  copies    : List Copy
  refresh   : SMap RefGroup       -- key 64·slice + group
  -- memory
  mem       : SMap Byte
  lanes     : SMap W64            -- key: block address; [15:0] header, [48:16] race tag (R40)
  stored    : List Nat            -- blocks stored with an uncorrectable error (R358)
  -- device
  fabRates  : SMap W64            -- fab.rate0 to fab.rate7
  pwrRamp   : W64
  sessions  : List Session
  queues    : List PlanStep       -- pending steps of all queues, in posting order
  stepNums  : SMap Nat            -- steps posted so far, per queue
  results   : List ((Nat × Nat) × EvStatus)
  gangs     : List Gang           -- the gangs of the device that run, or are saved
  headSince : SMap Nat            -- cycle + 1 since when a queue's head waits with its predecessors finished
  saved     : List SavedCtx
  power     : Power
  fabric    : Fabric
  service   : Service
  bb        : List BBEntry        -- newest first
  bbCount   : BitVec 32
  responses : List Response       -- newest first
  nextGrid  : Nat                 -- next watchdog sample
  -- the model's own
  cur       : Sid
  turn      : Turn
  bundle    : Bundle
  primMask  : BitVec 8            -- the mask of the bundle the primary has issued in this cycle (R18)
  jump      : Option W64          -- where the bundle at issue sends its stream, other than its branch target
  free      : Nat                 -- free values drawn
  seq       : Nat                 -- issue order of results
  inbox     : List (Nat × Instr)  -- outside inputs with the cycle they arrive
  deriving DecidableEq, Repr

/-- Scalar state before any launch (R20; `ctl.profile` and the PC: DESIGN CHOICE, log 4). -/
def Scalars.start : Scalars :=
  { pc := 0, delay := none, queues := [], preds := 1, rb := 0, link := [], loops := [], shapes := [], levels := [],
    profile := 1, vrnd := 0, mrnd := 0, seed := 0, step := 0, safeCount := 0 }

/-- A stream that runs no task (R20). -/
def Stream.idle : Stream :=
  { status := .idle, task := Task.none, sc := Scalars.start, la := [], lb := [], ports := [], segId := 0, commit := false,
    ckptDue := none, ckpt := none, journal := [], retries := 0, skip := 0, worked := 0, ord := 0, replay := none,
    error := none, flights := [], xfault := none, overshoot := none, wait := none, fslot := none, holdUntil := 0, waits2 := 0,
    ready19 := 0, refreshDue := none, holdTmo := none, losses := [], recvs := [], sae := { subs := [], opened := [], items := [], next := 0 },
    preempt := false, atSafe := false, safeC := false, record := none, actAt := 0, progress := 0, lastProg := none, unsampled := true, still := 0,
    resumed := false, saveBy := none, lateAt := none, presented := false, mailLog := [], owed := [] }

/-- The power unit at reset (R295: R is the idle power; other values DESIGN CHOICE, log 4). -/
def Power.reset : Power :=
  { level := 0, partner := [], ahead := [], ref := Config.idlePower, rampBridle := 0, ballast := [], target := 0, balBridle := 0,
    balPeer := 0, pairSegs := [], otherSegs := [], deferred := none, zones := [0, 0, 0, 0, 0, 0, 0, 0],
    temps := [0, 0, 0, 0, 0, 0, 0, 0], valves := [0, 0, 0, 0, 0, 0, 0, 0], i3c := [], i3cAt := 0,
    board := List.replicate 8 (0, 0), pump := 0, tripped := false, hot := [],
    firmware := true, silent := 0, pairOver := false, pairLimit := 1200,
    samples := [], nextWindow := 8, nextRamp := 12000, nextZone := 1200000, nextSample := 120000 }

/-- The fabric unit at reset: slot count 0, in no domain (R382). -/
def Fabric.reset : Fabric :=
  { member := false, device := 0, slot := 0, period := 0, nextSlot := 2400, slotAt := 0, joining := none, nextPoint := none, hold := false,
    overrun := false, mine := false, heldSlots := 0, cut := false, throttle := 0, dwell := 16, seqs := [], sent := [], queue := [], paths := 0, shunned := [], rx := [],
    doneMsgs := [], requests := [], acksDue := [], acks := [], linksDown := [], late := 0 }

/-- The measurements of the boot stages that have run (R337). -/
def bootMeasures (image : List Byte) (stages : Nat) : List (Nat × Nat × BitVec 512) :=
  (List.range stages).map (fun k => (1, 0, Config.digest (Config.stageContents k image)))

/-- The service after a start that has succeeded (R368, R369; log 4). -/
def Service.ready : Service :=
  { stage := 5, started := 0, failures := 0, newImage := false, imageB := false, imgA := Config.factoryImage false, imgB := Config.factoryImage true,
    written := false, freed := [], health := .healthy, failCode := none,
    retired := [], inReset := false, measures := bootMeasures (Config.factoryImage false) 5, tetherKey := 0, probeBad := [], rewinds := [],
    sweep := [], dropped := 0 }

/-- The machine right after reset: every register at the value the manual states (R20, R37), no task, memory with nothing
listed; values the manual leaves open stand in logs 2, 4 and 5. -/
def State.reset : State :=
  { coreNo := 0, cycle := 0, prim := Stream.idle, sec := Stream.idle, tiles := [], rowOps := [], masks := [], maskOps := [],
    xvs := [], xvOps := [], prows := [], pfmts := [], active := Half.empty, shadow := Half.empty, pass := none, bank0 := [], bank1 := [],
    work1 := false, mHold := none, busy := [], doms := [], wakeQ := [], filler := none, halfWidth := false, window := true, strict := false,
    fabLate := 0, accs := [], copies := [], refresh := [], mem := [], lanes := [], stored := [], fabRates := [],
    pwrRamp := 0x1C001C, sessions := [], queues := [], stepNums := [], results := [], gangs := [], headSince := [],
    saved := [], power := Power.reset, fabric := Fabric.reset, service := Service.ready, bb := [], bbCount := 0,
    responses := [], nextGrid := 1200000, cur := .prim, turn := .prim, bundle := ⟨0, 0, 0⟩, primMask := 0, jump := none, free := 0, seq := 0, inbox := [] }

end Sys2Proof.Machine
end

