-- ==== Sys2Proof/Machine/Crc.lean ====
section
/-! DEFINITION. Sys2Proof/Machine/Crc.lean: CRC-32C (R102 parameters), and numbers as little-endian bytes (R4). -/

namespace Sys2Proof.Machine

/-- One bit step of the reflected CRC-32C. -/
def crcBit (c : Nat) : Nat := if c % 2 = 1 then (c >>> 1) ^^^ 0x82F63B78 else c >>> 1

/-- One byte step. -/
def crcByte (c b : Nat) : Nat :=
  crcBit (crcBit (crcBit (crcBit (crcBit (crcBit (crcBit (crcBit (c ^^^ b))))))))

/-- CRC of the low `n` bytes of a number, lowest byte first, from a running value. -/
def crcRun : Nat → Nat → Nat → Nat
  | 0, _, c => c
  | n + 1, x, c => crcRun n (x >>> 8) (crcByte c (x % 256))

/-- CRC-32C of the low `n` bytes of a number: initial value and final XOR 0xFFFF_FFFF (R102). -/
def crc32c (n x : Nat) : Nat := crcRun n x 0xFFFFFFFF ^^^ 0xFFFFFFFF

/-- The CRC-32C of a row payload (R31). -/
def rowCrc (p : BitVec 512) : W32 := BitVec.ofNat 32 (crc32c 64 p.toNat)

/-- A list of bytes read little-endian. -/
def ofBytes : List Byte → Nat
  | [] => 0
  | b :: bs => b.toNat + 256 * ofBytes bs

/-- The low `n` bytes of a number, lowest first. -/
def toBytes : Nat → Nat → List Byte
  | 0, _ => []
  | n + 1, x => BitVec.ofNat 8 x :: toBytes n (x / 256)

end Sys2Proof.Machine
end

