-- ==== Sys2Proof/Machine/Ops.lean ====
section
/-! DEFINITION. Sys2Proof/Machine/Ops.lean: the named operations over the state: streams, queues and latches, tile rows,
domains, memory and its lanes, addresses, race tags, the black box, taking a trap and resuming, checkpoints. -/

namespace Sys2Proof.Machine

/-! ### Streams -/

/-- A stream of the core. -/
def State.str (s : State) : Sid → Stream
  | .prim => s.prim
  | .sec => s.sec

/-- Replace a stream. -/
def State.setStr (s : State) (i : Sid) (t : Stream) : State :=
  match i with
  | .prim => { s with prim := t }
  | .sec => { s with sec := t }

/-- Change a stream. -/
def State.modStr (s : State) (i : Sid) (f : Stream → Stream) : State := s.setStr i (f (s.str i))

/-- The stream at issue. -/
def State.me (s : State) : Stream := s.str s.cur

/-- Change the stream at issue. -/
def State.modMe (s : State) (f : Stream → Stream) : State := s.modStr s.cur f

/-- Change the scalar state of the stream at issue. -/
def State.modSc (s : State) (f : Scalars → Scalars) : State := s.modMe (fun t => { t with sc := f t.sc })

/-- The cycle number. -/
def State.now (s : State) : Nat := s.cycle.toNat

/-- Draw a free value's number. -/
def State.drawn (s : State) : State := { s with free := s.free + 1 }

/-- Take an issue-order number. -/
def State.seqd (s : State) : State := { s with seq := s.seq + 1 }

/-! ### Rotation (R24) -/

/-- The physical queue that qn denotes. -/
def physQ (rb : BitVec 4) (q : Nat) : Nat := if q < 16 then q else 16 + (q - 16 + 16 - rb.toNat) % 16
/-- The physical predicate that pn denotes. -/
def physP (rb : BitVec 4) (p : Nat) : Nat := if p < 8 then p else 8 + (p - 8 + 16 - rb.toNat) % 8

/-- Write a physical predicate; p0 stays 1 (R27). -/
def setPred (ps : BitVec 16) (p : Nat) (v : Bool) : BitVec 16 :=
  if p = 0 then ps else if v then ps ||| BitVec.ofNat 16 (2 ^ p) else ps &&& ~~~ BitVec.ofNat 16 (2 ^ p)

/-! ### Tiles and rows (R30 to R32) -/

/-- The physical register of tile `t` of a stream. -/
def physTile (i : Sid) (tiles t : Nat) : Nat :=
  match i with
  | .prim => t
  | .sec => 16 - tiles + t

/-- The key of row `r` of tile `t` of a stream. -/
def State.rowKey (s : State) (i : Sid) (t r : Nat) : Nat := 64 * physTile i (s.str i).task.tiles t + r

/-- A row as it stands. -/
def State.row (s : State) (k : Nat) : Row := SMap.get Row.start s.tiles k

/-- Do the header copies of a row agree (R31)? -/
def Row.headersOk (r : Row) : Bool := r.h1 == r.h2
/-- Does the stored CRC match the payload (R31)? -/
def Row.crcOk (r : Row) : Bool := r.crc == rowCrc r.payload

/-- Is a row pending (R32)? -/
def State.rowPending (s : State) (k : Nat) : Bool := s.rowOps.any (fun o => o.row == k)

/-- The low `w`-bit element `j` of a payload (R212). -/
def elemAt (w : Nat) (p : BitVec 512) (j : Nat) : Nat := field p.toNat (w * j) w

/-- The header a landing write leaves (R131, R143). The odd slice of a narrowing to E2M1 keeps an E2M1 header with σ 0, but
marks it NaN when one of its own lanes is NaN. -/
def HdrRule.apply (r : HdrRule) (old : BitVec 16) : BitVec 16 :=
  match r with
  | .keep => old
  | .fixed h => h
  | .keepOr h => if old = 0x7F70 ∨ old = 0x7FB0 then old else h
  | .oddE2M1 nan => if nan then 0xFF20 else if old.extractLsb' 0 8 = 0x20 then old else 0x7F20

/-- A row after a write lands on it. A header copy that differs from the other stays so under a write that keeps it. -/
def RowOp.apply (o : RowOp) (r : Row) : Row :=
  let p := (r.payload &&& ~~~ o.mask) ||| (o.bits &&& o.mask)
  { payload := p, h1 := o.hdr.apply r.h1, h2 := o.hdr.apply r.h2, crc := if o.crc then rowCrc p else r.crc }

/-- A row as an access on the local path sees it: with the stores of the path that wait behind a pending write (R178). -/
def State.rowView (s : State) (k : Nat) : Row :=
  (s.rowOps.filter (fun o => o.row == k && o.ready && o.due == 0)).foldl (fun r o => o.apply r) (s.row k)

/-- Add a row write in issue order. -/
def State.addRowOp (s : State) (o : RowOp) : State := { s with rowOps := s.rowOps ++ [o] }

/-! ### Domains (R290, R291) -/

/-- A power domain of the core. -/
def State.dom (s : State) (d : Nat) : Dom := SMap.get Dom.off s.doms d
/-- Change a domain. -/
def State.setDom (s : State) (d : Nat) (v : Dom) : State := { s with doms := SMap.set Dom.off s.doms d v }
/-- Is a domain awake? -/
def State.domAwake (s : State) (d : Nat) : Bool := (s.dom d).st == .awake
/-- Is a domain queued or waking? -/
def State.domComing (s : State) (d : Nat) : Bool := (s.dom d).st == .queued || (s.dom d).st == .waking

/-- Domain bits (R290). -/
def domDv : Nat := 0
def domDm (panel : Nat) : Nat := 1 + panel / 2
def domDxa : Nat := 5
def domDxt : Nat := 6
def domDb (bank : Nat) : Nat := 7 + bank

/-- The physical banks of a stream's task: the first and the number (R286). -/
def Stream.banks (t : Stream) (i : Sid) : Nat × Nat :=
  match i with
  | .prim => (0, t.task.banks)
  | .sec => (16 - t.task.banks, t.task.banks)

/-- Does the task of a stream own a bank of this core (R286)? -/
def State.ownsBank (s : State) (i : Sid) (b : Nat) : Bool :=
  let (lo, n) := (s.str i).banks i
  decide (lo ≤ b) && decide (b < lo + n)

/-- `ctl.wakeset`: the domains a stream owns (R36). -/
def State.wakeset (s : State) (i : Sid) : Nat :=
  (List.range 23).foldl (fun a d => if (s.dom d).owner = some i then a + 2 ^ d else a) 0

/-! ### Memory bytes and lanes (R4, R40) -/

/-- A byte of memory. -/
def State.byte (s : State) (a : Nat) : Byte := SMap.get 0 s.mem a
/-- `n` bytes from an address. -/
def State.bytes (s : State) (a : Nat) : Nat → List Byte
  | 0 => []
  | n + 1 => s.byte a :: s.bytes (a + 1) n
/-- `n` bytes read little-endian. -/
def State.load (s : State) (a n : Nat) : Nat := ofBytes (s.bytes a n)
/-- Write a byte. -/
def State.setByte (s : State) (a : Nat) (b : Byte) : State := { s with mem := SMap.set 0 s.mem a b }
/-- Write bytes from an address on. -/
def State.store (s : State) (a : Nat) : List Byte → State
  | [] => s
  | b :: bs => (s.setByte a b).store (a + 1) bs

/-- The block that holds an address. -/
def blockOf (a : Nat) : Nat := a / 64 * 64
/-- The metadata lane of a block. -/
def State.lane (s : State) (blk : Nat) : W64 := SMap.get 0 s.lanes blk
/-- Write a lane. -/
def State.setLane (s : State) (blk : Nat) (v : W64) : State := { s with lanes := SMap.set 0 s.lanes blk v }
/-- The header of a block. -/
def State.hdrOf (s : State) (blk : Nat) : BitVec 16 := (s.lane blk).extractLsb' 0 16
/-- The race tag of a block. -/
def State.tagOf (s : State) (blk : Nat) : BitVec 33 := (s.lane blk).extractLsb' 16 33
/-- Write a header; the tag stays. -/
def State.setHdr (s : State) (blk : Nat) (h : BitVec 16) : State :=
  s.setLane blk ((0 : BitVec 15) ++ s.tagOf blk ++ h)
/-- Write a tag; the header stays. -/
def State.setTag (s : State) (blk : Nat) (t : BitVec 33) : State :=
  s.setLane blk ((0 : BitVec 15) ++ t ++ s.hdrOf blk)

/-- The blocks that `n` bytes from an address touch. -/
def blocksOf (a n : Nat) : List Nat :=
  if n = 0 then [] else (List.range ((a + n - 1) / 64 - a / 64 + 1)).map (fun i => (a / 64 + i) * 64)

/-- Does a block carry a stored uncorrectable error (R358)? -/
def State.isBad (s : State) (blk : Nat) : Bool := s.stored.contains blk

/-- Bytes and lanes of `n` bytes from `lo` read as at wake: NONE, zero, FRESH (R94, R217). -/
def State.wipe (s : State) (lo n : Nat) : State :=
  { s with mem := SMap.clear s.mem lo n, lanes := SMap.clear s.lanes lo n,
           stored := s.stored.filter (fun b => !(decide (lo ≤ b) && decide (b < lo + n))) }

/-! ### Addresses (R38, R39) -/

/-- What an address names. -/
inductive Area where
  | dram (vault slice : Nat)
  | scratch (core bank : Nat)
  | tile (core reg row : Nat)
  | accum (core : Nat)
  | push (core q : Nat) (sec : Bool)
  | cxl
  | shadow
  | fabric (dev : Nat)
  | unmapped
  deriving DecidableEq, Repr

/-- The base of core windows. -/
def windowBase : Nat := 0x01_0000_0000_0000
/-- The base of CXL memory. -/
def cxlBase : Nat := 0x10_0000_0000_0000

/-- The area of an address. An address at bytes 1 to 7 of a push-address slot names that push address (DESIGN CHOICE: R39 lists the
offsets of the slots alone; log 95). -/
def areaOf (a : Nat) : Area :=
  if a < 0x40_0000_0000 then
    let off := a % 0x8000_0000
    if off < 0x6000_0000 then .dram (a / 0x8000_0000) (off / 0x1800_0000) else .unmapped
  else if windowBase ≤ a ∧ a < windowBase + 0x2_0000_0000 then
    let c := (a - windowBase) / 0x100_0000
    let off := (a - windowBase) % 0x100_0000
    if off < 0x20_0000 then .scratch c (off / 0x2_0000)
    else if 0x80_0000 ≤ off ∧ off < 0x81_0000 then .tile c ((off - 0x80_0000) / 0x1000) (off % 0x1000 / 64)
    else if 0xC0_0000 ≤ off ∧ off < 0xC1_8000 then .accum c
    else if 0xF0_0000 ≤ off ∧ off < 0xF0_0200 then .push c (off % 0x100 / 8) (decide (0xF0_0100 ≤ off))
    else .unmapped
  else if cxlBase ≤ a ∧ a < cxlBase + 0x400_0000_0000 then .cxl
  else if 0x18_0000_0000_0000 ≤ a ∧ a < 0x18_0000_0000_0000 + 0x20_0000_0000 then .shadow
  else if 0x80_0000_0000_0000 ≤ a ∧ a < 0x100_0000_0000_0000 then .fabric (a / 2 ^ 40 % 2 ^ 15)
  else .unmapped

/-- The first address past the piece of uniform rights that holds an address: a 2 MiB page, a bank, a window part. -/
def pieceEnd (a : Nat) : Nat :=
  match areaOf a with
  | .dram .. => (a / 0x20_0000 + 1) * 0x20_0000
  | .cxl => (a / 0x20_0000 + 1) * 0x20_0000
  | .scratch .. => (a / 0x2_0000 + 1) * 0x2_0000
  | .tile .. => (a / 0x1000 + 1) * 0x1000
  | .accum .. => (a / 0x8000 + 1) * 0x8000
  | _ => a + 1

/-- The address of a core's window. -/
def coreWindow (c : Nat) : Nat := windowBase + c * 0x100_0000
/-- The address of a bank. -/
def bankBase (c b : Nat) : Nat := coreWindow c + b * 0x2_0000

/-- Layer, row and position of a core (R9). -/
def coreL (c : Nat) : Nat := c / 128
def coreY (c : Nat) : Nat := c / 16 % 8
def coreX (c : Nat) : Nat := c % 16

/-- The session of a stream. -/
def State.sessionOf (s : State) (i : Sid) : Option Session :=
  s.sessions.find? (fun x => x.asid == (s.str i).task.asid)

/-- Does a session hold a core (R325)? -/
def Session.hasCore (x : Session) (c : Nat) : Bool :=
  decide (x.xmin ≤ coreX c) && decide (coreX c ≤ x.xmax) && decide (x.ymin ≤ coreY c) && decide (coreY c ≤ x.ymax)

/-- Is a core's window open to the task of a stream (R38)? -/
def State.windowOpen (s : State) (i : Sid) (c : Nat) : Bool := (s.sessionOf i).any (fun x => x.hasCore c)

/-- The page-table entry that maps an address (R327). -/
def Session.page (x : Session) (a : Nat) : Option W64 :=
  (x.pages.find? (fun m => m.entry.getLsbD 0 &&
    (let n := if m.entry.getLsbD 4 then 0x4000_0000 else 0x20_0000
     decide (m.va / n = a / n)))).map (·.entry)

/-- The physical address that a page-table entry gives an address: its frame and the offset in its page; a CXL frame counts in
the device's own memory (R327, R335; log 66). -/
def frameAddr (e : W64) (a : Nat) : Nat :=
  let n := if e.getLsbD 4 then 0x4000_0000 else 0x20_0000
  (match areaOf a with | .cxl => cxlBase | _ => 0) + (e.extractLsb' 21 27).toNat * 0x20_0000 + a % n

/-- Where an address of a session is stored: DRAM and CXL memory in the frame its page gives, everything else under its own
address (R242, R327). -/
def State.phys (s : State) (asid : BitVec 12) (a : Nat) : Nat :=
  let translated (a : Nat) : Nat :=
    match (s.sessions.find? (fun x => x.asid == asid)).bind (fun x => x.page a) with
    | some e => frameAddr e a
    | none => a
  match areaOf a with
  | .dram .. => translated a
  | .cxl => translated a
  | _ => a

/-- The ASID of a stream's task. -/
def State.asidOf (s : State) (i : Sid) : BitVec 12 := (s.str i).task.asid

/-- What an access needs of a page (R327). -/
inductive Right where
  | r | w | x
  deriving DecidableEq, Repr

/-- Does an entry grant a right? -/
def Right.granted (k : Right) (e : W64) : Bool :=
  match k with
  | .r => e.getLsbD 1
  | .w => e.getLsbD 2
  | .x => e.getLsbD 3

/-- The address classes a word accepts (R174). -/
structure Classes where
  scratch : Bool := false
  tile    : Bool := false
  accum   : Bool := false
  push    : Bool := false
  dram    : Bool := false
  cxl     : Bool := false
  deriving DecidableEq, Repr

/-- The result of the checks of one address: nothing, or the trap that R176 orders first. Banks of this core that the
task owns are domains (R175). -/
inductive AddrFate where
  | fine
  | bad (c : TrapCode)
  | asleep (bank : Nat)
  | coming (bank : Nat)
  | notOwned (bank : Nat)
  deriving DecidableEq, Repr

/-- The checks of R176 at one address. -/
def State.addrFate (s : State) (i : Sid) (k : Classes) (need : Right) (a : Nat) : AddrFate :=
  match areaOf a with
  | .dram .. =>
    match (s.sessionOf i).bind (fun x => x.page a) with
    | none => .bad .translation
    | some e => if k.dram && need.granted e then .fine else .bad .permission
  | .cxl =>
    match (s.sessionOf i).bind (fun x => x.page a) with
    | none => .bad .translation
    | some e => if k.cxl && need.granted e then .fine else .bad .permission
  | .scratch c b =>
    if !s.windowOpen i c then .bad .windowAccess
    else if !k.scratch then .bad .permission
    else if c = s.coreNo.toNat then
      if !s.ownsBank i b then .notOwned b
      else match (s.dom (domDb b)).st with
        | .awake => .fine
        | .asleep => .asleep b
        | _ => .coming b
    else .fine
  | .tile c .. => if !s.windowOpen i c then .bad .windowAccess else if k.tile then .fine else .bad .permission
  | .accum c => if !s.windowOpen i c then .bad .windowAccess else if k.accum then .fine else .bad .permission
  | .push c _ _ => if !s.windowOpen i c then .bad .windowAccess else if k.push then .fine else .bad .permission
  | .shadow => .bad .permission
  | .fabric _ => .bad .permission
  | .unmapped =>
    if windowBase ≤ a ∧ a < windowBase + 0x2_0000_0000 ∧ !s.windowOpen i ((a - windowBase) / 0x100_0000) then
      .bad .windowAccess
    else .bad .translation

/-- The checks over every piece of the range `[a, hi]`, with the first address that fails. -/
def State.rangeFates (s : State) (i : Sid) (k : Classes) (need : Right) : Nat → Nat → Nat → List (Nat × AddrFate)
  | 0, _, _ => []
  | fuel + 1, a, hi =>
    if hi < a then [] else (a, s.addrFate i k need a) :: s.rangeFates i k need fuel (pieceEnd a) hi

/-- The pieces of a range of `n` bytes. -/
def State.fates (s : State) (i : Sid) (k : Classes) (need : Right) (a n : Nat) : List (Nat × AddrFate) :=
  if n = 0 then [] else s.rangeFates i k need (n + 1) a (a + n - 1)

/-- The pieces of a range from the lowest to the highest byte that a shape reaches, as its terms add up. One below address 0 wraps to
addresses that name nothing: TRANSLATION (R39, R176). -/
def State.reachFates (s : State) (i : Sid) (k : Classes) (need : Right) : Option (Int × Int) → List (Nat × AddrFate)
  | none => []
  | some (lo, hi) =>
    (if lo < 0 then [((lo % (2 ^ 64 : Nat)).toNat, .bad .translation)] else []) ++
    (if hi < 0 then [] else s.fates i k need lo.toNat (hi.toNat + 1 - lo.toNat))

/-- The lower of two causes: lower rank, then lower slot, then the one listed first (R339). -/
def lowerCause (a b : Cause) : Cause :=
  if b.rank < a.rank ∨ (b.rank = a.rank ∧ b.slot < a.slot) then b else a

/-- The cause reported among several (R339). -/
def pickCause : List Cause → Option Cause
  | [] => none
  | c :: cs => some (cs.foldl lowerCause c)

/-- The causes of an address (R176, R339): ALIGN, then by the pieces WINDOW_ACCESS, TRANSLATION, PERMISSION and
DOMAIN_NOT_OWNED of a bank; DOMAIN_ASLEEP of a bank has rank 6. -/
def fateCauses (slot : Slot) (fs : List (Nat × AddrFate)) : List Cause :=
  let ofCode (c : TrapCode) := fs.filterMap (fun p =>
    if p.2 = .bad c then some { rank := 8, slot := slot.idx, code := c, addr := p.1 : Cause } else none)
  fs.filterMap (fun p => match p.2 with
    | .asleep b => some { rank := 6, slot := slot.idx, code := .domainAsleep, aux := domDb b : Cause }
    | _ => none) ++
  (ofCode .windowAccess).take 1 ++ (ofCode .translation).take 1 ++ (ofCode .permission).take 1 ++
  (fs.filterMap (fun p => match p.2 with
    | .notOwned b => some { rank := 8, slot := slot.idx, code := .domainNotOwned, addr := p.1, aux := domDb b : Cause }
    | _ => none)).take 1

/-- Does a piece stall its word (R175)? -/
def fateStalls (fs : List (Nat × AddrFate)) : Bool :=
  fs.any (fun p => match p.2 with | .coming _ => true | _ => false)

/-- The path an address travels (R178). -/
def State.pathOf (s : State) (a : Nat) : Path :=
  let c := s.coreNo.toNat
  match areaOf a with
  | .dram v _ => if v = c % 128 then .vertical else .horizontal
  | .scratch d _ => if d = c then .localPath else if d % 128 = c % 128 then .vertical else .horizontal
  | .tile d .. => if d = c then .localPath else if d % 128 = c % 128 then .vertical else .horizontal
  | .accum d => if d = c then .localPath else if d % 128 = c % 128 then .vertical else .horizontal
  | .push d _ _ => if d = c then .localPath else if d % 128 = c % 128 then .vertical else .horizontal
  | _ => .horizontal

/-- Mesh hops and layer boundaries between this core and a core or a column (R179). -/
def State.hopsTo (s : State) (x y : Nat) (l : Option Nat) : Nat :=
  let c := s.coreNo.toNat
  let d (a b : Nat) := if a < b then b - a else a - b
  d (coreX c) x + d (coreY c) y + (match l with | some l => d (coreL c) l | none => 0)

/-- Is a column at half width (R13)? -/
def State.colHalf (s : State) (col : Nat) : Bool :=
  s.service.retired.contains (2, col) || (s.halfWidth && col == s.coreNo.toNat % 128)

/-- The nominal latency of a load class (`tile` false: LD class, true: TLD class) for an address (R179). Half width counts
when the task's timing class is HALF, or when the column whose bus the access climbs is at half width. -/
def State.nominal (s : State) (i : Sid) (tile : Bool) (rows a : Nat) : Nat :=
  let c := s.coreNo.toNat
  let more := if tile then (rows - 1) / 16 else 0
  let half (col : Nat) := (s.str i).task.halfTime || s.colHalf col
  match areaOf a with
  | .dram v _ =>
    let h := s.hopsTo (v % 16) (v / 16) none
    let dbl := half v
    (if tile then 160 else 150) * (if dbl then 2 else 1) + 6 * h + more * (if dbl then 32 else 16)
  | .cxl => (if tile then 640 else 600) + more * 16
  | .scratch d _ =>
    if d = c then (if tile then 20 else 12) + more * 4
    else
      let h := s.hopsTo (coreX d) (coreY d) (some (coreL d))
      let dbl := coreL d ≠ coreL c && half (d % 128)
      (if tile then 20 else 12) * (if dbl then 2 else 1) + 6 * h + more * (if dbl then 32 else 16)
  | .tile d .. =>
    if d = c then (if tile then 20 else 12) + more * 4
    else
      let h := s.hopsTo (coreX d) (coreY d) (some (coreL d))
      let dbl := coreL d ≠ coreL c && half (d % 128)
      (if tile then 20 else 12) * (if dbl then 2 else 1) + 6 * h + more * (if dbl then 32 else 16)
  | .accum d =>
    if d = c then (if tile then 20 else 12) + more * 4
    else
      let h := s.hopsTo (coreX d) (coreY d) (some (coreL d))
      let dbl := coreL d ≠ coreL c && half (d % 128)
      (if tile then 20 else 12) * (if dbl then 2 else 1) + 6 * h + more * (if dbl then 32 else 16)
  | _ => if tile then 20 else 12

/-! ### Race tags (R244 to R248) -/

/-- The kinds of access (R246). -/
inductive TagKind where
  | read | write | atomic | publ
  | hand (m : BitVec 10)
  deriving DecidableEq, Repr

/-- The current phase of a gang slot of the session of a stream (R252). -/
def State.phase (s : State) (asid : BitVec 12) (g : Nat) : BitVec 16 :=
  match s.sessions.find? (fun x => x.asid == asid) with
  | some x => SMap.get 0 x.phases g
  | none => 0

/-- A tag (R244). -/
def mkTag (phase : BitVec 16) (g : BitVec 4) (m : BitVec 10) (mode : BitVec 3) : BitVec 33 := phase ++ g ++ m ++ mode

/-- The effective mode of a tag, given the current phase of its slot (R245). -/
def effMode (cur : BitVec 16) (t : BitVec 33) : Nat :=
  if t.extractLsb' 17 16 = cur then (t.extractLsb' 0 3).toNat else 0

/-- What a tag check answers: the new tag, a race, or a mode that no writer leaves (R244). -/
inductive TagFate where
  | ok (t : BitVec 33)
  | race
  | broken
  deriving DecidableEq, Repr

/-- The transition table of R247 and R248, for an access of gang slot `g` and member `m` whose slot's phase is `ph`, on a
tag whose own slot's phase is `tph`. -/
def tagCheck (tph ph : BitVec 16) (g : BitVec 4) (m : BitVec 10) (k : TagKind) (t : BitVec 33) : TagFate :=
  let tg := t.extractLsb' 13 4
  let tm := t.extractLsb' 3 10
  let mode := effMode tph t
  let take (who : BitVec 10) (md : BitVec 3) : TagFate := .ok (mkTag ph g who md)
  if 6 ≤ (t.extractLsb' 0 3).toNat then .broken
  else if mode = 0 then
    match k with
    | .read => take m 1
    | .write => take m 3
    | .atomic => take m 4
    | .publ => take m 5
    | .hand tgt => take tgt 3
  else if tg ≠ g then
    match k with
    | .read => if mode = 5 then .ok t else .race
    | .atomic => if mode = 4 then .ok t else .race
    | _ => .race
  else
    let own := tm == m
    match k with
    | .read =>
      if mode = 1 then (if own then .ok t else .ok (mkTag (t.extractLsb' 17 16) tg tm 2))
      else if mode = 2 then .ok t
      else if mode = 3 then (if own then .ok t else .race)
      else if mode = 5 then .ok t
      else .race
    | .write =>
      if mode = 1 then (if own then take m 3 else .race)
      else if mode = 3 then (if own then .ok t else .race)
      else .race
    | .atomic =>
      if mode = 1 then (if own then take m 4 else .race)
      else if mode = 3 then (if own then take m 4 else .race)
      else if mode = 4 then .ok t
      else .race
    | .publ =>
      if mode = 1 then (if own then take m 5 else .race)
      else if mode = 2 then take m 5
      else if mode = 3 then (if own then take m 5 else .race)
      else if mode = 5 then .ok t
      else .race
    | .hand tgt =>
      if mode = 1 then (if own then take tgt 3 else .race)
      else if mode = 3 then (if own then take tgt 3 else .race)
      else .race

/-- Is a block checked memory (R243)? -/
def isChecked (a : Nat) : Bool :=
  match areaOf a with
  | .dram .. => true
  | .scratch .. => true
  | _ => false

/-- The tag check of one block under an identity (ASID, gang slot, member). -/
def State.tagFate (s : State) (asid : BitVec 12) (g : BitVec 4) (m : BitVec 10) (k : TagKind) (blk : Nat) : TagFate :=
  let t := s.tagOf (s.phys asid blk)
  tagCheck (s.phase asid (t.extractLsb' 13 4).toNat) (s.phase asid g.toNat) g m k t

/-- The failing tag checks of some blocks: the causes they raise, for a word of `slot`. -/
def State.tagCauses (s : State) (asid : BitVec 12) (g : BitVec 4) (m : BitVec 10) (slot : Nat)
    (bs : List (Nat × TagKind)) : List Cause :=
  bs.filterMap (fun (b, k) =>
    if !isChecked b then none
    else match s.tagFate asid g m k b with
      | .ok _ => none
      | .race => some { rank := 11, slot, code := .modelRace, addr := b, aux := (s.tagOf (s.phys asid b)).toNat * 2 ^ 16 }
      | .broken => some { rank := 9, slot, code := .uncorrectable, addr := b, sub := 0x61 })

/-- The lowest failing tag check of some blocks. -/
def State.tagCause (s : State) (asid : BitVec 12) (g : BitVec 4) (m : BitVec 10) (slot : Nat)
    (bs : List (Nat × TagKind)) : Option Cause := pickCause (s.tagCauses asid g m slot bs)

/-- Apply the transitions of checks that pass. -/
def State.applyTags (s : State) (asid : BitVec 12) (g : BitVec 4) (m : BitVec 10) (bs : List (Nat × TagKind)) : State :=
  bs.foldl (fun s (b, k) =>
    if !isChecked b then s
    else match s.tagFate asid g m k b with
      | .ok t => s.setTag (s.phys asid b) t
      | _ => s) s

/-! ### The black box (R366, R367) -/

/-- Add an entry to the black box; 4096 are kept. -/
def State.bbPut (s : State) (kind : Nat) (data : BitVec 256) : State :=
  { s with bb := (⟨kind, data, Config.ptpTime s.now, s.bbCount⟩ :: s.bb).take 4096, bbCount := s.bbCount + 1 }

/-- An event entry (R366). -/
def State.bbEvent (s : State) (ev core asid a b c : Nat) : State :=
  s.bbPut 3 (BitVec.ofNat 256
    (ev % 2 ^ 16 + core % 2 ^ 16 * 2 ^ 16 + asid % 2 ^ 16 * 2 ^ 32 + a % 2 ^ 64 * 2 ^ 64 + b % 2 ^ 64 * 2 ^ 128 +
     c % 2 ^ 64 * 2 ^ 192))

/-- An event of this core under a stream's session. -/
def State.coreEvent (s : State) (i : Sid) (ev a b c : Nat) : State :=
  s.bbEvent ev s.coreNo.toNat (s.str i).task.asid.toNat a b c

/-! ### Traps (R338 to R343) -/

/-- The 64-byte trap record (R340). -/
def State.trapRecord (s : State) (i : Sid) (c : Cause) : BitVec 512 :=
  let t := s.str i
  let flags := (if i = .sec then 1 else 0) + (if t.sc.delay.isSome then 2 else 0) + (if c.replay then 4 else 0) +
    (if c.pending then 8 else 0)
  let body : Nat := c.code.num + c.sub % 256 * 2 ^ 8 + c.slot % 256 * 2 ^ 16 + flags * 2 ^ 24 + t.segId.toNat * 2 ^ 32 +
    s.coreNo.toNat * 2 ^ 48 + t.sc.pc.toNat * 2 ^ 64 + ((t.sc.delay.map (·.toNat)).getD 0) * 2 ^ 128 +
    c.addr % 2 ^ 64 * 2 ^ 192 + c.aux % 2 ^ 64 * 2 ^ 256 + t.task.param.toNat * 2 ^ 320 + s.cycle.toNat * 2 ^ 384 +
    t.task.asid.toNat * 2 ^ 448 + (t.task.member.toNat + t.task.gslot.toNat * 2 ^ 12) * 2 ^ 464
  BitVec.ofNat 512 (body + crc32c 60 body * 2 ^ 480)

/-- Taking a trap (R338): the record is written, the stream issues nothing more, its latches become invalid (R25); the
service keeps the record as two black-box entries (R340) and acts after a free delay (R342). -/
def State.takeTrap (s : State) (i : Sid) (c : Cause) : State :=
  let r := s.trapRecord i c
  let s := (s.bbPut 1 (r.extractLsb' 0 256)).bbPut 2 (r.extractLsb' 256 256)
  let at' := s.now + 1 + Config.serviceDelay s.free
  (s.drawn).modStr i (fun t => { t with
    status := .trapped, record := some r, actAt := at', la := [], lb := [], wait := none, lateAt := none,
    presented := false, replay := none, error := none, consumed := if c.rank = 1 then t.consumed else none })

/-- Resuming at a trap's bundle: all scalar state as it stood, the safe-point count included, the latches invalid (R343). -/
def State.resumeAt (s : State) (i : Sid) (pc : W64) (delay : Option W64) : State :=
  s.modStr i (fun t => { t with
    status := .running, record := none, la := [], lb := [], presented := false,
    sc := { t.sc with pc, delay } })

/-! ### Journals and checkpoints (R87, R354) -/

/-- Does the journal already hold an item like this one? -/
def JEntry.same : JEntry → JEntry → Bool
  | .row i _, .row j _ => i == j
  | .acc i _, .acc j _ => i == j
  | .mask i _, .mask j _ => i == j
  | .xv i _, .xv j _ => i == j
  | .panelRow i _, .panelRow j _ => i == j
  | .panelFmt i _, .panelFmt j _ => i == j
  | .rowBuf .., .rowBuf .. => true
  | .bank _, .bank _ => true
  | _, _ => false

/-- Journal an item's value before a segment's first write to it. -/
def State.journal (s : State) (i : Sid) (e : JEntry) : State :=
  s.modStr i (fun t => if t.journal.any (fun x => x.same e) then t else { t with journal := e :: t.journal })

/-- Journal an item for a write issued with this number, when it belongs to the current segment. -/
def State.journalSeq (s : State) (i : Sid) (seq : Nat) (e : JEntry) : State :=
  match (s.str i).ckpt with
  | some c => if c.seq ≤ seq then s.journal i e else s
  | none => s

/-- Take the segment checkpoint of a stream (R87, R88, R354). -/
def State.takeCkpt (s : State) (i : Sid) : State :=
  let q := s.seq
  s.modStr i (fun t => { t with
    ckpt := some ⟨t.sc, t.ports, q, t.commit, t.task.tix, t.task.ended, t.segId⟩, ckptDue := none, journal := [], retries := 0, skip := 0, worked := 0, ord := 0,
    replay := none, mailLog := [], passed := [] })

/-- Undo one journaled write. -/
def State.undo (s : State) (e : JEntry) : State :=
  match e with
  | .row i r => { s with tiles := SMap.set Row.start s.tiles i r }
  | .acc i a => if 1024 ≤ i then { s with bank1 := SMap.set Acc.clear s.bank1 (i - 1024) a }
                else { s with bank0 := SMap.set Acc.clear s.bank0 i a }
  | .mask i v => { s with masks := SMap.set 0 s.masks i v }
  | .xv i a => { s with xvs := SMap.set Acc.clear s.xvs i a }
  | .panelRow i p => { s with prows := SMap.set PRow.none s.prows i p }
  | .panelFmt i f => { s with pfmts := SMap.set 0 s.pfmts i f }
  | .rowBuf a b p => { s with active := a, shadow := b, pass := p }
  | .bank b => { s with work1 := b }

/-- Does a stream have anything in flight that a rewind waits for (R356)? -/
def State.quiet (s : State) (i : Sid) : Bool :=
  (s.str i).flights.isEmpty && !s.accs.any (fun a => a.sid == i) && !s.rowOps.any (fun o => o.sid == i && !s.copies.any (fun c => o.acc == some c.id)) &&
  !s.maskOps.any (fun o => o.sid == i) && !s.xvOps.any (fun o => o.sid == i) && !s.busy.any (fun b => b.sid == i)

/-- Keep a row's journaled value as a write that no rewind undoes leaves it (R355; log 65). -/
def JEntry.keepWrite (o : RowOp) : JEntry → JEntry
  | .row k r => if k = o.row then .row k (o.apply r) else .row k r
  | e => e

/-- A write to a row lands: a stream's own is journaled when it is its segment's first to that row; one of a unit or of another
core is no write of the segment and stands in the journaled value too (R87, R355). -/
def State.landRow (s : State) (o : RowOp) : State :=
  let s1 := if o.unit then
      { s with prim := { s.prim with journal := s.prim.journal.map (JEntry.keepWrite o) },
               sec := { s.sec with journal := s.sec.journal.map (JEntry.keepWrite o) } }
    else s.journalSeq o.sid o.seq (.row o.row (s.row o.row))
  { s1 with tiles := SMap.set Row.start s1.tiles o.row (o.apply (s1.row o.row)) }

/-- Going back to the segment entry (R356): the journal newest first, the checkpoint, whether its first bundle is a commit
bundle (R48), its id, latches invalid, ports bound since it unbound; the stream issues again after 4 cycles and one per journal entry. -/
def State.goBack (s : State) (i : Sid) : State :=
  let t := s.str i
  match t.ckpt with
  | none => s
  | some c =>
    let s1 := t.journal.foldl (fun s e => s.undo e) s
    -- mailboxes keep what landed after the checkpoint, behind the restored entries (R354)
    let mail (q : Nat) : List W64 :=
      SMap.get [] c.sc.queues q ++ (t.mailLog.filter (fun p => p.1 == q)).map (·.2)
    s1.modStr i (fun t => { t with
      sc := { c.sc with queues := [8, 9, 10, 11, 12, 13, 14, 15].foldl (fun m q => SMap.set [] m q (mail q)) c.sc.queues },
      ports := c.ports, la := [], lb := [], journal := [], error := none, consumed := none, wait := none,
      task := { t.task with tix := c.tix, ended := c.ended }, segId := c.seg
      lateAt := none, presented := false, ckptDue := none, commit := c.commit, atSafe := false, safeC := false, ord := 0,
      skip := t.worked, waits2 := s.now + 4 + t.journal.length })

end Sys2Proof.Machine
end

