-- ==== Sys2Proof/Machine/Operands.lean ====
section
/-! DEFINITION. Sys2Proof/Machine/Operands.lean: every operand form: scalar sources, destinations, ports, tile operands and
masks, with the traps and stalls their reading can meet (R21, R25 to R28, R30 to R35, R58, R59, R106). -/

namespace Sys2Proof.Machine

/-! ### Queues -/

/-- The landed entries of a physical queue. -/
def Stream.queue (t : Stream) (q : Nat) : List W64 := SMap.get [] t.sc.queues q

/-- Replace the landed entries of a physical queue. -/
def Stream.setQueue (t : Stream) (q : Nat) (v : List W64) : Stream :=
  { t with sc := { t.sc with queues := SMap.set [] t.sc.queues q v } }

/-- Is a queue a declared mailbox of the stream's task (R22)? -/
def Stream.isMail (t : Stream) (q : Nat) : Bool := decide (8 ≤ q) && decide (q < 16) && t.task.mail.getLsbD (q - 8)

/-- Insert a landing (cycle, issue order) into a list sorted by both. -/
def insLanding (x : Nat × Nat) : List (Nat × Nat) → List (Nat × Nat)
  | [] => [x]
  | y :: ys => if x.1 < y.1 ∨ (x.1 = y.1 ∧ x.2 < y.2) then x :: y :: ys else y :: insLanding x ys

/-- The pushes in flight to a physical queue, by landing cycle and issue order (R47, R119). A memory item counts at its nominal cycle, also
when it is late (DESIGN CHOICE: R119 and R180 do not say behind which push a late item then stands; log 107). -/
def State.inFlight (s : State) (i : Sid) (q : Nat) : List (Nat × Nat) :=
  let fs := ((s.str i).flights.filter (fun f => f.q == some q)).map (fun f => (f.due, f.seq))
  let acs := (s.accs.filter (fun a => a.sid == i && a.q == some q)).map (fun a => (a.land, a.seq))
  (fs ++ acs).foldr insLanding []

/-! ### The tile walk (R280) -/

/-- The dimension that is k-th fastest. -/
def walkDim (walk : BitVec 18) (k : Nat) : Nat :=
  if walk = 0 then k else (walk.toNat >>> (3 * k)) % 8

/-- The tile coordinates of a linear index: dividing by the extents in walk order, fastest first. -/
def tileCoords (ext : List Nat) (walk : BitVec 18) (tix : Nat) : Nat → Nat → SMap Nat
  | 0, _ => []
  | n + 1, k =>
    let d := walkDim walk k
    let e := ext.getD d 1
    SMap.set 0 (tileCoords ext walk (tix / e) n (k + 1)) d (tix % e)

/-- The current tile coordinate in dimension `d`. -/
def Task.coord (t : Task) (d : Nat) : Nat := SMap.get 0 (tileCoords t.ext t.walk t.tix 6 0) d

/-! ### Reading a source -/

/-- A port of the stream. -/
def Stream.port (t : Stream) (p : Nat) : Option Port := SMap.get none t.ports p

/-- Latch a or b of a slot. -/
def Stream.latchA (t : Stream) (k : Nat) : Option W64 := SMap.get none t.la k
def Stream.latchB (t : Stream) (k : Nat) : Option W64 := SMap.get none t.lb k

/-- The operand specifier of a source (R58). -/
def srcOs : Src → Nat
  | .zero => 0
  | .queue q _ => q.toNat
  | .latchA k => 32 + k.toNat
  | .latchB k => 40 + k.toNat
  | .port k _ => 48 + k.toNat
  | .tx => 56 | .ty => 57 | .tz => 58 | .tix => 59 | .cyc => 60 | .ones => 61

/-- The value a source reads at issue (R106); zero where the read traps. -/
def State.read (s : State) (x : Src) : W64 :=
  let t := s.me
  match x with
  | .zero => 0
  | .queue q _ => (t.queue (physQ t.sc.rb q.toNat)).headD 0
  | .latchA k => (t.latchA k.toNat).getD 0
  | .latchB k => (t.latchB k.toNat).getD 0
  | .port k _ => match t.port k.toNat with
    | some p => (p.entries.head?.map (·.val)).getD 0
    | none => 0
  | .tx => BitVec.ofNat 64 (t.task.coord 0)
  | .ty => BitVec.ofNat 64 (t.task.coord 1)
  | .tz => BitVec.ofNat 64 (t.task.coord 2)
  | .tix => BitVec.ofNat 64 t.task.tix
  | .cyc => (s.cycle.extractLsb' 0 32).setWidth 64
  | .ones => BitVec.allOnes 64

/-- Number of elements a port's walk visits: the product of the extents (R203). -/
def walkTotal (shape : List W64) : Nat :=
  let rank := ((shape.getD 1 0).extractLsb' 0 4).toNat
  ((List.range 8).filter (fun d => decide (d < rank))).foldl (fun a d =>
    let x : Int := (shape.getD (2 + d) 0).toNat
    let o : Int := (shape.getD (18 + d) 0).toInt
    a * (x - o).toNat) 1

/-- The rank 7 causes of one source, and the bad entry of a port (R203). -/
def State.srcCauses (s : State) (slot : Slot) (x : Src) : List Cause :=
  let t := s.me
  let c (code : TrapCode) (aux : Nat) : List Cause := [{ rank := 7, slot := slot.idx, code, aux }]
  match x with
  | .latchA k => if (t.latchA k.toNat).isNone then c .latchLost (srcOs x) else []
  | .latchB k => if (t.latchB k.toNat).isNone then c .latchLost (srcOs x) else []
  | .port k _ =>
    match t.port k.toNat with
    | none => c .streamUnbound k.toNat
    | some p =>
      if p.kind ≠ .input ∨ p.closing ∨ 0 < p.sae then c .streamUnbound k.toNat
      else match p.entries with
        | [] => if walkTotal p.shape ≤ p.pos then c .streamUnbound k.toNat else []
        | e :: _ => match e.bad with
          | some b => [{ b with slot := slot.idx }]
          | none => []
  | .queue q _ =>
    let p := physQ t.sc.rb q.toNat
    if (t.queue p).isEmpty && !t.isMail p then
      if (s.inFlight s.cur p).isEmpty then c .queueUnder p
      else if !s.window then c .windowRead p else []
    else []
  | _ => []

/-- Does a source stall its stream: an empty mailbox, a window read under PROD, an empty bound in-port? -/
def State.srcStalls (s : State) (x : Src) : Bool :=
  let t := s.me
  match x with
  | .queue q _ =>
    let p := physQ t.sc.rb q.toNat
    (t.queue p).isEmpty && (t.isMail p || (s.window && !(s.inFlight s.cur p).isEmpty))
  | .port k _ =>
    match t.port k.toNat with
    | some p => p.kind == .input && !p.closing && p.sae == 0 && p.entries.isEmpty && decide (p.pos < walkTotal p.shape)
    | none => false
  | _ => false

/-- The physical queues that a bundle's sources pop, each once (R21). -/
def popQueues (t : Stream) (xs : List Src) : List Nat :=
  (xs.filterMap (fun x => match x with
    | .queue q false => some (physQ t.sc.rb q.toNat)
    | _ => none)).eraseDups

/-- The ports that a bundle's sources pop, each once. -/
def popPorts (xs : List Src) : List Nat :=
  (xs.filterMap (fun x => match x with
    | .port k false => some k.toNat
    | _ => none)).eraseDups

/-- Remove the head of a queue of the stream at issue. -/
def State.popQueue (s : State) (q : Nat) : State := s.modMe (fun t => t.setQueue q ((t.queue q).drop 1))

/-- Remove the head of a port. -/
def State.popPort (s : State) (k : Nat) : State :=
  s.modMe (fun t => { t with ports := SMap.set none t.ports k ((t.port k).map (fun p => { p with entries := p.entries.drop 1 })) })

/-! ### Results (R25, R47, R60) -/

/-- Put a flight into the list, which stands in issue order. -/
def insFlight (f : Flight) : List Flight → List Flight
  | [] => [f]
  | g :: gs => if f.seq < g.seq then f :: g :: gs else g :: insFlight f gs

/-- A scalar result of the word in `slot` that lands after `lat` cycles into the slot's latches and the destination. -/
def State.result (s : State) (slot : Slot) (d : Dst) (v : W64) (lat : Nat) : State :=
  let q := match d with
    | .none => none
    | .queue q => some (physQ s.me.sc.rb q.toNat)
  let f : Flight := ⟨slot.idx, v, q, s.now + lat, s.seq⟩
  (s.seqd).modMe (fun t => { t with flights := t.flights ++ [f] })

/-- The queue a destination pushes. -/
def dstPushes : Dst → List (BitVec 5)
  | .none => []
  | .queue q => [q]

/-- The landing of one result: the slot's latches move, and the value is pushed or fed to an out-port (R25, R203). -/
def State.landFlight (s : State) (i : Sid) (f : Flight) : State :=
  s.modStr i (fun t =>
    let t := { t with lb := SMap.set none t.lb f.slot (t.latchA f.slot), la := SMap.set none t.la f.slot (some f.val) }
    match f.q with
    | none => t
    | some q =>
      match (if 24 ≤ q then t.port (q - 24) else none) with
      | some p =>
        if p.kind = .output && !p.closing then
          { t with ports := SMap.set none t.ports (q - 24) (some { p with fed := p.fed ++ [f.val] }) }
        else t.setQueue q (t.queue q ++ [f.val])
      | none => t.setQueue q (t.queue q ++ [f.val]))

/-! ### Tile operands (R30 to R32) and masks (R35, R130) -/

/-- The row keys of row group `g` of tile `t`, `n` rows, for the stream at issue. -/
def State.groupKeys (s : State) (t g n : Nat) : List Nat := (List.range n).map (fun r => s.rowKey s.cur t (4 * g + r))

/-- A tile at or beyond the stream's count raises ILLEGAL_OPERAND at rank 7 (R30). -/
def State.tileCauses (s : State) (slot : Slot) (ts : List (BitVec 4)) : List Cause :=
  if ts.any (fun t => decide (s.me.task.tiles ≤ t.toNat)) then
    [{ rank := 7, slot := slot.idx, code := .illegalOperand }]
  else []

/-- The rank 9 causes of fetching rows as operands (R31). -/
def State.fetchCauses (s : State) (slot : Slot) (ks : List Nat) : List Cause :=
  let c (code : TrapCode) : Cause := { rank := 9, slot := slot.idx, code, sub := code.num }
  (if ks.all (fun k => (s.row k).headersOk) then [] else [c .headerMismatch]) ++
  (if ks.all (fun k => (s.row k).crcOk) then [] else [c .rowCheck])

/-- Are any of these rows pending (R32)? -/
def State.rowsStall (s : State) (ks : List Nat) : Bool := ks.any s.rowPending

/-- A lane mask; m0 is all ones (R35). -/
def State.mask (s : State) (m : Nat) : W64 := if m = 0 then BitVec.allOnes 64 else SMap.get 0 s.masks m

/-- Is a mask pending (R130)? -/
def State.maskStall (s : State) (m : Nat) : Bool := m ≠ 0 && s.maskOps.any (fun o => o.m == m)

/-! ### Control of a domain by a word (R128, R156, R175, R291) -/

/-- The rank 6 causes of using a domain. -/
def State.domCauses (s : State) (slot : Slot) (d : Nat) : List Cause :=
  let v := s.dom d
  let c (code : TrapCode) : List Cause := [{ rank := 6, slot := slot.idx, code, aux := d }]
  if v.st = .asleep then c .domainAsleep
  else if v.owner ≠ some s.cur then c .domainNotOwned
  else []

end Sys2Proof.Machine
end

