-- ==== Sys2Proof/Machine/Flags.lean ====
section
/-! DEFINITION. Sys2Proof/Machine/Flags.lean: every predicate and condition: guards (R56), CMP and FCMP conditions (R115,
R125), PLOG (R116), and writing predicates (R27, R117). -/

namespace Sys2Proof.Machine

/-- Does a guard hold in a stream (R56)? -/
def guardHolds (g : Guard) (t : Stream) : Bool := t.sc.preds.getLsbD (physP t.sc.rb g.p.toNat) != g.neg

/-- The condition of CMP (R115). -/
def cmpCond (cond : BitVec 3) (a b : W64) : Bool :=
  match cond.toNat with
  | 0 => a == b
  | 1 => a != b
  | 2 => a.slt b
  | 3 => a.sle b
  | 4 => a.ult b
  | 5 => a.ule b
  | 6 => (a &&& b) != 0
  | _ => (a &&& b) == 0

/-- The value of a predicate named by an operand. -/
def Stream.pred (t : Stream) (p : BitVec 4) : Bool := t.sc.preds.getLsbD (physP t.sc.rb p.toNat)

/-- PLOG: bit 2·pa + pb of the truth table (R116). -/
def plogBit (tt : BitVec 4) (pa pb : Bool) : Bool := tt.getLsbD (2 * pa.toNat + pb.toNat)

/-- The outcome of comparing two values. -/
inductive FOrd where
  | lt | eq | gt | un
  deriving DecidableEq, Repr

/-- The condition of FCMP (R125). -/
def fcmpCond (cond : BitVec 3) (o : FOrd) : Bool :=
  match cond.toNat with
  | 0 => o == .eq
  | 1 => o != .eq
  | 2 => o == .lt
  | 3 => o == .lt || o == .eq
  | 4 => o == .gt
  | 5 => o == .gt || o == .eq
  | 6 => o == .un
  | _ => o != .un

/-- Write a predicate of the stream at issue, as the next bundle sees it. The physical predicate is the one named under
the rotation base of the state before the bundle's own effects (R117). -/
def State.writePred (s pre : State) (p : BitVec 4) (v : Bool) : State :=
  s.modSc (fun c => { c with preds := setPred c.preds (physP pre.me.sc.rb p.toNat) v })

end Sys2Proof.Machine
end

