-- ==== Sys2Proof/Machine/Float.lean ====
section
/-! DEFINITION. Sys2Proof/Machine/Float.lean: exact values, the block header, element values, `round_to` in every mode with
the random word of RSS, and the scalar operations with IEEE 754 special cases (R210 to R224, R122, R123). -/

namespace Sys2Proof.Machine

/-- An exact value: NaN, a signed infinity, or a signed ratio n/d with d not 0. A zero keeps its sign. -/
inductive XNum where
  | nan
  | inf (neg : Bool)
  | fin (neg : Bool) (n d : Nat)
  deriving DecidableEq, Repr

/-- `n · 2^e` with a sign. -/
def XNum.dyadic (neg : Bool) (n : Nat) (e : Int) : XNum :=
  match e with
  | .ofNat k => .fin neg (n * 2 ^ k) 1
  | .negSucc k => .fin neg n (2 ^ (k + 1))

/-- An integer; zero is +0. -/
def XNum.ofInt (x : Int) : XNum := .fin (decide (x < 0)) x.natAbs 1

/-- Times 2^k. -/
def XNum.scale (x : XNum) (k : Int) : XNum :=
  match x with
  | .fin s n d => match k with
    | .ofNat j => .fin s (n * 2 ^ j) d
    | .negSucc j => .fin s n (d * 2 ^ (j + 1))
  | y => y

/-- The other sign. -/
def XNum.neg : XNum → XNum
  | .nan => .nan
  | .inf s => .inf !s
  | .fin s n d => .fin (!s) n d

/-- The absolute value. -/
def XNum.abs : XNum → XNum
  | .nan => .nan
  | .inf _ => .inf false
  | .fin _ n d => .fin false n d

/-- The sign of a value. -/
def XNum.isNeg : XNum → Bool
  | .nan => false
  | .inf s => s
  | .fin s _ _ => s

/-- The exact sum (R122): Inf − Inf is NaN; an exact zero sum is +0 unless both addends are −0. -/
def XNum.add : XNum → XNum → XNum
  | .nan, _ => .nan
  | _, .nan => .nan
  | .inf s, .inf t => if s = t then .inf s else .nan
  | .inf s, .fin .. => .inf s
  | .fin .., .inf t => .inf t
  | .fin s n d, .fin t m e =>
    let a : Int := (if s then -(n : Int) else n) * e
    let b : Int := (if t then -(m : Int) else m) * d
    let r := a + b
    if r = 0 then .fin (s && t && n == 0 && m == 0) 0 1 else .fin (decide (r < 0)) r.natAbs (d * e)

/-- The exact sum as a rounding mode sees it: an exact zero sum with a negative addend is −0 under RDN (R135). -/
def XNum.addMode (mode : Nat) (a b : XNum) : XNum :=
  match a.add b with
  | .fin false 0 d => .fin (mode == 3 && (a.isNeg || b.isNeg)) 0 d
  | r => r

/-- The exact product: 0 × Inf is NaN. -/
def XNum.mul : XNum → XNum → XNum
  | .nan, _ => .nan
  | _, .nan => .nan
  | .inf s, .inf t => .inf (s != t)
  | .inf s, .fin t m _ => if m = 0 then .nan else .inf (s != t)
  | .fin s n _, .inf t => if n = 0 then .nan else .inf (s != t)
  | .fin s n d, .fin t m e => .fin (s != t) (n * m) (d * e)

/-- The exact quotient: 0/0 and Inf/Inf are NaN, x/0 an infinity with the XOR of the signs. -/
def XNum.div : XNum → XNum → XNum
  | .nan, _ => .nan
  | _, .nan => .nan
  | .inf _, .inf _ => .nan
  | .inf s, .fin t _ _ => .inf (s != t)
  | .fin s _ _, .inf t => .fin (s != t) 0 1
  | .fin s n d, .fin t m e =>
    if m = 0 then (if n = 0 then .nan else .inf (s != t)) else .fin (s != t) (n * e) (d * m)

/-- Integer square root, digit by digit from bit `k - 1`. -/
def isqrtGo (n : Nat) : Nat → Nat → Nat
  | 0, r => r
  | k + 1, r => isqrtGo n k (if (r + 2 ^ k) * (r + 2 ^ k) ≤ n then r + 2 ^ k else r)

/-- The integer square root. -/
def isqrt (n : Nat) : Nat := isqrtGo n (Nat.log2 n / 2 + 1) 0

/-- The square root. An irrational root is stood for by a value strictly inside the same interval of width 2^-200 / d,
which no representable value, tie or 32-bit fraction of a format enters, so that it rounds as the root does. -/
def XNum.sqrt : XNum → XNum
  | .nan => .nan
  | .inf s => if s then .nan else .inf false
  | .fin s n d =>
    if n = 0 then .fin s 0 1
    else if s then .nan
    else
      let m := n * d * 2 ^ 400
      let t := isqrt m
      if t * t = m then .fin false t (d * 2 ^ 200) else .fin false (2 * t + 1) (2 * d * 2 ^ 200)

/-- Comparing two values; −0 and +0 are equal. -/
def XNum.cmp : XNum → XNum → FOrd
  | .nan, _ => .un
  | _, .nan => .un
  | .inf s, .inf t => if s = t then .eq else if s then .lt else .gt
  | .inf s, .fin .. => if s then .lt else .gt
  | .fin .., .inf t => if t then .gt else .lt
  | .fin s n d, .fin t m e =>
    let a : Int := (if s then -(n : Int) else n) * e
    let b : Int := (if t then -(m : Int) else m) * d
    if a < b then .lt else if a = b then .eq else .gt

/-- Minimum of IEEE 754-2019 (R123): NaN if either is NaN, −0 below +0. -/
def XNum.min (a b : XNum) : XNum :=
  match a.cmp b with
  | .un => .nan
  | .lt => a
  | .gt => b
  | .eq => if a.isNeg then a else b

/-- Maximum of IEEE 754-2019 (R123). -/
def XNum.max (a b : XNum) : XNum :=
  match a.cmp b with
  | .un => .nan
  | .lt => b
  | .gt => a
  | .eq => if a.isNeg then b else a

/-! ### Formats (R210 to R215) -/

/-- A floating format: width, mantissa bits, bias, largest finite code, whether it has infinities, canonical NaN. -/
structure FF where
  w    : Nat
  m    : Nat
  bias : Nat
  big  : Nat
  inf  : Bool
  cnan : Nat
  deriving DecidableEq, Repr

/-- The floating formats by format code (R213). E2M1's NaN is a code 0 in a NaN block (R143). -/
def floatFmt : Nat → Option FF
  | 2 => some ⟨4, 1, 1, 7, false, 0⟩
  | 3 => some ⟨8, 3, 7, 0x7E, false, 0x7F⟩
  | 4 => some ⟨8, 2, 15, 0x7B, true, 0x7E⟩
  | 5 => some ⟨16, 7, 127, 0x7F7F, true, 0x7FC0⟩
  | 6 => some ⟨16, 10, 15, 0x7BFF, true, 0x7E00⟩
  | 7 => some ⟨32, 23, 127, 0x7F7FFFFF, true, 0x7FC00000⟩
  | _ => none

/-- The integer formats by code: width and signedness (R214). -/
def intFmtOf : Nat → Option (Nat × Bool)
  | 8 => some (8, true)
  | 9 => some (8, false)
  | 10 => some (16, true)
  | 11 => some (32, true)
  | 12 => some (64, true)
  | _ => none

/-- Header fields (R210). -/
def hScale (h : BitVec 16) : Nat := (h.extractLsb' 8 8).toNat
def hFmt (h : BitVec 16) : Nat := (h.extractLsb' 4 4).toNat
def hSigma (h : BitVec 16) : Nat := (h.extractLsb' 0 4).toNat
/-- The header of a format at scale 127. -/
def mkHdr (fmt : Nat) : BitVec 16 := BitVec.ofNat 16 (0x7F00 + fmt * 16)

/-- Does an interpreted header pass R211 whatever format is required? -/
def hInterp (h : BitVec 16) : Bool :=
  let f := hFmt h
  decide (1 ≤ f) && decide (f ≤ 13) && (if f = 2 then decide (hSigma h < 10) else hSigma h == 0) &&
  (!(f == 1 || decide (8 ≤ f)) || hScale h == 127)

/-- A valid header: one that passes R211, or 0x0000. -/
def hValid (h : BitVec 16) : Bool := h == 0 || hInterp h

/-- The value of code 0b1000 of E2M1 (R215). -/
def e2m1Special : Nat → XNum
  | 1 => .nan
  | 2 => .fin false 8 1
  | 3 => .fin true 8 1
  | 4 => .fin false 12 1
  | 5 => .fin true 12 1
  | 6 => .fin false 1 4
  | 7 => .fin true 1 4
  | 8 => .fin false 16 1
  | 9 => .fin true 16 1
  | _ => .fin true 0 1

/-- The value of a magnitude code. -/
def FF.mag (f : FF) (neg : Bool) (c : Nat) : XNum :=
  let e := c / 2 ^ f.m
  let m := c % 2 ^ f.m
  if e = 0 then .dyadic neg m (1 - (f.bias : Int) - f.m)
  else .dyadic neg (2 ^ f.m + m) ((e : Int) - f.bias - f.m)

/-- The value of stored bits of a floating format at scale 127 (R213; E2M1 with σ = 0). -/
def FF.decode (f : FF) (x : Nat) : XNum :=
  let neg := x / 2 ^ (f.w - 1) % 2 = 1
  let c := x % 2 ^ (f.w - 1)
  if c ≤ f.big then f.mag neg c
  else if f.inf && c == f.big + 1 then .inf neg
  else .nan

/-- The value of stored bits of a format code, under a header's scale and selector (R216). -/
def elemValue (h : BitVec 16) (x : Nat) : XNum :=
  match floatFmt (hFmt h) with
  | some f =>
    if hScale h = 255 then .nan
    else (if hFmt h = 2 ∧ x = 8 then e2m1Special (hSigma h) else f.decode x).scale ((hScale h : Int) - 127)
  | none => match intFmtOf (hFmt h) with
    | some (w, sgn) => .ofInt (if sgn then signedNat w x else ((x % 2 ^ w : Nat) : Int))
    | none => .nan

/-- FP32 bits as a value. -/
def f32 (x : Nat) : XNum := (FF.mk 32 23 127 0x7F7FFFFF true 0x7FC00000).decode (x % 2 ^ 32)

/-! ### round_to (R219 to R222) -/

/-- Does a mode choose the neighbour away from zero? `odd` is the lowest bit of the neighbour toward zero, rem/den the
fraction past it, `r` the random word of RSS. -/
def roundUp (mode : Nat) (neg odd : Bool) (rem den : Nat) (r : W64) : Bool :=
  if rem = 0 then false
  else match mode with
    | 0 => decide (den < 2 * rem) || (decide (2 * rem = den) && odd)
    | 1 => false
    | 2 => !neg
    | 3 => neg
    | 4 => decide (den ≤ 2 * rem)
    | _ => decide ((r >>> 32).toNat < rem * 2 ^ 32 / den)

/-- Is the overflow value of a mode the infinity, in a format that has one (R220)? -/
def overInf (mode : Nat) (neg : Bool) : Bool :=
  match mode with
  | 1 => false
  | 2 => !neg
  | 3 => neg
  | _ => true

/-- floor(log2 (n / d)) for n, d not 0. -/
def ratioLog (n d : Nat) : Int :=
  let l : Int := (Nat.log2 n : Int) - Nat.log2 d
  let ok := match l with
    | .ofNat k => decide (d * 2 ^ k ≤ n)
    | .negSucc k => decide (d ≤ n * 2 ^ (k + 1))
  if ok then l else l - 1

/-- The code of the neighbour toward zero among values with unbounded exponents, the fraction past it, its denominator. -/
def FF.lower (f : FF) (n d : Nat) : Nat × Nat × Nat :=
  if n = 0 then (0, 0, 1)
  else
    let qmin : Int := 1 - (f.bias : Int) - f.m
    let q := max (ratioLog n d - f.m) qmin
    let nd : Nat × Nat := match q with
      | .ofNat k => (n, d * 2 ^ k)
      | .negSucc k => (n * 2 ^ (k + 1), d)
    ((q - qmin).toNat * 2 ^ f.m + nd.1 / nd.2, nd.1 % nd.2, nd.2)

/-- `round_to` for a floating format: stored bits. `sat` makes the overflow value the largest finite one (R142). -/
def FF.round (f : FF) (x : XNum) (mode : Nat) (sat : Bool) (r : W64) : Nat :=
  let sgn (neg : Bool) := if neg then 2 ^ (f.w - 1) else 0
  match x with
  | .nan => f.cnan
  | .inf neg => sgn neg + (if f.inf && !sat then f.big + 1 else f.big)
  | .fin neg n d =>
    let (lo, rem, den) := f.lower n d
    let c := if roundUp mode neg (lo % 2 == 1) rem den r then lo + 1 else lo
    sgn neg + (if c ≤ f.big then c else if f.inf && !sat && overInf mode neg then f.big + 1 else f.big)

/-- The integer a value rounds to in a mode; none for NaN and infinities. -/
def XNum.toInt (x : XNum) (mode : Nat) (r : W64) : Option Int :=
  match x with
  | .fin neg n d =>
    let q := n / d
    let m := if roundUp mode neg (q % 2 == 1) (n % d) d r then q + 1 else q
    some (if neg then -(m : Int) else m)
  | _ => none

/-- `round_to` for an integer range: NaN gives 0, beyond the range the nearer bound (R219). -/
def roundInt (lo hi : Int) (x : XNum) (mode : Nat) (r : W64) : Int :=
  match x with
  | .nan => 0
  | .inf neg => if neg then lo else hi
  | y => match y.toInt mode r with
    | some v => if v < lo then lo else if hi < v then hi else v
    | none => 0

/-- The bounds of an integer format. -/
def intBounds (w : Nat) (sgn : Bool) : Int × Int :=
  if sgn then (-(2 ^ (w - 1) : Nat), (2 ^ (w - 1) - 1 : Nat)) else (0, (2 ^ w - 1 : Nat))

/-- `round_to(fmt, x, mode)` as stored bits of a format code. -/
def roundTo (fmt : Nat) (x : XNum) (mode : Nat) (sat : Bool) (r : W64) : Nat :=
  match floatFmt fmt with
  | some f => f.round x mode sat r
  | none => match intFmtOf fmt with
    | some (w, sgn) =>
      let (lo, hi) := intBounds w sgn
      (BitVec.ofInt w (roundInt lo hi x mode r)).toNat
    | none => 0

/-- FP32 under RNE. -/
def toF32 (x : XNum) : Nat := roundTo 7 x 0 false 0

/-! ### The random word of RSS (R221) -/

/-- mix64. -/
def mix64 (z : W64) : W64 :=
  let z := (z ^^^ (z >>> 30)) * 0xBF58476D1CE4E5B9
  let z := (z ^^^ (z >>> 27)) * 0x94D049BB133111EB
  z ^^^ (z >>> 31)

/-- The random word of an element. -/
def rssWord (seed step : W64) (tile elem : Nat) : W64 :=
  mix64 (seed ^^^ (BitVec.ofNat 64 tile <<< 32) ^^^ BitVec.ofNat 64 elem ^^^ step)

/-! ### Payloads of elements -/

/-- A payload from a list of elements of `w` bits, element 0 lowest. -/
def packElems (w : Nat) : List Nat → Nat
  | [] => 0
  | x :: xs => x % 2 ^ w + 2 ^ w * packElems w xs

/-- Elements per 64-byte block of a format (R212); 0 where it has none. -/
def perBlock (fmt : Nat) : Nat := if elemBits fmt = 0 then 0 else 512 / elemBits fmt

end Sys2Proof.Machine
end

