-- ==== Sys2Proof/Machine/Shape.lean ====
section
/-! DEFINITION. Sys2Proof/Machine/Shape.lean: shape records, their checks, elements and tiles, verbatim transfers, and the
reading and writing of elements in blocks (R33, R182 to R185, R203). -/

namespace Sys2Proof.Machine

/-- Field `f` of a captured shape record. -/
def shp (sh : List W64) (f : Nat) : W64 := sh.getD f 0

/-- A copy of a shape register of a stream: lsh0 to lsh3 are 0 to 3, xsh0 to xsh3 are 4 to 7. -/
def Stream.shape (t : Stream) (k : Nat) (shadow : Bool) : List W64 :=
  (List.range 32).map (fun f => SMap.get 0 t.sc.shapes (64 * k + (if shadow then 32 else 0) + f))

/-- Exchange the two copies of a shape register (R33). -/
def Stream.swapShape (t : Stream) (k : Nat) : Stream :=
  let put (m : SMap W64) (off : Nat) (v : List W64) :=
    (List.range 32).foldl (fun m f => SMap.set 0 m (64 * k + off + f) (v.getD f 0)) m
  let a := t.shape k false
  let b := t.shape k true
  { t with sc := { t.sc with shapes := put (put t.sc.shapes 0 b) 32 a } }

/-- Base address, rank, format, pad mode (R33, R121). -/
def shBase (sh : List W64) : Nat := (shp sh 0).toNat
def shRank (sh : List W64) : Nat := ((shp sh 1).extractLsb' 0 4).toNat
def shFmt (sh : List W64) : Nat := ((shp sh 1).extractLsb' 4 8).toNat
def shPadMode (sh : List W64) : Nat := ((shp sh 1).extractLsb' 12 4).toNat
/-- Extent, stride and origin of a dimension; dimensions at or above the rank have extent 1 and origin 0 (R182). -/
def shExt (sh : List W64) (d : Nat) : Nat := if d < shRank sh then (shp sh (2 + d)).toNat else 1
def shStride (sh : List W64) (d : Nat) : Int := (shp sh (10 + d)).toInt
def shOrg (sh : List W64) (d : Nat) : Int := if d < shRank sh then (shp sh (18 + d)).toInt else 0
/-- The tile extents e0 and e1. -/
def shE0 (sh : List W64) : Nat := (shp sh 26).toNat
def shE1 (sh : List W64) : Nat := (shp sh 27).toNat

/-- Element width in bits where elements are moved: RAW moves bytes (R203). -/
def moveBits (fmt : Nat) : Nat := if fmt = 1 then 8 else elemBits fmt
/-- Elements per block where elements are moved. -/
def movePer (fmt : Nat) : Nat := 512 / moveBits fmt

/-- The stored bits of a pad element (R121, R184). -/
def shPad (sh : List W64) : Nat := if shPadMode sh = 1 then (shp sh 28).toNat % 2 ^ moveBits (shFmt sh) else 0

/-- The ILLEGAL_OPERAND conditions of R182, and a format without elements. -/
def shapeBad (sh : List W64) : Bool :=
  shRank sh == 0 || shp sh 10 != 0 || shE0 sh == 0 || shE1 sh == 0 || decide (2 ^ 20 < shE0 sh) ||
  decide (2 ^ 20 < shE1 sh) || moveBits (shFmt sh) == 0

/-- Is the base or a stride of a dimension from 1 on not a multiple of the element size (R182)? -/
def shapeBytesMisaligned (sh : List W64) (ds : List Nat) : Bool :=
  let n := max (moveBits (shFmt sh) / 8) 1
  shBase sh % n != 0 || ds.any (fun d => shStride sh d % (n : Int) != 0)

/-- The ALIGN conditions of R182. -/
def shapeMisaligned (sh : List W64) : Bool :=
  shapeBytesMisaligned sh [1, 2, 3, 4, 5, 6, 7] ||
  (shFmt sh == 2 && (shOrg sh 0 % 2 != 0 || shE0 sh % 2 != 0))

/-- The index of element (a, b) of the tile. -/
def tileIdx (sh : List W64) (a b : Nat) : List Int :=
  (List.range 8).map (fun d => shOrg sh d + (if d = 0 then (a : Int) else if d = 1 then (b : Int) else 0))

/-- Is an index inside the tensor (R182)? -/
def inside (sh : List W64) (ix : List Int) : Bool :=
  (List.range 8).all (fun d => decide (0 ≤ ix.getD d 0) && decide (ix.getD d 0 < (shExt sh d : Int)))

/-- The bit address of an element. -/
def elemBit (sh : List W64) (ix : List Int) : Int :=
  (shBase sh : Int) * 8 + ix.getD 0 0 * (moveBits (shFmt sh) : Int) +
  8 * ((List.range 7).foldl (fun acc d => acc + ix.getD (d + 1) 0 * shStride sh (d + 1)) 0)

/-- The bit address of an element inside the tensor, as a number. -/
def elemPos (sh : List W64) (ix : List Int) : Option Nat :=
  if inside sh ix then some ((elemBit sh ix) % (2 ^ 67 : Nat)).toNat else none

/-- A transfer of one side is verbatim in geometry (R183). -/
def verbatimShape (sh : List W64) : Bool :=
  let e : Int := movePer (shFmt sh)
  shOrg sh 0 % e == 0 && shE0 sh % movePer (shFmt sh) == 0 && shBase sh % 64 == 0 &&
  [1, 2, 3, 4, 5, 6, 7].all (fun d => shStride sh d % 64 == 0)

/-- The lowest and highest byte that an element of the tile inside the tensor reaches. -/
def tileReach (sh : List W64) : Option (Int × Int) :=
  let clip (d n : Nat) : Int × Int := (max (shOrg sh d) 0, min (shOrg sh d + n) (shExt sh d))
  let (a0, a1) := clip 0 (shE0 sh)
  let (b0, b1) := clip 1 (shE1 sh)
  let fixed := (List.range 6).map (fun d => shOrg sh (d + 2))
  if a1 ≤ a0 ∨ b1 ≤ b0 ∨ !inside sh (a0 :: b0 :: fixed) then none
  else
    let w : Int := moveBits (shFmt sh)
    let p := elemBit sh (a0 :: b0 :: fixed)
    let q := elemBit sh ((a1 - 1) :: (b1 - 1) :: fixed)
    let p' := elemBit sh (a0 :: (b1 - 1) :: fixed)
    let q' := elemBit sh ((a1 - 1) :: b0 :: fixed)
    some (min p p' / 8, (max q q' + w - 1) / 8)

/-- Bits `[bit + w - 1 : bit]` of memory. -/
def State.memBits (s : State) (bit w : Nat) : Nat :=
  if w < 8 then (s.byte (bit / 8)).toNat >>> (bit % 8) % 2 ^ w else s.load (bit / 8) (w / 8)

/-- Write `w` bits of memory at a bit address. -/
def State.setMemBits (s : State) (bit w v : Nat) : State :=
  if w < 8 then
    let old := (s.byte (bit / 8)).toNat
    let sh := bit % 8
    s.setByte (bit / 8) (BitVec.ofNat 8 (old - (old >>> sh % 2 ^ w) * 2 ^ sh + v % 2 ^ w * 2 ^ sh))
  else s.store (bit / 8) (toBytes (w / 8) v)

/-- Convert stored bits under a header of a format into a target format (R183, R218): RAW into RAW keeps its bits, a
conversion from or into RAW gives a free value, since RAW has no values. -/
def convElem (h : BitVec 16) (srcFmt x dstFmt rnd : Nat) (r : W64) : Nat :=
  if srcFmt = 1 ∧ dstFmt = 1 then x
  else if srcFmt = 1 ∨ dstFmt = 1 then Config.rawElem x dstFmt % 2 ^ moveBits dstFmt
  else roundTo dstFmt (elemValue h x) rnd false r

/-- Is an element NaN as read under its header? -/
def elemNan (h : BitVec 16) (srcFmt x : Nat) : Bool := srcFmt != 1 && elemValue h x == .nan

/-- One row of a TLD: payload bits and header (R184). `row` is the tile row that element positions count from. Elements of a RAW row that
come from several blocks take the header of the first element inside the tensor (DESIGN CHOICE: R184 names one block; log 109). -/
def State.tldRow (s : State) (sh : List W64) (fmt rnd : Nat) (seed step : W64) (tile grp b : Nat) : Nat × BitVec 16 :=
  let sf := shFmt sh
  let padH := mkHdr sf
  if fmt = 0xF then
    match elemPos sh (tileIdx sh 0 b) with
    | some p => let blk := p / 8; (s.load blk 64, s.hdrOf blk)
    | none => (packElems (moveBits sf) (List.replicate (shE0 sh) (shPad sh)), padH)
  else
    let es := (List.range (shE0 sh)).map (fun a =>
      let r := rssWord seed step tile (128 * (4 * grp + b) + a)
      match elemPos sh (tileIdx sh a b) with
      | some p =>
        let h := if sf = 1 then padH else s.hdrOf (blockOf (p / 8))
        let x := s.memBits p (moveBits sf)
        (convElem h sf x fmt rnd r, elemNan h sf x)
      | none => (convElem padH sf (shPad sh) fmt rnd r, elemNan padH sf (shPad sh)))
    let first := (List.range (shE0 sh)).findSome? (fun a => elemPos sh (tileIdx sh a b))
    let h := if fmt = 1 then (match first with | some p => s.hdrOf (blockOf (p / 8)) | none => padH)
             else if fmt = 2 ∧ es.any (·.2) then 0xFF20 else mkHdr fmt
    (packElems (moveBits fmt) (es.map (·.1)), h)

/-- The blocks that a tile's elements inside the tensor touch, in row order. -/
def tileBlocks (sh : List W64) (keep : Bool) : List Nat :=
  ((List.range (shE1 sh)).flatMap (fun b =>
    (List.range (if keep then 1 else shE0 sh)).filterMap (fun a =>
      (elemPos sh (tileIdx sh a b)).map (fun p => blockOf (p / 8))))).eraseDups

/-- An element write of a converting transfer: bit address, width, bits, and the header its block takes (R143, R185). -/
structure ElemWrite where
  bit : Nat
  w   : Nat
  v   : Nat
  hdr : BitVec 16
  deriving DecidableEq, Repr

/-- Apply element writes: the bits first, then the header of every touched block; a NaN block of E2M1 stays one. -/
def State.applyWrites (s : State) (ws : List ElemWrite) : State :=
  let s1 := ws.foldl (fun s e => s.setMemBits e.bit e.w e.v) s
  let s2 := ws.foldl (fun s e => s.setHdr (blockOf (e.bit / 8)) e.hdr) s1
  (ws.filter (fun e => e.hdr == 0xFF20)).foldl (fun s e => s.setHdr (blockOf (e.bit / 8)) 0xFF20) s2

/-- The element writes of one row of a converting TST (R185). -/
def tstWrites (sh : List W64) (rnd : Nat) (seed step : W64) (tile grp b : Nat) (row : Row) : List ElemWrite :=
  let sf := shFmt sh
  (List.range (shE0 sh)).filterMap (fun a =>
    (elemPos sh (tileIdx sh a b)).map (fun p =>
      if sf = 1 then ⟨p, 8, elemAt 8 row.payload a, row.h1⟩
      else
        let x := elemAt (elemBits (hFmt row.h1)) row.payload a
        let r := rssWord seed step tile (128 * (4 * grp + b) + a)
        ⟨p, moveBits sf, convElem row.h1 0 x sf rnd r, if sf = 2 ∧ elemNan row.h1 0 x then 0xFF20 else mkHdr sf⟩))

/-- The store of a TST: keep writes whole blocks, every other form elements (R185). -/
def State.tstTile (s : State) (sh : List W64) (fmt rnd : Nat) (seed step : W64) (tile grp : Nat) (rows : List Row) : State :=
  if fmt = 0xF then
    rows.zipIdx.foldl (fun s (row, b) =>
      match elemPos sh (tileIdx sh 0 b) with
      | some p => (s.store (p / 8) (toBytes 64 row.payload.toNat)).setHdr (p / 8) row.h1
      | none => s) s
  else s.applyWrites (rows.zipIdx.flatMap (fun (row, b) => tstWrites sh rnd seed step tile grp b row))

/-- The number of iterations of six sequencer levels, and the index vector of iteration `n`, level 0 fastest (R199). -/
def levelsTotal (ls : List SeqLvl) : Nat := ls.foldl (fun a l => a * l.c) 1
def levelsIdx : List SeqLvl → Nat → List Nat
  | [], _ => []
  | l :: ls, n => n % max l.c 1 :: levelsIdx ls (n / max l.c 1)

/-- Stride st_1 of a copy's destination; it counts whatever the rank. -/
def dstRow (d : List W64) : Int := (shp d 11).toInt

/-- The indices in dimension `d` that the emitted elements take, inside the tensor. -/
def copyIdx (src : List W64) (ls : List SeqLvl) (d : Nat) : List Int :=
  let n := if d = 0 then shE0 src else if d = 1 then shE1 src else 1
  let tile := (List.range n).map (fun (a : Nat) => shOrg src d + (a : Int))
  let all := (ls.filter (fun l => l.d == d)).foldl (fun vs l =>
    (vs.flatMap (fun v => (List.range l.c).map (fun (i : Nat) => v + (i : Int) * l.u))).eraseDups) tile
  all.filter (fun v => decide (0 ≤ v) && decide (v < (shExt src d : Int)))

/-- Does some element, of `w` bits at one of the sums of a base and one term of each list, meet the bits from `lo` up to `hi`? -/
def sumsMeet (lo hi w : Int) : List (List Int) → Int → Bool
  | [], a => decide (a < hi) && decide (lo < a + w)
  | ts :: rest, a => ts.any (fun t => sumsMeet lo hi w rest (a + t))

/-- Does a port's walk reach a byte from `lo` up to `hi` (R203)? -/
def walkMeets (sh : List W64) (lo hi : Nat) : Bool :=
  let idx (d : Nat) : List Int :=
    let o := max (shOrg sh d) 0
    (List.range ((shExt sh d : Int) - o).toNat).map (fun (n : Nat) => o + (n : Int))
  let w : Int := moveBits (shFmt sh)
  sumsMeet (8 * lo) (8 * hi) w
    ((idx 0).map (· * w) :: (List.range 7).map (fun d => (idx (d + 1)).map (· * (8 * shStride sh (d + 1))))) (8 * shBase sh)

/-- Does an emitted element of a copy's source reach a byte from `lo` up to `hi` (R199)? -/
def copySrcMeets (src : List W64) (ls : List SeqLvl) (lo hi : Nat) : Bool :=
  let w : Int := moveBits (shFmt src)
  sumsMeet (8 * lo) (8 * hi) w
    ((copyIdx src ls 0).map (· * w) :: (List.range 7).map (fun d => (copyIdx src ls (d + 1)).map (· * (8 * shStride src (d + 1)))))
    (8 * shBase src)

/-- Does a row of a copy's destination reach a byte from `lo` up to `hi` (R199)? -/
def copyDstMeets (src dst : List W64) (ls : List SeqLvl) (lo hi : Nat) : Bool :=
  sumsMeet (8 * lo) (8 * hi) ((shE0 src * moveBits (shFmt dst) : Nat) : Int)
    ((List.range (shE1 src)).map (fun (b : Nat) => 8 * ((b : Int) * dstRow dst)) ::
      ls.map (fun l => (List.range l.c).map (fun (n : Nat) => 8 * ((n : Int) * l.w)))) (8 * shBase dst)

end Sys2Proof.Machine
end

