-- ==== Sys2Proof/Machine/Accum.lean ====
section
/-! DEFINITION. Sys2Proof/Machine/Accum.lean: exact accumulators: adding terms under both profiles, drains, spill records
(R225 to R236). -/

namespace Sys2Proof.Machine

/-- The status word of an accumulator (R226). -/
def Acc.status (a : Acc) : W64 :=
  BitVec.ofNat 64 (a.nan.toNat + 2 * a.pinf.toNat + 4 * a.ninf.toNat + 16 * a.tag.toNat)

/-- A dyadic value as a multiple of 2^-e; none when it has a lower bit (or no finite value). -/
def XNum.units (x : XNum) (e : Nat) : Option Int :=
  match x with
  | .fin s n d => if (n * 2 ^ e) % d = 0 then some (if s then -((n * 2 ^ e / d : Nat) : Int) else (n * 2 ^ e / d : Nat)) else none
  | _ => none

/-- A multiple of 2^-e as a value; zero is +0. -/
def XNum.ofUnits (u : Int) (e : Nat) : XNum := .fin (decide (u < 0)) u.natAbs (2 ^ e)

/-- The sticky flags after some terms (R226, R230). -/
def Acc.withFlags (a : Acc) (ts : List XNum) : Acc :=
  { a with nan := a.nan || ts.any (fun x => x == .nan), pinf := a.pinf || ts.any (fun x => x == .inf false),
           ninf := a.ninf || ts.any (fun x => x == .inf true) }

/-- The finite terms. -/
def finites (ts : List XNum) : List XNum := ts.filter (fun x => match x with | .fin .. => true | _ => false)

/-- The bound of R227 in units of 2^-320. -/
def guardBound : Int := 2 ^ 639

/-- Add terms under profile 1; none where R227 raises GUARD. -/
def Acc.addExact (a : Acc) (ts : List XNum) : Option Acc :=
  match (finites ts).mapM (fun x => x.units 320) with
  | none => none
  | some us =>
    let sum := us.foldl (· + ·) a.val.toInt
    if us.any (fun u => decide (guardBound ≤ u.natAbs)) ∨ guardBound ≤ sum.natAbs then none
    else some { a.withFlags ts with val := BitVec.ofInt 640 sum, tag := 1 }

/-- The exact sum of finite terms, in units of 2^-1200, where every term of the manual's formats is a whole number. -/
def sumUnits (ts : List XNum) : Int := (finites ts).foldl (fun a x => a + (x.units 1200).getD 0) 0

/-- Add one K-block, given its exact sum in units of 2^-1200 (its special terms' flags are set apart) (R232). -/
def Acc.addBlock (a : Acc) (u : Int) : Acc :=
  let b := f32 (toF32 (.ofUnits u 1200))
  let beyond (a : Acc) (neg : Bool) : Acc := if neg then { a with ninf := true, tag := 2 } else { a with pinf := true, tag := 2 }
  match b with
  | .inf neg => beyond a neg
  | b =>
    match f32 (toF32 ((XNum.ofUnits a.val.toInt 320).add b)) with
    | .inf neg => beyond a neg
    | r => { a with val := BitVec.ofInt 640 ((r.units 320).getD 0), tag := 2 }

/-- Add K-blocks of terms in order under profile 2. -/
def Acc.addStep (a : Acc) (blocks : List (List XNum)) : Acc :=
  blocks.foldl (fun a ts => (a.withFlags ts).addBlock (sumUnits ts)) a

/-- The value a drain rounds (R234). -/
def Acc.drainValue (a : Acc) : XNum :=
  if a.nan ∨ (a.pinf ∧ a.ninf) then .nan
  else if a.pinf then .inf false
  else if a.ninf then .inf true
  else .ofUnits a.val.toInt 320

/-! ### Spill records (R235, R236) -/

/-- One bit step of CRC-64/ECMA-182. -/
def crc64Bit (c : Nat) : Nat := if 2 ^ 63 ≤ c then ((c * 2) ^^^ 0x42F0E1EBA9EA3693) % 2 ^ 64 else c * 2
/-- One byte step. -/
def crc64Byte (c b : Nat) : Nat :=
  crc64Bit (crc64Bit (crc64Bit (crc64Bit (crc64Bit (crc64Bit (crc64Bit (crc64Bit (c ^^^ (b * 2 ^ 56)))))))))
/-- CRC-64 of the low `n` bytes of a number, lowest byte first. -/
def crc64 : Nat → Nat → Nat → Nat
  | 0, _, c => c
  | n + 1, x, c => crc64 n (x >>> 8) (crc64Byte c (x % 256))

/-- The 96-byte record of an accumulator, as a number. -/
def Acc.record (a : Acc) : Nat :=
  let body := a.val.toNat + a.status.toNat * 2 ^ 640
  body + crc64 88 body 0 * 2 ^ 704

/-- Does a record's CRC check? -/
def recordCrcOk (x : Nat) : Bool := crc64 88 (x % 2 ^ 704) 0 == x / 2 ^ 704 % 2 ^ 64

/-- The accumulator of a record; none where its status raises FORMAT (R235). -/
def recordAcc (x : Nat) : Option Acc :=
  let st := x / 2 ^ 640 % 2 ^ 64
  let tag := st / 16 % 4
  let a : Acc := ⟨BitVec.ofNat 640 x, st % 2 = 1, st / 2 % 2 = 1, st / 4 % 2 = 1, BitVec.ofNat 2 tag⟩
  if st / 64 ≠ 0 ∨ st / 8 % 2 ≠ 0 ∨ tag = 3 then none
  else if tag = 0 ∧ a ≠ Acc.clear then none
  else some a

/-- Is a value a finite FP32 value (R233, R235)? -/
def isF32Value (u : Int) : Bool := (f32 (toF32 (.ofUnits u 320))).units 320 == some u

end Sys2Proof.Machine
end

