-- ==== Sys2Proof/Machine/Sched.lean ====
section
/-! DEFINITION. Sys2Proof/Machine/Sched.lean: wakes and sleeps of domains, completion-ring entries, launch records and
kernel headers, plan steps, and the start, end and discard of a member (R93, R94, R97, R275 to R292). -/

namespace Sys2Proof.Machine

/-! ### Domains: admission and sleep (R291, R292) -/

/-- The wake latency of a domain (R290). -/
def wakeLatency (d : Nat) : Nat := if d = 0 then 64 else if d < 5 then 128 else if d = 5 then 96 else if d = 6 then 32 else 48

/-- Domains that are waking. -/
def State.wakingCount (s : State) : Nat := (s.doms.filter (fun p => p.2.st == .waking)).length

/-- The wake of the pair's queue that may be admitted: the head, or where the head is deferred, the first wake of the other core,
which is on the lighter layer (R292, R293). -/
def pickWake (deferred : Option Bool) (q : List PairWake) : Option PairWake :=
  match q with
  | [] => none
  | w :: ws => if deferred = some w.mine then ws.find? (fun x => x.mine != w.mine) else some w

/-- A wake is admitted: its latency runs from this cycle on (R291). -/
def State.admitWake (s : State) (w : PairWake) : State :=
  let s : State := { s with wakeQ := s.wakeQ.erase w }
  if w.mine then s.setDom w.dom { s.dom w.dom with st := .waking, due := s.now + wakeLatency w.dom }
  else { s with power := { s.power with partner := s.power.partner ++ [(w.dom, s.now + wakeLatency w.dom)] } }

/-- Can a wake be admitted now: fewer than two of the pair are waking, and no thermal trip stands (R292, R299)? -/
def State.admitRoom (s : State) : Bool := !s.power.tripped && decide (s.wakingCount + s.power.partner.length < 2)

/-- Admit wakes of the pair's queue, at most `n`, while there is room for them. -/
def State.admitWakes : Nat → State → State
  | 0, s => s
  | n + 1, s =>
    if s.admitRoom then
      match pickWake s.power.deferred s.wakeQ with
      | some w => State.admitWakes n (s.admitWake w)
      | none => s
    else s

/-- Queue a wake for a stream and admit what can be admitted. -/
def State.queueWake (s : State) (i : Sid) (d : Nat) : State :=
  State.admitWakes 2 ({ s with wakeQ := s.wakeQ ++ [(⟨true, d⟩ : PairWake)] }.setDom d ⟨.queued, some i, 0, s.now⟩)

/-- The wakes that the other core of the pair has issued by now join the queue, in issue order (R292). -/
def State.joinPeers (s : State) : State :=
  let (here, later) := s.power.ahead.partition (fun p => decide (p.1 ≤ s.now))
  if here.isEmpty then s
  else State.admitWakes 2 { s with
    wakeQ := s.wakeQ ++ here.map (fun p => (⟨false, p.2⟩ : PairWake)), power := { s.power with ahead := later } }

/-- What a domain's sleep loses (R94, R290). -/
def State.loseContents (s : State) (i : Sid) (d : Nat) : State :=
  if d = 0 then { s with masks := [], maskOps := [], xvs := [], xvOps := [] }
  else if d < 5 then
    { s with prows := SMap.clear s.prows (1024 * (d - 1)) 1024, pfmts := SMap.clear s.pfmts (2 * (d - 1)) 2 }
  else if d = 5 then { s with bank0 := [], bank1 := [], active := Half.empty, shadow := Half.empty, pass := none }
  else if d = 6 then s.modStr i (fun t => { t with ports := [] })
  else s.wipe (bankBase s.coreNo.toNat (d - 7)) 0x2_0000

/-- Put a domain to sleep, whatever its state: its wake leaves the queue, its contents are lost. -/
def State.sleepDom (s : State) (i : Sid) (d : Nat) : State :=
  ({ s with wakeQ := s.wakeQ.filter (fun x => !(x.mine && x.dom == d)) }.setDom d Dom.off).loseContents i d

/-- Put every domain a stream owns to sleep; a wake that was under way makes room for the next (R292). -/
def State.sleepAll (s : State) (i : Sid) : State :=
  State.admitWakes 2 ((List.range 23).foldl (fun s d => if (s.dom d).owner = some i then s.sleepDom i d else s) s)

/-! ### Sync words and completion-ring entries (R191 to R193, R97) -/

/-- Fields of a sync word (R191). -/
def syncGen (w : W64) : Nat := (w.extractLsb' 48 16).toNat
def syncCount (w : W64) : Nat := (w.extractLsb' 24 24).toNat
def syncTarget (w : W64) : Nat := (w.extractLsb' 0 24).toNat
/-- A sync word. -/
def mkSync (g c t : Nat) : W64 := BitVec.ofNat 16 g ++ BitVec.ofNat 24 c ++ BitVec.ofNat 24 t

/-- The bank operation of R193: the new word, and whether it overshot. -/
def syncAdd (w : W64) (amt : Nat) : W64 × Bool :=
  let c := syncCount w + amt
  let t := syncTarget w
  if amt = 0 then (w, false)
  else if c = t then (mkSync (syncGen w + 1) 0 t, false)
  else if c < t then (mkSync (syncGen w) c t, false)
  else (mkSync (syncGen w) (min c (2 ^ 24 - 1)) t, true)

/-- A 64-bit word of memory. -/
def State.word (s : State) (a : Nat) : W64 := BitVec.ofNat 64 (s.load a 8)

/-- The stream of this core whose task owns the bank at an address. -/
def State.bankOwner (s : State) (a : Nat) : Option Sid :=
  match areaOf a with
  | .scratch c b =>
    if c ≠ s.coreNo.toNat then none
    else if s.ownsBank .prim b then some .prim else if s.ownsBank .sec b then some .sec else none
  | _ => none

/-- Add to a sync word; an overshoot is recorded against the task that owns the bank, and later ones of the span go to the
black box (R95, R193). -/
def State.syncOp (s : State) (a amt : Nat) : State :=
  let (w, past) := syncAdd (s.word a) amt
  let s := s.store a (toBytes 8 w.toNat)
  if !past then s
  else match s.bankOwner a with
    | none => s
    | some i =>
      match (s.str i).overshoot with
      | none => s.modStr i (fun t => { t with overshoot := some (a, w) })
      | some _ => s.coreEvent i 0x0039 a w.toNat 0

/-- Write a sync word with a target: count 0; with target 0 the generation also increments (R192). -/
def State.syncInit (s : State) (a tgt : Nat) : State :=
  let w := s.word a
  s.store a (toBytes 8 (mkSync (if tgt = 0 then syncGen w + 1 else syncGen w) 0 tgt).toNat)

/-- Post to a completion-ring entry (R97). -/
def State.ringPost (s : State) (a status fault count : Nat) : State :=
  let seq := (s.load a 4 + 1) % 2 ^ 32
  s.store a (toBytes 16 (seq + status * 2 ^ 32 + fault * 2 ^ 40 + count % 2 ^ 64 * 2 ^ 64))

/-! ### Transfer faults (R202, R358) -/

/-- A transfer fault: an entry in the black box, and the stream's pending fault where it has none. -/
def State.transferFault (s : State) (i : Sid) (f : XFault) : State :=
  let s := s.coreEvent i 0x0103 f.addr f.code.num 0
  s.modStr i (fun t => if t.status ≠ .idle ∧ t.xfault = none then { t with xfault := some f } else t)

/-- Several transfer faults. -/
def State.transferFaults (s : State) (i : Sid) (fs : List XFault) : State := fs.foldl (fun s f => s.transferFault i f) s

/-- A unit counts into a sync word for a stream; a word that is stored with an error is not counted, which is a transfer fault. -/
def State.unitSync (s : State) (i : Sid) (a amt : Nat) : State :=
  if s.isBad (blockOf a) then s.transferFault i ⟨.uncorrectable, blockOf a, 0⟩ else s.syncOp a amt

/-- A unit posts to a completion-ring entry for a stream, with the same exception. -/
def State.unitRing (s : State) (i : Sid) (a status fault count : Nat) : State :=
  if s.isBad (blockOf a) then s.transferFault i ⟨.uncorrectable, blockOf a, 0⟩ else s.ringPost a status fault count

/-! ### Completion events -/

/-- Is the bank at an address awake at this moment? A bank of another core answers by a free value (R175). -/
def State.bankUp (s : State) (a : Nat) : Bool :=
  match areaOf a with
  | .scratch c b => if c = s.coreNo.toNat then s.domAwake (domDb b) else Config.peerBankOpen s.now a
  | _ => false

/-- Post a completion event (R287). -/
def State.postEvent (s : State) (asid entry : Nat) (st : EvStatus) (fault count : Nat) : State :=
  if entry = 0 then s
  else if s.bankUp entry then s.ringPost entry st.num fault count
  else s.bbEvent 0x0112 0xFFFF asid entry (st.num + fault * 2 ^ 8) count

/-! ### Launch records and kernel headers (R278 to R284) -/

/-- Bits of a word of a launch record or kernel header. -/
def wf (w : W64) (lo n : Nat) : Nat := field w.toNat lo n

def Kernel.banks (k : Kernel) : Nat := (wf k.w0 0 22 + 0x1_FFFF) / 0x2_0000
def Kernel.tiles (k : Kernel) : Nat := wf k.w0 22 5
def Kernel.profile (k : Kernel) : Nat := wf k.w0 27 4
def Kernel.half (k : Kernel) : Bool := k.w0.getLsbD 31
def Kernel.refresh (k : Kernel) : Bool := k.w0.getLsbD 32
def Kernel.barriers (k : Kernel) : Bool := k.w0.getLsbD 33
def Kernel.wake (k : Kernel) : Nat := wf k.w1 0 23
def Kernel.mail (k : Kernel) : Nat := wf k.w1 23 8
def Kernel.rdv (k : Kernel) : Nat := wf k.w1 31 16
def Kernel.safe (k : Kernel) : Nat := wf k.w2 0 17

/-- A word of a record. -/
def rw (r : List W64) (i : Nat) : W64 := r.getD i 0
/-- The extents of a record. -/
def recExt (r : List W64) : List Nat :=
  [wf (rw r 3) 0 20, wf (rw r 3) 20 20, wf (rw r 3) 40 20, wf (rw r 4) 0 20, wf (rw r 4) 20 20, wf (rw r 4) 40 20]
/-- The number of tiles. -/
def recTiles (r : List W64) : Nat := (recExt r).foldl (· * ·) 1
/-- The walk field. -/
def recWalk (r : List W64) : Nat := wf (rw r 5) 0 18
/-- The stream a record names. -/
def recSec (r : List W64) : Bool := (rw r 2).getLsbD 18

/-- Is a walk field 0 or a permutation of the six dimensions (R280)? -/
def walkFine (w : Nat) : Bool :=
  w == 0 || [0, 1, 2, 3, 4, 5].all (fun d => [0, 1, 2, 3, 4, 5].any (fun k => w >>> (3 * k) % 8 == d))

/-- The RANGE conditions of R278, R280 and R281. -/
def State.recRange (_s : State) (x : Session) (r : List W64) : Bool :=
  let ev := (rw r 7).toNat
  wf (rw r 0) 56 8 != 0 || wf (rw r 1) 56 8 != 0 || wf (rw r 1) 0 6 != 0 ||
  decide (wf (rw r 2) 2 2 < wf (rw r 2) 0 2) || decide (wf (rw r 2) 7 3 < wf (rw r 2) 4 3) ||
  decide (wf (rw r 2) 14 4 < wf (rw r 2) 10 4) || wf (rw r 2) 19 45 != 0 ||
  wf (rw r 3) 60 4 != 0 || wf (rw r 4) 60 4 != 0 || decide (2 < wf (rw r 5) 18 4) || wf (rw r 5) 22 42 != 0 ||
  !walkFine (recWalk r) || wf (rw r 6) 56 8 != 0 || wf (rw r 7) 56 8 != 0 ||
  (ev != 0 && (ev % 16 != 0 || (match areaOf ev with | .scratch c _ => !x.hasCore c | _ => true))) ||
  decide (2 ^ 32 ≤ recTiles r)

/-- The cores of a record's core set that the session owns and that are not retired, in order of layer, then y, then x (R279). -/
def State.boxCores (s : State) (x : Session) (r : List W64) : List Nat :=
  let w := rw r 2
  (List.range 512).filter (fun c =>
    decide (wf w 0 2 ≤ coreL c) && decide (coreL c ≤ wf w 2 2) && decide (wf w 4 3 ≤ coreY c) &&
    decide (coreY c ≤ wf w 7 3) && decide (wf w 10 4 ≤ coreX c) && decide (coreX c ≤ wf w 14 4) &&
    x.hasCore c && !s.service.retired.contains (1, c))

/-- The placed cores of a record, in that order (R279). -/
def State.placed (s : State) (x : Session) (k : Kernel) (r : List W64) : List Nat :=
  (s.boxCores x r).filter (fun c => k.half || !s.colHalf (c % 128))

/-- The kernel header of a record, if it is loaded. -/
def Session.kernel (x : Session) (r : List W64) : Option Kernel := x.kernels.find? (fun k => k.addr == (rw r 1).toNat)

/-- The tiles and banks that a gang's member on a core holds; a member with an empty slice holds none (R281, R286). -/
def Gang.holds (g : Gang) (c : Nat) : Nat × Nat :=
  let n := g.cores.length
  let tiles := recTiles g.step.record
  match g.cores.findIdx? (fun x => x == c) with
  | none => (0, 0)
  | some i => if (i + 1) * tiles / n ≤ i * tiles / n then (0, 0) else (g.tiles, g.banks)

/-- What a gang's member on a core holds now: a finished one has released its tiles and banks, on another core at a free cycle (R100,
R286). -/
def State.holding (s : State) (g : Gang) (c : Nat) : Nat × Nat :=
  let runs := s.gangs.any (fun x => x.step.queue == g.step.queue && x.step.num == g.step.num)
  let ended := if c = s.coreNo.toNat then (s.str (if g.sec then .sec else .prim)).status == .finished
    else decide (Config.memberEnds g.step.queue g.step.num c ≤ s.now)
  if runs && ended then (0, 0) else g.holds c

/-- The gang that holds a stream of a core. -/
def State.gangAt (s : State) (sec : Bool) (c : Nat) : Option Gang := s.gangs.find? (fun g => g.sec == sec && g.cores.contains c)

/-- Does some placed core's primary task leave a secondary gang too few of what `have'` counts (R284, R286)? -/
def State.tightBeside (s : State) (g : Gang) (have' : Nat × Nat → Nat) : Bool :=
  g.cores.any (fun c => match s.gangAt false c with
    | some o => decide (16 < have' (g.holds c) + have' (s.holding o c))
    | none => false)

/-- What a predecessor asks of a step (R277). -/
inductive PredFate where
  | done | wait | failed | unknown
  deriving DecidableEq, Repr

/-- Does a queue belong to a session (R275)? -/
def State.ownsQueue (s : State) (asid : BitVec 12) (q : Nat) : Bool :=
  s.sessions.any (fun x => x.asid == asid && x.queues.any (fun y => y.1 == q))

/-- The fate of one predecessor of a step; a step sees those of its own session's queues only (R275, R277, R326). -/
def State.predFate (s : State) (p : PlanStep) (pr : Nat × Nat) : PredFate :=
  if !s.ownsQueue p.asid pr.1 then .unknown
  else match s.results.find? (fun x => x.1 == pr) with
  | some (_, .done) => .done
  | some _ => .failed
  | none =>
    if s.gangs.any (fun g => g.step.queue == pr.1 && g.step.num == pr.2) then .wait
    else if pr.1 = p.queue ∧ p.num ≤ pr.2 then .unknown
    else if s.queues.any (fun x => x.queue == pr.1 && x.num == pr.2) then .wait
    else .unknown

/-- Does a step end at once without running, where the steps of `ends` do: DONE where it is empty and every predecessor is, not DONE where
one has failed (R277, R281)? -/
def State.endsAtOnce (s : State) (ends : List ((Nat × Nat) × Bool)) (p : PlanStep) : Option Bool :=
  let fs := p.preds.map (fun r => match ends.find? (fun x => x.1 == r) with
    | some (_, ok) => if ok then PredFate.done else .failed
    | none => s.predFate p r)
  if fs.contains .failed then some false
  else if recTiles p.record = 0 ∧ fs.all (fun f => f == .done) = true then some true
  else none

/-- The steps of the queues that end at once, in posting order; the rest are pending. -/
def State.atOnce (s : State) : List ((Nat × Nat) × Bool) :=
  s.queues.foldl (fun ks p => match s.endsAtOnce ks p with | some ok => ks ++ [((p.queue, p.num), ok)] | none => ks) []

/-- The sub-code of a launch (R99, R284), the lowest of its causes; 0 where it is accepted. An empty launch needs nothing and completes
at once; one that a predecessor keeps waiting takes a place in its queue like any other step (R275, R281). -/
def State.launchCheck (s : State) (x : Session) (q : Nat) (r : List W64) (waits : Bool) : Nat :=
  let full := decide (1024 ≤ (s.queues.filter (fun p => p.queue == q && !s.atOnce.any (fun e => e.1 == (p.queue, p.num)))).length)
  if s.recRange x r then 1
  else if recTiles r = 0 then (if waits && full then 7 else 0)
  else match x.kernel r with
    | none => if s.boxCores x r = [] then 5 else 6
    | some k =>
      let ps := s.placed x k r
      let g : Gang := ⟨⟨q, 0, x.asid, r, []⟩, 0, ps, true, k.tiles, k.banks, none⟩
      if k.barriers ∧ ps ≠ [] ∧ recTiles r % ps.length ≠ 0 then 2
      else if recSec r && s.tightBeside g (·.1) then 3
      else if recSec r && s.tightBeside g (·.2) then 4
      else if ps = [] then 5
      else if k.refresh ∧ recSec r then 6
      else if full then 7
      else 0

/-- Append an accepted step to a queue (R275). -/
def State.addStep (s : State) (q : Nat) (asid : BitVec 12) (r : List W64) (preds : List (Nat × Nat)) : State :=
  let n := SMap.get 0 s.stepNums q
  { s with queues := s.queues ++ [⟨q, n, asid, r, preds⟩], stepNums := SMap.set 0 s.stepNums q (n + 1) }

/-- A LAUNCH as it acts: an accepted gang becomes a step at the tail of the issuing gang's queue; a rejected one posts
REJECTED unless the event field is the cause, and writes its event. The status value of R99 comes back. -/
def State.launch (s : State) (i : Sid) (record : Nat) (r : List W64) : State × W64 :=
  match s.sessionOf i with
  | none => (s, BitVec.ofNat 64 (6 * 2 ^ 8 + 1))
  | some x =>
    let q := (s.str i).task.queue
    let sub := s.launchCheck x q r false
    if sub = 0 then (s.addStep q x.asid r [], 0)
    else
      let ev := (rw r 7).toNat
      let evOk := decide (ev < 2 ^ 56) && ev % 16 == 0 && (match areaOf ev with | .scratch c _ => x.hasCore c | _ => false)
      let s := s.coreEvent i 0x0049 record sub 0
      let s := if evOk then s.postEvent x.asid.toNat ev .rejected sub 0 else s
      (s, BitVec.ofNat 64 (sub * 2 ^ 8 + 1))

/-! ### Plan steps (R276, R277) -/

/-- Two holdings of one core's tiles and banks fit beside each other (R286). -/
def beside (a b : Nat × Nat) : Bool := decide (a.1 + b.1 ≤ 16) && decide (a.2 + b.2 ≤ 16)

/-- The stream of a gang. -/
def Gang.sid (g : Gang) : Sid := if g.sec then .sec else .prim

/-- The other stream. -/
def Sid.other : Sid → Sid
  | .prim => .sec
  | .sec => .prim

/-- Has a gang a member on this core? -/
def State.onCore (s : State) (g : Gang) : Bool := g.cores.contains s.coreNo.toNat

/-- Is a gang off its cores: its contexts are in their save areas (R348)? -/
def State.gangOff (s : State) (g : Gang) : Bool :=
  if s.onCore g then (s.str g.sid).status == .saved else g.out.any (fun c => decide (c ≤ s.now))

/-- The task beside a gang's member on this core leaves it no room. -/
def State.tightHere (s : State) (g : Gang) : Bool :=
  let o := s.str (Sid.other g.sid)
  s.onCore g && o.status != .idle && !beside (s.holding g s.coreNo.toNat) (o.task.tiles, o.task.banks)

/-- The gangs of the other stream that leave a gang no room on other cores. -/
def State.tightGangs (s : State) (g : Gang) : List Gang :=
  s.gangs.filter (fun o => o.sec != g.sec && g.cores.any (fun c =>
    c != s.coreNo.toNat && o.cores.contains c && !beside (s.holding g c) (s.holding o c)))

/-- Gangs of the other stream that must leave before a gang can stand on its cores. A primary gang counts whether or not it is saved: it
keeps its places, and takes precedence when it resumes; a saved secondary one holds nothing (R286, R348). -/
def State.inTheWay (s : State) (g : Gang) : List Gang := (s.tightGangs g).filter (fun o => g.sec || !s.gangOff o)

/-- As `inTheWay`, for the task beside it on this core. -/
def State.inTheWayHere (s : State) (g : Gang) : Bool :=
  s.tightHere g && (g.sec || (s.str (Sid.other g.sid)).status != .saved)

/-- Do a gang's holdings fit on all its cores (R286)? -/
def State.gangFits (s : State) (g : Gang) : Bool := (s.inTheWay g).isEmpty && !s.inTheWayHere g

/-- Is the stream that a record names free on every placed core (R276)? -/
def State.streamsFree (s : State) (g : Gang) : Bool :=
  !(s.onCore g && (s.str g.sid).status != .idle) &&
  !s.gangs.any (fun o => o.sec == g.sec && o.cores.any g.cores.contains)

/-- Gangs that were displaced on other cores come back when they fit again (R286). -/
def State.resumeAway (s : State) : State :=
  { s with gangs := s.gangs.map (fun g =>
      if g.out.any (fun c => decide (c ≤ s.now)) && !s.onCore g && s.gangFits g then { g with out := none } else g) }

/-- The head of a queue. -/
def State.head (s : State) (q : Nat) : Option PlanStep := s.queues.find? (fun p => p.queue == q)

/-- A step ends with a status: its event posts and it leaves the queue or the gangs that run (R287). -/
def State.endStep (s : State) (p : PlanStep) (st : EvStatus) (fault count : Nat) : State :=
  let s := s.postEvent p.asid.toNat (rw p.record 7).toNat st fault count
  State.resumeAway { s with
    results := ((p.queue, p.num), st) :: s.results,
    headSince := if s.head p.queue = some p then SMap.set 0 s.headSince p.queue 0 else s.headSince
    queues := s.queues.filter (fun x => !(x.queue == p.queue && x.num == p.num)),
    gangs := s.gangs.filter (fun g => !(g.step.queue == p.queue && g.step.num == p.num)) }

/-- How a pending step ends without running, if it does now: PLAN_ORDER at the head of its queue; a failed predecessor, and an empty
launch that waits for none, at once, wherever the step stands (R277, R281, R289). -/
def State.endsNow (s : State) (p : PlanStep) : Option (EvStatus × Nat) :=
  let fs := p.preds.map (s.predFate p)
  if fs.contains .unknown && s.head p.queue == some p then some (.faulted, TrapCode.planOrder.num)
  else if fs.contains .failed then some (.aborted, 0)
  else if recTiles p.record = 0 ∧ fs.all (fun f => f == .done) = true then some (.done, 0)
  else none

/-- The first step of a queue that ends now without running. -/
def State.endingStep (s : State) (q : Nat) : Option PlanStep := s.queues.find? (fun p => p.queue == q && (s.endsNow p).isSome)

/-- The priority of a queue and its effective priority, with aging (R275). -/
def State.effPrio (s : State) (x : Session) (q : Nat) : Nat :=
  let p := ((x.queues.find? (fun y => y.1 == q)).map (·.2)).getD 7
  let since := SMap.get 0 s.headSince q
  p - (if since = 0 then 0 else (s.now + 1 - since) / 12000000)

/-- What a head may do now. -/
inductive HeadAct where
  | wait
  | start (g : Gang)
  | displace (g : Gang)        -- a primary step whose cores' secondary tasks must be pre-empted first (R286)
  deriving DecidableEq, Repr

/-- The lowest free gang slot of a session (R276). -/
def Session.freeSlot (x : Session) : Option Nat := (List.range 16).find? (fun g => !x.taken.contains g)

/-- Does a gang that the watchdog has forced off its cores stand at the head of a queue, before its steps (R352)? -/
def State.queueHeld (s : State) (q : Nat) : Bool := s.saved.any (fun c => c.forced && c.stream.task.queue == q)

/-- Is the head of another queue that waits for one of the same cores better (R276)? -/
def State.betterHead (s : State) (x : Session) (p : PlanStep) (ps : List Nat) : Bool :=
  s.queues.any (fun o =>
    o.queue != p.queue && s.head o.queue == some o && !s.queueHeld o.queue && o.asid == p.asid && o.preds.all (fun pr => s.predFate o pr == .done) &&
    (match x.kernel o.record with
     | some k => (s.placed x k o.record).any (fun c => ps.contains c)
     | none => false) &&
    (decide (s.effPrio x o.queue < s.effPrio x p.queue) ||
     (s.effPrio x o.queue == s.effPrio x p.queue && decide (o.queue < p.queue))))

/-- Has a secondary gang in the way not been asked to leave yet? -/
def State.unasked (s : State) (g : Gang) : Bool :=
  let here := s.inTheWayHere g || (s.inTheWay g).any s.onCore
  (here && (s.sec.status == .running || s.sec.status == .trapped || s.sec.status == .finished) && !s.sec.preempt) ||
  (s.inTheWay g).any (fun o => !s.onCore o && o.out.isNone)

/-- The action of the head of a queue (R276, R277, R286). A gang that the watchdog has forced off its cores stands before it (R352). -/
def State.headAct (s : State) (q : Nat) : HeadAct :=
  match s.head q with
  | none => .wait
  | some p =>
    match s.sessions.find? (fun x => x.asid == p.asid) with
    | none => .wait
    | some x =>
      if !p.preds.all (fun pr => s.predFate p pr == .done) || recTiles p.record = 0 ||
          s.queueHeld q then .wait
      else match x.kernel p.record, x.freeSlot with
        | some k, some n =>
          let g : Gang := ⟨p, n, s.placed x k p.record, recSec p.record, k.tiles, k.banks, none⟩
          if s.betterHead x p g.cores || !s.streamsFree g then .wait
          else if s.gangFits g then .start g
          else if !g.sec && s.unasked g then .displace g
          else .wait
        | _, _ => .wait

/-- The secondary gangs in the way of a primary one are asked to leave (R286, R344): on other cores their save is complete after a free
time. -/
def State.displace (s : State) (g : Gang) : State :=
  let ask : Bool := s.inTheWayHere g || (s.inTheWay g).any s.onCore
  let gone := s.now + 1 + Config.unitDelay s.free
  let away := s.inTheWay g
  let s := { s.drawn with gangs := s.gangs.map (fun o =>
    if away.contains o && !s.onCore o && o.out.isNone then { o with out := some gone } else o) }
  if ask then s.modStr .sec (fun t => { t with preempt := true }) else s

/-! ### Members (R280 to R286) -/

/-- Change a session. -/
def State.modSession (s : State) (asid : BitVec 12) (f : Session → Session) : State :=
  { s with sessions := s.sessions.map (fun x => if x.asid = asid then f x else x) }

/-- The task of member `m` of `n`, from its record, header, gang slot and step. -/
def mkTask (p : PlanStep) (k : Kernel) (g m n : Nat) : Task :=
  let r := p.record
  let tiles := recTiles r
  { entry := BitVec.ofNat 64 (wf (rw r 0) 0 56), param := rw r 6, event := rw r 7, asid := p.asid, queue := p.queue,
    stepNo := p.num, gslot := BitVec.ofNat 4 g, member := BitVec.ofNat 10 m, members := BitVec.ofNat 10 n, ext := recExt r,
    walk := BitVec.ofNat 18 (recWalk r), tix := m * tiles / n, tixEnd := (m + 1) * tiles / n, ended := 0, tiles := k.tiles,
    banks := k.banks, safe := k.safe, mail := BitVec.ofNat 8 k.mail, rdv := BitVec.ofNat 16 k.rdv, refresh := k.refresh,
    halfTime := k.half, barriers := k.barriers }

/-- A refresh group counts from this cycle on, its rate kept (R195). -/
def State.touchGroup (s : State) (slice group : Nat) : State :=
  let k := 64 * slice + group
  let g : RefGroup := SMap.get ⟨0, false, false⟩ s.refresh k
  { s with refresh := SMap.set ⟨0, false, false⟩ s.refresh k { g with last := s.now } }

/-- Start a member on a stream (R20, R285): the wake set is queued in bit order, the first bundle is a segment entry. A domain that the
other stream's task owns stays with it (DESIGN CHOICE: R285 does not say what its wake is then; log 81). A member with an empty slice
wakes nothing, holds nothing and is finished (R281). -/
def State.startMember (s : State) (i : Sid) (t : Task) (profile wake : Nat) : State :=
  let empty := decide (t.tixEnd ≤ t.tix)
  let t : Task := if empty then { t with tiles := 0, banks := 0 } else t
  let lo := 64 * physTile i t.tiles 0
  let s := { s with tiles := SMap.clear s.tiles lo (64 * t.tiles), filler := (match i with | .sec => none | .prim => s.filler) }
  let s := s.setStr i { Stream.idle with
    status := if empty then .finished else .running, task := t,
    sc := { Scalars.start with pc := t.entry, profile := BitVec.ofNat 4 profile } }
  if empty then s
  else
    let lob := ((s.str i).banks i).1
    let s := if t.refresh then (List.range 64).foldl (fun s g => s.touchGroup (coreL s.coreNo.toNat) g) s else s
    let s := (List.range 23).foldl (fun s d =>
      let d' := if d < 7 then d else d + lob
      if wake >>> d % 2 = 1 ∧ (s.dom d').st = .asleep then s.queueWake i d' else s) s
    s.takeCkpt i

/-- Start a step: its gang takes the slot, and the member of this core starts (R276). -/
def State.startStep (s : State) (g : Gang) : State :=
  let p := g.step
  match (s.sessions.find? (fun x => x.asid == p.asid)).bind (fun x => x.kernel p.record) with
  | none => s
  | some k =>
    let prof := if wf (rw p.record 5) 18 4 = 0 then k.profile else wf (rw p.record 5) 18 4
    let s := s.modSession p.asid (fun y => { y with taken := g.slot :: y.taken })
    let s := { s with queues := s.queues.filter (fun y => !(y.queue == p.queue && y.num == p.num)),
                      gangs := g :: s.gangs, headSince := SMap.set 0 s.headSince p.queue 0 }
    match g.cores.findIdx? (fun c => c == s.coreNo.toNat) with
    | none => s
    | some m => s.startMember g.sid (mkTask p k g.slot m g.cores.length) prof k.wake

/-- The longest wrap sweep: 6 ms (R252). -/
def sweepMax : Nat := 7200000

/-- Does a session map the frame that a block of DRAM lies in (R327)? -/
def Session.frames (x : Session) (blk : Nat) : Bool :=
  x.pages.any (fun m => m.entry.getLsbD 0 && (
    let a := frameAddr m.entry m.va
    decide (a ≤ blk) && decide (blk < a + (if m.entry.getLsbD 4 then 0x4000_0000 else 0x20_0000))))

/-- A lane whose tag the sweep of a gang slot clears reads FRESH. -/
def sweptLane (x : Session) (g : Nat) (blk : Nat) (v : W64) : W64 :=
  let mine : Bool := (match areaOf blk with | .scratch c _ => x.hasCore c | .dram .. => x.frames blk | _ => false)
  if mine && (v.extractLsb' 29 4).toNat == g then (v.extractLsb' 0 16).setWidth 64 else v

/-- Every tag of the session's checked memory that names a gang slot is rewritten as FRESH (R252). -/
def State.sweepTags (s : State) (x : Session) (g : Nat) : State :=
  { s with lanes := (s.lanes.map (fun p => (p.1, sweptLane x g p.1 p.2))).filter (fun p => p.2 != 0) }

/-- The phase of a gang slot advances. A wrap starts the sweep of its tags, before any access checks one of them: each reads FRESH from this
cycle on, and what is written in the new phase stays, while the members or the slot wait for the sweep's end (R252; DEDUCED, log 100). -/
def State.advancePhase (s : State) (asid : BitVec 12) (g : Nat) : State :=
  let ph := s.phase asid g + 1
  let s1 := s.modSession asid (fun x => { x with phases := SMap.set 0 x.phases g ph })
  if ph = 0 then
    (((s1.sessions.filter (fun x => x.asid == asid)).foldl (fun s x => s.sweepTags x g) s1).drawn).modSession asid (fun x => { x with sweeps := (g, s.now + 1 + Config.unitDelay s.free % sweepMax) :: x.sweeps })
  else s1

/-- The end of a gang advances its slot's phase; the slot is free again, at once or when a sweep of it is done (R252, R287). -/
def State.endPhase (s : State) (asid : BitVec 12) (g : Nat) : State :=
  (s.advancePhase asid g).modSession asid (fun x =>
    if x.sweeps.any (fun p => p.1 == g) then x else { x with taken := x.taken.filter (fun y => y != g) })

end Sys2Proof.Machine
end

