-- ==== Sys2Proof/Machine/Access.lean ====
section
/-! DEFINITION. Sys2Proof/Machine/Access.lean: memory operations at their banks: what each touches, its late checks, its
effect, and the life of an access from issue to arrival (R174 to R197, R242 to R251, R380). -/

namespace Sys2Proof.Machine

/-- Bytes of a scalar width code (R187). -/
def widthBytes (w : Nat) : Nat := if w < 2 then 1 else if w < 4 then 2 else if w < 6 then 4 else 8

/-- The blocks of `n` rows from a block address. -/
def rowBlocks (a n : Nat) : List Nat := (List.range n).map (fun i => blockOf a + 64 * i)

/-- The blocks of a tag operation's range; none where its size is refused (R197). -/
def tagBlocks (a n : Nat) : List Nat := if 2 ^ 32 < n then [] else blocksOf a n

/-- The blocks an operation touches. -/
def MemOp.blocks : MemOp → List Nat
  | .ld a w => blocksOf a (widthBytes w)
  | .ldh a => [blockOf a]
  | .tagr a => [blockOf a]
  | .st a bs => blocksOf a bs.length
  | .sth a _ => [blockOf a]
  | .tld _ _ sh fmt _ _ _ _ => tileBlocks sh (fmt == 0xF)
  | .tst _ _ sh fmt _ _ _ _ => tileBlocks sh (fmt == 0xF)
  | .tlda _ n a => rowBlocks a n
  | .tsta rows a => rowBlocks a rows.length
  | .voadd a _ => [blockOf a]
  | .voadd64 a _ => [blockOf a]
  | .vocas a _ _ => [blockOf a]
  | .vosax y x _ => [blockOf y, blockOf x]
  | .synca a _ => [blockOf a]
  | .synci a _ => [blockOf a]
  | .publ a n => tagBlocks a n
  | .hand a n _ => tagBlocks a n
  | .signal a _ => [blockOf a]
  | .push .. => []
  | .launch r => [blockOf r]
  | .probe a => [blockOf a]

/-- The tag checks of an operation (R246). -/
def MemOp.tags : MemOp → List (Nat × TagKind)
  | .ld a w => (blocksOf a (widthBytes w)).map (·, .read)
  | .ldh a => [(blockOf a, .read)]
  | .st a bs => (blocksOf a bs.length).map (·, .write)
  | .sth a _ => [(blockOf a, .write)]
  | .tld _ _ sh fmt _ _ _ _ => (tileBlocks sh (fmt == 0xF)).map (·, .read)
  | .tst _ _ sh fmt _ _ _ _ => (tileBlocks sh (fmt == 0xF)).map (·, .write)
  | .tlda _ n a => (rowBlocks a n).map (·, .read)
  | .tsta rows a => (rowBlocks a rows.length).map (·, .write)
  | .voadd a _ => [(blockOf a, .atomic)]
  | .voadd64 a _ => [(blockOf a, .atomic)]
  | .vocas a _ _ => [(blockOf a, .atomic)]
  | .vosax y x _ => [(blockOf y, .atomic), (blockOf x, .read)]
  | .publ a n => (tagBlocks a n).map (·, .publ)
  | .hand a n m => (tagBlocks a n).map (·, .hand m)
  | _ => []

/-- Does an operation read the payload, header or lane of its blocks for itself (R358)? -/
def MemOp.reads : MemOp → Bool
  | .st .. => false
  | .sth .. => false
  | .tst .. => false
  | .tsta .. => false
  | .push .. => false
  | _ => true

/-- Does an operation read stored bits of a block, so that a stored error is consumed: for itself, or in the tag check of a store
(R246, R358)? -/
def MemOp.consumes (op : MemOp) (b : Nat) : Bool := op.reads || isChecked b

/-- Can a conversion from a source of a format read a block under a header (R184, R211, R214, R217)? The format code must be the
source's: a NONE block of a RAW source is refused too, since only verbatim moves and words that count NONE as zeros are excepted (R211;
DEDUCED for a copy that converts RAW into RAW, which R217 does not name; log 73). -/
def convReads (fmt : Nat) (h : BitVec 16) : Bool := hInterp h && hFmt h == fmt

/-- The late format check of an operation at a block (R177, R184, R196): the format code it requires where it fails. A transfer with
keep, or into RAW, interprets no header (R211). -/
def MemOp.formatFails (op : MemOp) (blk : Nat) (h : BitVec 16) : Option Nat :=
  match op with
  | .tld _ _ sh fmt _ _ _ _ => if fmt = 0xF ∨ fmt = 1 ∨ convReads (shFmt sh) h then none else some (shFmt sh)
  | .voadd .. => if h = 0x7F70 ∨ h = 0 then none else some 7
  | .voadd64 .. => if h = 0x7FC0 ∨ h = 0 then none else some 12
  | .vosax y _ _ =>
    if blk = blockOf y then (if h = 0x7F70 then none else some 7)
    else if hInterp h && hFmt h == 7 then none else some 7
  | _ => none

/-! ### Kinds of operation -/

/-- Is an operation a plain store or a push (R190)? -/
def MemOp.isStore : MemOp → Bool
  | .st .. => true
  | .sth .. => true
  | .tst .. => true
  | .tsta .. => true
  | .push .. => true
  | _ => false

/-- Is an operation a release (R253)? -/
def MemOp.isRelease : MemOp → Bool
  | .synca .. => true
  | .signal .. => true
  | .launch .. => true
  | _ => false

/-- Is an operation a race-tag operation (R197)? -/
def MemOp.isTagOp : MemOp → Bool
  | .publ .. => true
  | .hand .. => true
  | _ => false

/-- Is an operation a push to a mailbox (R22)? -/
def MemOp.isPush : MemOp → Bool
  | .push .. => true
  | _ => false

/-- Does an operation write a sync word's target (R192)? -/
def MemOp.isSynci : MemOp → Bool
  | .synci .. => true
  | _ => false

/-- The address that an operation starts from, where it is one address. -/
def MemOp.base : MemOp → Option Nat
  | .ld a _ => some a
  | .ldh a => some a
  | .tagr a => some a
  | .st a _ => some a
  | .sth a _ => some a
  | .synca a _ => some a
  | .synci a _ => some a
  | .publ a _ => some a
  | .hand a _ _ => some a
  | .signal a _ => some a
  | .launch a => some a
  | .probe a => some a
  | _ => none

/-- The address an operation accesses in a block: its own address where that lies in the block, else the block's (R341). -/
def MemOp.addrIn (op : MemOp) (b : Nat) : Nat :=
  match op.base with
  | some a => if blockOf a = b then a else b
  | none => b

/-! ### Memory as accesses see it (R39, R242, R327) -/

/-- A record of the visible bank, as the accumulator window reads it. -/
def State.accRecord (s : State) (n : Nat) : Nat :=
  let bank := if s.work1 then s.bank0 else s.bank1
  (SMap.get Acc.clear bank n).record

/-- A block of this core's accumulator window. -/
def State.accBlock (s : State) (b : Nat) : Nat :=
  let off := b - (coreWindow s.coreNo.toNat + 0xC0_0000)
  ofBytes ((((List.range 2).flatMap (fun k => toBytes 96 (s.accRecord (off / 96 + k)))).drop (off % 96)).take 64)

/-- Does a block stand in memory under its own address: no tile row or accumulators of this core, no accumulators of another,
and no page that puts it elsewhere? -/
def State.isHome (s : State) (asid : BitVec 12) (b : Nat) : Bool :=
  match areaOf b with
  | .tile c .. => c != s.coreNo.toNat
  | .accum _ => false
  | _ => s.phys asid b == b

/-- A block's payload and metadata lane as an access of a session sees them: a tile row or accumulators of this core, a free
value for another core's accumulators, whose engine works outside this model (log 51), and memory at the physical address for
everything else. -/
def State.seen (s : State) (asid : BitVec 12) (b : Nat) : Nat × W64 :=
  match areaOf b with
  | .tile c t r =>
    if c = s.coreNo.toNat then
      let row := s.rowView (64 * t + r)
      (row.payload.toNat, row.h1.setWidth 64)
    else (s.load b 64, s.lane b)
  | .accum c =>
    if c = s.coreNo.toNat then (s.accBlock b, 0x7FD0)
    else (ofBytes ((List.range 64).map (fun i => Config.peerByte s.free (b + i))), 0x7FD0)
  | _ => (s.load (s.phys asid b) 64, s.lane (s.phys asid b))

/-- Lay a block that stands elsewhere under its own address, as `s` sees it. -/
def State.viewBlock (s : State) (asid : BitVec 12) (v : State) (b : Nat) : State :=
  if s.isHome asid b then v
  else let x := s.seen asid b; (v.store b (toBytes 64 x.1)).setLane b x.2

/-- The state with every block among these laid out under its own address, to be read and written. -/
def State.view (s : State) (asid : BitVec 12) (bs : List Nat) : State := bs.foldl (s.viewBlock asid) s.drawn

/-- Put back what stands under a block's own address. -/
def State.unlay (s : State) (v : State) (b : Nat) : State := (v.store b (s.bytes b 64)).setLane b (s.lane b)

/-- What a write to a tile row of this core sets when it lands: its bits, its header rule, whether its CRC is computed. -/
structure RowSet where
  mask : BitVec 512
  hdr  : HdrRule
  crc  : Bool
  deriving DecidableEq, Repr

/-- Fill the placeholder of an access in the pending writes of a row; with none the write stands last (R32). -/
def fillRowOp (id : Nat) (o : RowOp) : List RowOp → List RowOp
  | [] => [o]
  | p :: ps => if p.row = o.row ∧ p.acc = some id then o :: ps else p :: fillRowOp id o ps

/-- Take a block back to where it stands, with the content `p`, `lane` that an operation left: memory at its physical address; a
tile row of this core becomes a write, made by `mk` from the block, that lands in its place among the row's pending writes (R32,
R39). -/
def State.homeBlock (asid : BitVec 12) (place : RowOp → List RowOp → List RowOp)
    (mk : Nat → Nat → BitVec 512 → BitVec 16 → Option RowOp) (s : State) (x : Nat × Nat × W64) : State :=
  let (b, p, lane) := x
  match areaOf b with
  | .tile c t r =>
    if c = s.coreNo.toNat then
      match mk b (64 * t + r) (BitVec.ofNat 512 p) (lane.extractLsb' 0 16) with
      | some o => { s with rowOps := place o s.rowOps }
      | none => s
    else s
  | .accum _ => s
  | _ => (s.store (s.phys asid b) (toBytes 64 p)).setLane (s.phys asid b) lane

/-- End a view: every block laid out goes back to where it stands, and what stood under its address is restored. -/
def State.unview (s : State) (asid : BitVec 12) (place : RowOp → List RowOp → List RowOp)
    (mk : Nat → Nat → BitVec 512 → BitVec 16 → Option RowOp) (v : State) (bs : List Nat) : State :=
  let moved := bs.filter (fun b => !s.isHome asid b)
  let left := moved.map (fun b => (b, v.load b 64, v.lane b))
  left.foldl (State.homeBlock asid place mk) (moved.foldl s.unlay v)

/-- Is the state of another core's unit open to an access: a bank awake and not being saved, a tile row not being saved?
A free value (R175, R350). -/
def State.peerFails (s : State) (a : Nat) : Bool :=
  match areaOf a with
  | .scratch c _ => c != s.coreNo.toNat && !Config.peerBankOpen s.now a
  | .tile c .. => c != s.coreNo.toNat && !Config.peerBankOpen s.now a
  | _ => false

/-- Is a stream's context in the save area, or on its way back (R348 to R350; log 68)? -/
def Stream.away (t : Stream) : Bool := t.status == .saved || t.status == .restoring

/-- Has a member stopped for a pre-emption: after the checkpoint of a SEG.s, before the next bundle begins a wait, in a BAR or RDV wait,
or because it has finished (R89, R100, R344)? -/
def Stream.stopped (t : Stream) : Bool :=
  t.preempt && (t.status == .finished ||
    (t.status == .running && t.error.isNone && t.consumed.isNone && ((t.atSafe && t.ckptDue.isNone && t.wait.isNone) ||
      (match t.wait with
       | some (.bar _) => true
       | some (.rdv _ _) => true
       | some .solo => true
       | some .arriving => true
       | _ => false))))

/-- A mailbox of this core's streams: is it declared by a task that runs (R22, R23)? -/
def State.mailOpen (s : State) (sec : Bool) (q : Nat) : Bool :=
  let t := if sec then s.sec else s.prim
  t.isMail q && (t.status == .running || t.status == .trapped)

/-- The push address of a queue. -/
def pushAddr (core q : Nat) (sec : Bool) : Nat := coreWindow core + 0xF0_0000 + (if sec then 0x100 else 0) + 8 * q

/-- The late check of a push: a context being saved, saved or restored is not owned, any other stream without the mailbox gives
PERMISSION (R23, R350; log 68). Another core's stream answers by free values. -/
def State.pushCheck (s : State) (slot c q : Nat) (sec : Bool) : Option Cause :=
  let addr := pushAddr c q sec
  let bad (code : TrapCode) : Option Cause := some { rank := 8, slot, code, addr }
  if c = s.coreNo.toNat then
    if (if sec then s.sec else s.prim).away then bad .domainNotOwned
    else if s.mailOpen sec q then none else bad .permission
  else if Config.peerSaved s.now addr then bad .domainNotOwned
  else if Config.peerMailbox s.now addr then none else bad .permission

/-- The causes of the late checks of an operation of stream `i` in the bundle `ord` of its segment: ownership, stored errors and broken
tags, format, race (R177, R339). A tag check that has passed since the checkpoint finds no race when a rewind or a replay makes it again
(R250; how the VF-40 tells them is DEDUCED, log 96). -/
def State.lateCauses (s : State) (i : Sid) (slot ord : Nat) (op : MemOp) : List Cause :=
  let t := (s.str i).task
  let v := s.view t.asid op.blocks
  let bad := (op.blocks.filter (fun b => op.consumes b && s.isBad (s.phys t.asid b))).map (fun b =>
    { rank := 9, slot, code := .uncorrectable, addr := b, sub := 0x61 : Cause })
  let shut := (op.blocks.filter s.peerFails).map (fun b =>
    { rank := 8, slot, code := .domainNotOwned, addr := op.addrIn b,
      aux := (match areaOf b with | .scratch _ k => domDb k | _ => 0) : Cause })
  let pushed := match op with
    | .push c q sec _ => (s.pushCheck slot c q sec).toList
    | _ => []
  let fmts := op.blocks.filterMap (fun b => (op.formatFails b (v.hdrOf b)).map (fun f =>
    { rank := 11, slot, code := .format, addr := b, aux := (v.hdrOf b).toNat + f * 2 ^ 16 : Cause }))
  let tags := s.tagCauses t.asid t.gslot t.member slot op.tags
  shut ++ pushed ++ bad ++ fmts ++
    tags.filter (fun c => c.rank == 9 || !(s.str i).passed.contains (ord, slot, c.addr))

/-- The late check of an operation: the lowest of its causes (R177, R339). -/
def State.lateCheck (s : State) (i : Sid) (slot ord : Nat) (op : MemOp) : Option Cause := pickCause (s.lateCauses i slot ord op)

/-- The bits of a block that element writes set. -/
def writeMask (blk : Nat) (ws : List ElemWrite) : BitVec 512 :=
  ws.foldl (fun m e => (List.range e.w).foldl (fun m j =>
    if blockOf ((e.bit + j) / 8) = blk then m ||| BitVec.ofNat 512 (2 ^ ((e.bit + j) % 512)) else m) m) 0

/-- What an operation sets of a tile row of this core: a scalar store its bytes and no header, STH the header alone, a
converting TST its elements, any other store the whole row (R31, R185 to R188). -/
def MemOp.rowSet (b : Nat) : MemOp → Option RowSet
  | .st a bs => some ⟨BitVec.ofNat 512 ((2 ^ (8 * bs.length) - 1) * 2 ^ (8 * (a % 64))), .keep, true⟩
  | .sth _ h => some ⟨0, .fixed h, false⟩
  | .tst tile rows sh fmt rnd seed step grp =>
    if fmt = 0xF then some ⟨BitVec.allOnes 512, .keep, true⟩
    else some ⟨writeMask b (rows.zipIdx.flatMap (fun (row, k) => tstWrites sh rnd seed step tile grp k row)), .keep, true⟩
  | .tsta .. => some ⟨BitVec.allOnes 512, .keep, true⟩
  | _ => none

/-- The row write that an access leaves on a tile row of this core. -/
def MemOp.rowOp (op : MemOp) (i : Sid) (seq b : Nat) (k : Nat) (p : BitVec 512) (h : BitVec 16) : Option RowOp :=
  (op.rowSet b).map (fun w => ⟨i, k, w.mask, p, (match op with | .st .. => w.hdr | .sth .. => w.hdr | _ => .fixed h), w.crc, true, 0, seq,
    none, false⟩)

/-! ### Effects -/

/-- The value a scalar load of a width reads (R187). -/
def loadValue (w x : Nat) : W64 :=
  match w with
  | 0 => (BitVec.ofNat 8 x).signExtend 64
  | 2 => (BitVec.ofNat 16 x).signExtend 64
  | 4 => (BitVec.ofNat 32 x).signExtend 64
  | _ => BitVec.ofNat 64 x

/-- A vault operation on a block headed NONE counts it as zeros and gives it a header (R196, R217). -/
def State.asZeros (s : State) (b : Nat) (h : BitVec 16) : State :=
  if s.hdrOf b = 0 then (s.store b (List.replicate 64 0)).setHdr b h else s

/-- The rows a TLD or TLDA brings: payload and header. -/
def State.loadRows (s : State) : MemOp → List (Nat × BitVec 16)
  | .tld _ tile sh fmt rnd seed step grp => (List.range (shE1 sh)).map (s.tldRow sh fmt rnd seed step tile grp)
  | .tlda _ n a => (rowBlocks a n).map (fun b => (s.load b 64, s.hdrOf b))
  | _ => []

/-- The effect of an operation on memory, and the value it brings. -/
def State.memEffect (s : State) (i : Sid) : MemOp → State × Option W64
  | .ld a w => (s, some (loadValue w (s.load a (widthBytes w))))
  | .ldh a => (s, some ((s.hdrOf (blockOf a)).setWidth 64))
  | .tagr a => (s, some (s.lane (blockOf a) &&& 0x1FFFFFFFFFFFF))
  | .st a bs => (s.store a bs, none)
  | .sth a h => (s.setHdr (blockOf a) h, none)
  | .tld .. => (s, none)
  | .tlda .. => (s, none)
  | .tst tile rows sh fmt rnd seed step grp => (s.tstTile sh fmt rnd seed step tile grp rows, none)
  | .tsta rows a =>
    (rows.zipIdx.foldl (fun s (r, j) =>
      (s.store (blockOf a + 64 * j) (toBytes 64 r.payload.toNat)).setHdr (blockOf a + 64 * j) r.h1) s, none)
  | .voadd a v =>
    let s := s.asZeros (blockOf a) 0x7F70
    (s.store a (toBytes 4 (toF32 ((f32 (s.load a 4)).add (f32 v.toNat)))), none)
  | .voadd64 a v =>
    let s := s.asZeros (blockOf a) 0x7FC0
    (s.store a (toBytes 8 (s.word a + v).toNat), none)
  | .vocas a old new =>
    let y := s.word a
    (if y = old then s.store a (toBytes 8 new.toNat) else s, some y)
  | .vosax y x c =>
    ((List.range 16).foldl (fun s j =>
      let xv := elemValue (s.hdrOf (blockOf x)) (s.load (x + 4 * j) 4)
      s.store (y + 4 * j) (toBytes 4 (toF32 (((f32 c.toNat).mul xv).add (f32 (s.load (y + 4 * j) 4)))))) s, none)
  | .synca a n => (s.syncOp a n, none)
  | .synci a t => (s.syncInit a t, none)
  | .publ .. => (s, none)
  | .hand .. => (s, none)
  | .signal a st => (s.ringPost a (0x80 + st) 0 0, none)
  | .push c q sec v =>
    if c = s.coreNo.toNat then
      (s.modStr (if sec then .sec else .prim) (fun t => { t.setQueue q (t.queue q ++ [v]) with mailLog := t.mailLog ++ [(q, v)] }), none)
    else (s, none)
  | .launch r => let (s, v) := s.launch i r ((List.range 8).map (fun k => s.word (r + 8 * k))); (s, some v)
  | .probe .. => (s, none)

/-- An operation performs at its bank: tags, windows and effect. `id` is its access, whose rows are pending. -/
def State.perform (s : State) (i : Sid) (tagged : Bool) (id : Nat) (op : MemOp) : State × Option W64 × List (Nat × BitVec 16) :=
  let t := (s.str i).task
  let s := if tagged then s.applyTags t.asid t.gslot t.member op.tags else s
  let v := s.view t.asid op.blocks
  let rows := v.loadRows op
  let (v, x) := v.memEffect i op
  (s.unview t.asid (fillRowOp id) (op.rowOp i id) v op.blocks, x, rows)

/-! ### Accesses in flight -/

/-- Does an operation land something: a value, rows, or for SYNCI its own completion (R179, R192)? -/
def MemOp.lands : MemOp → Bool
  | .ld .. => true
  | .ldh .. => true
  | .tagr .. => true
  | .tld .. => true
  | .tlda .. => true
  | .vocas .. => true
  | .synci .. => true
  | .launch .. => true
  | _ => false

/-- The paths of an operation: those of its blocks, whose addresses alone decide (R178); one that touches none stays local. The word
performs at its banks in one cycle, so it is ordered on each of them (DEDUCED; log 97). -/
def State.opPaths (s : State) : MemOp → List Path
  | .push c q sec _ => [s.pathOf (pushAddr c q sec)]
  | op => if op.blocks.isEmpty then [.localPath] else (op.blocks.map s.pathOf).eraseDups

/-- Does an operation leave the local path (R181)? -/
def State.opAfar (s : State) (op : MemOp) : Bool := (s.opPaths op).any (· != .localPath)

/-- The nominal latency of an operation: its farthest block's (R179); the status of a LAUNCH takes 96 cycles (R98). A load of a tile whose
elements all lie outside the tensor touches no memory and takes the local latency (DESIGN CHOICE: R179 gives none; log 98). -/
def State.opNominal (s : State) (i : Sid) (op : MemOp) : Nat :=
  let tile := match op with | .tld .. => true | .tlda .. => true | _ => false
  let rows := match op with | .tld _ _ sh .. => shE1 sh | .tlda _ n _ => n | _ => 1
  match op with
  | .launch .. => 96
  | _ =>
    if op.blocks.isEmpty then (if tile then 20 + (rows - 1) / 16 * 4 else 12)
    else (op.blocks.map (s.nominal i tile rows)).foldl max 0

/-- Does a release of a scope wait for accesses on a path (R253)? -/
def scopeWaits (scope : Nat) (p : Path) : Bool :=
  match p with
  | .localPath => true
  | .vertical => decide (1 ≤ scope)
  | .horizontal => decide (2 ≤ scope)

/-- The scope a release acts at: LAUNCH at device scope at least (R80). -/
def MemOp.scopeOf (scope : Nat) : MemOp → Nat
  | .launch .. => max 3 scope
  | _ => scope

/-- Has the stream a SEND or fabric copy issued before `n` that is not yet decoded and written (R253)? -/
def State.fabricBehind (s : State) (i : Sid) (n : Nat) : Bool :=
  s.fabric.sent.any (fun x => x.sid == i && x.live && x.copy.isNone && decide (x.id < n)) ||
  s.copies.any (fun c => c.sid == i && c.fabric && decide (c.id < n))

/-- Has the stream an access on a path that has not performed? -/
def State.onPath (s : State) (i : Sid) (p : Path) : Bool := s.accs.any (fun a => a.sid == i && !a.done && a.paths.contains p)

/-- Does an earlier access order an operation: on one of its paths, on the local path, one that its release waits for, or one to a
block whose tag it changes (R178, R253, R254)? -/
def Access.orders (b : Access) (ps : List Path) (scope : Nat) (op : MemOp) : Bool :=
  b.paths.any (fun p => ps.contains p || p == .localPath || (op.isRelease && scopeWaits scope p)) ||
  (op.isTagOp && op.blocks.any (fun k => b.op.blocks.contains k))

/-- Has a SYNCI of the stream issued before `n` still to perform? Later X words are ordered after it (R192). -/
def State.synciBehind (s : State) (i : Sid) (n : Nat) : Bool :=
  s.accs.any (fun a => a.sid == i && !a.done && decide (a.seq < n) && a.op.isSynci)

/-- Has an access or message of the stream issued before `n` that orders an operation still to perform (R178, R192, R253, R254)? -/
def State.opBehind (s : State) (i : Sid) (n scope : Nat) (op : MemOp) : Bool :=
  let ps := s.opPaths op
  let scope := op.scopeOf scope
  s.accs.any (fun b => b.sid == i && !b.done && decide (b.seq < n) && b.orders ps scope op) ||
  (op.isSynci && s.synciBehind i n) || (op.isRelease && decide (4 ≤ scope) && s.fabricBehind i n)

/-- Has an access that a copy, binding or submission follows still to perform: one on the local path, a store within its scope, or a SYNCI
(R178, R192, R199, R255)? -/
def State.workBehind (s : State) (i : Sid) (p : Place) : Bool :=
  s.accs.any (fun a => a.sid == i && !a.done && decide (a.seq < p.seq) &&
    a.paths.any (fun q => q == .localPath || (a.op.isStore && scopeWaits p.scope q))) ||
  s.synciBehind i p.seq

/-- Is a mailbox full? Its landed entries, the stream's own pushes in flight to it, and pushes of a commit bundle on their way take
its room (DEDUCED from R21, which counts pushes in flight; R22 does not say so of a remote push; log 78). -/
def State.mailFull (s : State) (sec : Bool) (q : Nat) : Bool :=
  let i : Sid := if sec then .sec else .prim
  let ours := (s.accs.filter (fun a => a.checked && !a.done && (match a.op with
    | .push c k x _ => c == s.coreNo.toNat && k == q && x == sec
    | _ => false))).length
  decide (4 ≤ ((s.str i).queue q).length + (s.inFlight i q).length + ours)

/-- Does a push to this core find its mailbox full, so that it waits in the mesh (R22, R23)? -/
def State.pushWaits (s : State) (op : MemOp) : Bool :=
  match op with
  | .push c q sec _ => c == s.coreNo.toNat && s.mailOpen sec q && s.mailFull sec q
  | _ => false

/-- Cycles of a tag operation beyond its farthest block: 64 blocks of the fullest bank per cycle (R197). -/
def tagTime (bs : List Nat) : Nat :=
  let bank (b : Nat) : Nat := match areaOf b with
    | .scratch c k => 16 * c + k
    | .dram v s => 2 ^ 20 + 4 * v + s
    | _ => 2 ^ 30
  let banks := (bs.map bank).eraseDups
  ((banks.map (fun k => (bs.filter (fun b => bank b == k)).length)).foldl max 0 + 63) / 64

/-- The nominal time of a tag operation (R197). -/
def State.tagNominal (s : State) (i : Sid) (bs : List Nat) : Nat := (bs.map (s.nominal i false 1)).foldl max 0 + tagTime bs

/-- Cycles within which an operation performs when it is not late: a load by its landing, a tag operation by its nominal time;
none for any other (R197, R380). -/
def State.opBound (s : State) (i : Sid) (op : MemOp) : Option Nat :=
  if op.lands then some (s.opNominal i op) else if op.isTagOp then some (s.tagNominal i op.blocks) else none

/-- The rows of this core that an access keeps pending: those a load fills, and those a store into its tile window writes (R32,
R39). -/
def State.accessRows (s : State) (i : Sid) (id : Nat) (op : MemOp) : List RowOp :=
  let load (k : Nat) : RowOp := ⟨i, k, BitVec.allOnes 512, 0, .keep, true, false, 0, id, some id, false⟩
  let store (k : Nat) : RowOp := ⟨i, k, 0, 0, .keep, false, false, 0, id, some id, false⟩
  match op with
  | .tld r0 _ sh .. => (List.range (shE1 sh)).map (fun b => load (r0 + b))
  | .tlda r0 m _ => (List.range m).map (fun b => load (r0 + b))
  | op =>
    if op.isStore then op.blocks.filterMap (fun b => match areaOf b with
      | .tile c t r => if c = s.coreNo.toNat then some (store (64 * t + r)) else none
      | _ => none)
    else []

/-- Issue an access: its record, and its rows pending. It performs at a free cycle within R380, in the order of R178, and what it
brings can arrive late by a free number of cycles. A push of a commit bundle has waited for its room, and reaches its mailbox in
this cycle (R23). -/
def State.launchAccess (s : State) (slot : Slot) (op : MemOp) (d : Dst) (scope : Nat) (checked : Bool) : State :=
  let i := s.cur
  let n := s.opNominal i op
  let late := Config.lateness s.free
  let pd := Config.performDelay s.free
  let land := if op.lands then s.now + n else 0
  let q := match d with
    | .none => none
    | .queue q => some (physQ s.me.sc.rb q.toNat)
  let id := s.seq
  let at' := if checked && op.isPush then s.now
    else s.now + 1 + (match s.opBound i op with | some n => pd % (n + late) | none => pd)
  let a : Access :=
    { id, sid := i, slot := slot.idx, ord := s.me.ord, op, paths := s.opPaths op, perform := at', land,
      arrive := if op.lands then max (land + late) at' else 0, q, seq := id, done := false, val := none, checked,
      scope := op.scopeOf scope }
  let s := (s.drawn).seqd
  { s with accs := s.accs ++ [a], rowOps := s.rowOps ++ s.accessRows i id op }

/-- Put the rows that an access brought into its pending writes. -/
def fillRows (id : Nat) : List RowOp → List (Nat × BitVec 16) → List RowOp
  | [], _ => []
  | o :: os, rs =>
    if o.acc = some id then
      match rs with
      | (p, h) :: rs => { o with bits := BitVec.ofNat 512 p, hdr := .fixed h } :: fillRows id os rs
      | [] => o :: fillRows id os []
    else o :: fillRows id os rs

/-- The cause that a stream keeps of a failed check: a tag operation's race is raised precisely at its word, without the mark of a
replay (R197, R251). -/
def Access.kept (a : Access) (c : Cause) : Cause := if a.op.isTagOp then c else { c with replay := true }

/-- An error that has arrived with data waits for the next bundle that issues, which detects it (R356). -/
def State.consume (s : State) (i : Sid) (c : Cause) : State :=
  s.modStr i (fun t =>
    if (t.status = .running ∨ t.status = .trapped) ∧ t.error = none ∧ t.consumed = none then { t with consumed := some c } else t)

/-- An access that fails a late check leaves no trace. A stored error reaches the stream with the data: at its arrival, or now where
nothing lands (R356). Any other failure stops the stream, which keeps the first detection and goes back, after its resume if it has
trapped meanwhile (R177, R338). -/
def State.failAccess (s : State) (a : Access) (c : Cause) : State :=
  if c.rank = 9 ∧ a.op.lands = true then
    { s with accs := s.accs.map (fun x => if x.id = a.id then { x with done := true, err := some c } else x) }
  else
    let s := { s with accs := s.accs.filter (fun x => x.id != a.id), rowOps := s.rowOps.filter (fun o => o.acc != some a.id) }
    if c.rank = 9 then s.consume a.sid c
    else s.modStr a.sid (fun t =>
      if (t.status = .running ∨ t.status = .trapped) ∧ t.error = none then
        { t with error := some c, replay := some ⟨a.ord, a.kept c⟩ }
      else t)

/-- The updates of RECVs that waited for an earlier SYNCI are made once it has performed (R192, R207). -/
def State.payOwed (s : State) (i : Sid) : State :=
  let due := (s.str i).owed.filter (fun p => !s.synciBehind i p.1)
  due.foldl (fun s p => s.unitSync i p.2.1 p.2.2)
    (s.modStr i (fun t => { t with owed := t.owed.filter (fun p => s.synciBehind i p.1) }))

/-- The tag checks of an access have passed (R250). -/
def State.notePassed (s : State) (a : Access) : State :=
  s.modStr a.sid (fun t => { t with passed := a.op.tags.map (fun x => (a.ord, a.slot, x.1)) ++ t.passed })

/-- An access performs (R242, R380). -/
def State.performAccess (s : State) (a : Access) : State :=
  match (if a.checked then none else s.lateCheck a.sid a.slot a.ord a.op) with
  | some c => s.failAccess a c
  | none =>
    let (s, v, rows) := (s.notePassed a).perform a.sid (!a.checked) a.id a.op
    if a.op.lands then
      State.payOwed { s with accs := s.accs.map (fun x => if x.id = a.id then { x with done := true, val := v } else x),
                             rowOps := fillRows a.id s.rowOps rows } a.sid
    else { s with accs := s.accs.filter (fun x => x.id != a.id) }

/-- The item of an access arrives: it lands at its nominal cycle, or now when it is late (R180). An error that comes with it takes its
place (R356). -/
def State.arriveAccess (s : State) (a : Access) : State :=
  match a.err with
  | some c =>
    { s with accs := s.accs.filter (fun x => x.id != a.id), rowOps := s.rowOps.filter (fun o => o.acc != some a.id) }.consume a.sid c
  | none =>
  let due := max a.land s.now
  let s := { s with accs := s.accs.filter (fun x => x.id != a.id),
                    rowOps := s.rowOps.map (fun o => if o.acc = some a.id then { o with ready := true, due, acc := none } else o) }
  let s := if s.strict ∧ a.land + 4096 < s.now then
      s.coreEvent a.sid 0x0102 (a.op.blocks.headD 0) (s.now - a.land) 0 else s
  match a.op with
  | .synci .. => s
  | _ => match a.val with
    | some v => s.modStr a.sid (fun t => { t with flights := insFlight ⟨a.slot, v, a.q, due, a.seq⟩ t.flights })
    | none => s

end Sys2Proof.Machine
end

