-- ==== Sys2Proof/Machine/Issue.lean ====
section
/-! DEFINITION. Sys2Proof/Machine/Issue.lean: what one slot word contributes to its bundle, and how a bundle meets its
traps, stalls and waits, acts and ends (R18, R21, R46 to R50, R80 to R89, R339, R381). -/

namespace Sys2Proof.Machine

/-- What a slot word contributes to the bundle it stands in. Everything but `act` is judged on the state before the bundle;
`act pre s` takes the state before the bundle, from which every source is read (R6), and the state to change. -/
structure WordSem where
  slot     : Slot
  /-- The slot word, for the records that hold it (R341). -/
  word     : Nat := 0
  guard    : Guard
  /-- Scalar sources in field order; an own latch that the word reads stands last. -/
  srcs     : List Src := []
  /-- Queues pushed by its result. -/
  dsts     : List (BitVec 5) := []
  /-- Entries discarded by QDROP: queue and number. -/
  drops    : List (BitVec 5 × Nat) := []
  /-- Shape registers whose swap bit is set. -/
  swaps    : List Nat := []
  nonIdem  : Bool := false
  branch   : Bool := false
  loopEnd  : Bool := false
  suppress : Bool := false
  endsSpan : Bool := false
  /-- A bundle that holds this word is not counted towards the safe-point distance (R89). -/
  uncounted : Bool := false
  safePt   : Bool := false
  segC     : Bool := false
  causes   : State → List Cause := fun _ => []
  stalls   : State → Bool := fun _ => false
  probes   : State → List Nat := fun _ => []
  precise  : State → Option Cause := fun _ => none
  /-- Causes judged again when the bundle's wait ends. -/
  atEnd    : State → List Cause := fun _ => []
  /-- A FABRIC_LOSS or FABRIC_HOLD_TIMEOUT is raised while the word waits (R323). -/
  dueWait  : Bool := false
  /-- A BAR or RDV: its wait is a safe point (R89). -/
  meets    : Bool := false
  begins   : State → State := fun s => s
  waits    : State → Bool := fun _ => false
  /-- Reaching a BAR or RDV, when every other wait of the bundle has ended (R80, R268; log 67). -/
  arrive   : State → State := fun s => s
  /-- Does the stream still wait for the other participants? -/
  parked   : State → Bool := fun _ => false
  ops      : State → List (MemOp × Dst) := fun _ => []
  act      : State → State → State := fun _ s => s
  /-- What the word does after every word of its bundle has acted: END (R100). -/
  ends     : State → State := fun s => s

/-- The slot words whose guard holds. -/
def liveWords (ws : List WordSem) (t : Stream) : List WordSem := ws.filter (fun w => guardHolds w.guard t)

/-- The causes due at the next bundle (rank 1): WATCHDOG, REFRESH_LATE, FABRIC_HOLD_TIMEOUT, FABRIC_LOSS. -/
def dueCauses (t : Stream) : List Cause :=
  let c (code : TrapCode) (addr aux : Nat) : Cause := { rank := 1, slot := 0xFF, code, addr, aux }
  (if t.task.safe < t.sc.safeCount + 1 then [c .watchdog 0 t.task.safe] else []) ++
  (match t.refreshDue with | some (sl, g) => [c .refreshLate 0 (sl + 4 * g)] | none => []) ++
  (match t.holdTmo with | some p => [c .fabricHoldTimeout 0 p] | none => []) ++
  (match t.losses with
   | (src, cls, tag, seq) :: _ => [c .fabricLoss seq (src + cls * 2 ^ 16 + tag * 2 ^ 32)]
   | [] => [])

/-- The due causes of a bundle: one that is not counted raises no WATCHDOG (R89). -/
def dueAt (live : List WordSem) (t : Stream) : List Cause :=
  (dueCauses t).filter (fun c => !(c.code == .watchdog && live.any (·.uncounted)))

/-- The causes raised at a bundle that waits, in the cycle they become due (R323). -/
def fabricDue (t : Stream) : List Cause :=
  (dueCauses { t with refreshDue := none }).filter (fun c => c.code == .fabricHoldTimeout || c.code == .fabricLoss)

/-- The bundle composition causes (rank 5): a non-idempotent word outside a commit bundle (R48), a branch, LOOP or END in
a delay bundle (R83), a branch in a loop body (R86). -/
def compositionCauses (live : List WordSem) (t : Stream) (hdr : W32) : List Cause :=
  if live.any (fun w => (w.nonIdem && !t.commit) || (t.sc.delay.isSome && (w.branch || w.loopEnd)) ||
      (!t.sc.loops.isEmpty && w.branch)) then
    [{ rank := 5, slot := 0xFF, code := .illegalBundle, aux := hdr.toNat }]
  else []

/-- Entries discarded from a physical queue by the bundle. Two QDROP words of one queue name the same entries, those of the
queue at issue (R119). -/
def dropsOf (live : List WordSem) (t : Stream) (q : Nat) : Nat :=
  ((live.flatMap (·.drops)).filter (fun d => physQ t.sc.rb d.1.toNat == q)).foldl (fun a d => max a d.2) 0

/-- Entries of a queue that stand before those a QDROP of the bundle discards: 1 if the bundle's reads pop it (R119). -/
def popsOf (live : List WordSem) (t : Stream) (q : Nat) : Nat :=
  if (popQueues t (live.flatMap (·.srcs))).contains q then 1 else 0

/-- QUEUE_UNDER of a QDROP: fewer entries stand in the queue or fly to it (R119). -/
def State.dropCauses (s : State) (live : List WordSem) (w : WordSem) : List Cause :=
  let t := s.me
  w.drops.filterMap (fun (d, n) =>
    let q := physQ t.sc.rb d.toNat
    if !t.isMail q && decide ((t.queue q).length + (s.inFlight s.cur q).length < popsOf live t q + n) then
      some { rank := 7, slot := w.slot.idx, code := .queueUnder, aux := q : Cause }
    else none)

/-- A QDROP of a mailbox waits until its entries have landed (R119). -/
def State.dropStalls (s : State) (live : List WordSem) (w : WordSem) : Bool :=
  let t := s.me
  w.drops.any (fun (d, n) =>
    let q := physQ t.sc.rb d.toNat
    t.isMail q && decide ((t.queue q).length < popsOf live t q + n))

/-- Discard the first `n` entries of a queue that is already popped: landed ones now, flying ones when they land (R119). -/
def State.dropQueue (s : State) (q n : Nat) : State :=
  let here := (s.me.queue q).length
  let gone := ((s.inFlight s.cur q).take (n - here)).map (·.2)
  let s := s.modMe (fun t => { t.setQueue q ((t.queue q).drop n) with
    flights := t.flights.map (fun f => if gone.contains f.seq then { f with q := none } else f) })
  { s with accs := s.accs.map (fun a => if a.sid == s.cur && gone.contains a.seq then { a with q := none } else a) }

/-- The QUEUE_OVER causes of a word (R21): landed entries and pushes in flight, less pops and drops, above 4. -/
def State.overCauses (s : State) (live : List WordSem) (w : WordSem) : List Cause :=
  let t := s.me
  w.dsts.filterMap (fun d =>
    let q := physQ t.sc.rb d.toNat
    let fed := decide (24 ≤ q) && (match t.port (q - 24) with | some p => p.kind == .output && !p.closing | none => false)
    let landed := if fed then 0 else (t.queue q).length
    let pushes := ((live.flatMap (·.dsts)).filter (fun e => physQ t.sc.rb e.toNat == q)).length
    if 4 < landed + (s.inFlight s.cur q).length + pushes - popsOf live t q - dropsOf live t q then
      some { rank := 7, slot := w.slot.idx, code := .queueOver, aux := q : Cause }
    else none)

/-- The records of these codes hold the slot word as aux (R341). -/
def holdsWord (c : TrapCode) : Bool :=
  c == .illegalOpcode || c == .illegalSlot || c == .illegalOperand || c == .illegalField || c == .matrixSeq || c == .guard

/-- The causes of ranks 6 to 10 of the live words, and the error that has arrived with data (R339, R356). -/
def State.mainCauses (s : State) (live : List WordSem) : List Cause :=
  live.flatMap (fun w => (w.srcs.flatMap (s.srcCauses w.slot) ++ s.dropCauses live w ++ s.overCauses live w ++
      w.causes s).map (fun c =>
    if holdsWord c.code then { c with aux := w.word } else c)) ++
  live.flatMap (fun w => (w.probes s).filterMap (fun a =>
    if s.peerFails a then
      some { rank := 8, slot := w.slot.idx, code := .domainNotOwned, addr := a,
             aux := (match areaOf a with | .scratch _ b => domDb b | _ => 0) : Cause }
    else none)) ++
  s.me.consumed.toList

/-- The blocks that a port has in flight: those of a fill of the row buffer, or one (R181, R204). -/
def Port.blocks (p : Port) : Nat := match p.kind with | .feed => 16 | _ => 1

/-- The blocks that an item of the SAE touches, or its sync word (R181, R205). -/
def SaeItem.entries : SaeItem → Nat
  | .window ups _ => ((ups.map (fun u => blockOf u.1)).eraseDups).length
  | .flush _ _ => 1

/-- Request entries that the ports and the SAE of a stream hold (R181). -/
def Stream.unitEntries (t : Stream) : Nat :=
  (t.ports.map (fun p => match p.2 with | some q => if q.flying then q.blocks else 0 | none => 0)).sum +
  (if t.sae.flying then (t.sae.items.head?.map SaeItem.entries).getD 0 else 0)

/-- Request entries held: by accesses off the local path, sends that have not read their source, and the blocks that copies,
ports and the SAE have in flight (R181). -/
def State.entries (s : State) : Nat :=
  (s.accs.filter (fun a => a.paths.any (· != .localPath))).length +
  (s.fabric.sent.filter (fun m => !m.read && m.copy.isNone)).length +
  (s.copies.map (fun c => c.flying.length)).sum + s.prim.unitEntries + s.sec.unitEntries

/-- Are `n` request entries free for a unit behind the program (R181)? -/
def State.entriesFree (s : State) (n : Nat) : Bool := decide (s.entries + n ≤ 4096)

/-- Is an item of the stream overdue (R180)? -/
def State.overdue (s : State) (i : Sid) : Bool := s.accs.any (fun a => a.sid == i && a.land != 0 && decide (a.land ≤ s.now))

/-- Does the bridle (R294) or the fabric hold (R312) hold issue in this cycle? -/
def State.held (s : State) : Bool := decide (s.now % 8 < s.power.level) || s.fabric.hold

/-- Has a PUBL or HAND of the stream transitions still to make, which hold the next bundle (R197)? -/
def State.tagging (s : State) (i : Sid) : Bool := s.accs.any (fun a => a.sid == i && !a.done && a.op.isTagOp)

/-- The stalls of a bundle (R381). During a replay every L word is held until its late checks return (R177). A checkpoint that an error has
overtaken holds nothing. Every word that leaves the local path takes a request entry and waits for one, but a SEND, which holds its bundle
for none (DESIGN CHOICE: R181 lets SEND hold an entry and makes L-slot words alone wait; log 99). -/
def State.bundleStalls (s : State) (live : List WordSem) : Bool :=
  let t := s.me
  s.held || decide (s.now < t.waits2) || decide (s.now < t.holdUntil) || s.tagging s.cur || (t.ckptDue.isSome && t.consumed.isNone) ||
  s.overdue s.cur ||
  (t.replay.isSome && s.accs.any (fun a => a.sid == s.cur && !a.done)) || (t.preempt && t.atSafe) ||
  live.any (fun w => w.srcs.any s.srcStalls || s.dropStalls live w || w.stalls s ||
    (decide (4096 ≤ s.entries) && (w.ops s).any (fun o => s.opAfar o.1)))

/-- Raise a cause at the bundle at issue: ranks 1 and pending faults are taken off; a rank 9 cause starts a rewind, and
the third in a segment, or a commit bundle's read of an uncorrectable error, raises UNCORRECTABLE (R88, R339, R356, R358). -/
def State.raise (s : State) (c : Cause) : State :=
  let i := s.cur
  let s := s.modMe (fun t => { t with
    refreshDue := if c.code = .refreshLate then none else t.refreshDue
    holdTmo := if c.code = .fabricHoldTimeout then none else t.holdTmo
    losses := if c.code = .fabricLoss ∧ c.rank = 1 then t.losses.drop 1 else t.losses
    xfault := if c.pending then none else t.xfault })
  if c.rank = 9 then
    if s.me.retries = 2 ∨ (s.me.commit = true ∧ c.code = .uncorrectable) then s.takeTrap i { c with code := .uncorrectable, rank := 10 }
    else s.modMe (fun t => { t with error := some c, consumed := none })
  else if c.code = .fabricLoss ∧ c.rank = 11 then
    -- a kept loss is delivered by the trap of the RECV that matches it (R318)
    let asid := (s.str i).task.asid
    let isIt (l : Nat × Nat × Nat × Nat) : Bool := l.1 + l.2.1 * 2 ^ 16 + l.2.2.1 * 2 ^ 32 == c.aux && l.2.2.2 == c.addr
    let drop (x : Session) : Session := if x.asid = asid then { x with losses := x.losses.eraseP isIt } else x
    ({ s with sessions := s.sessions.map drop } : State).takeTrap i c
  else s.takeTrap i c

/-- Mark the bundle at issue as presented. -/
def State.present (s : State) : State := s.modMe (fun t => { t with presented := true })

/-- The boundary of the loop levels after the bundle at `pc` issues (R85, R86): the new scalar state, and where the level
that goes on sends the stream. -/
def loopBoundary (pc : W64) : List LoopLvl → Scalars → Scalars × Option W64
  | [], c => ({ c with loops := [] }, none)
  | l :: ls, c =>
    if l.last ≠ pc then ({ c with loops := l :: ls }, none)
    else if l.j + 1 = l.iters then loopBoundary pc ls c
    else
      let rb := c.rb + 1
      ({ c with loops := { l with j := l.j + 1 } :: ls, rb,
                preds := setPred c.preds (physP rb 8) (decide (l.j + 1 < l.count)) }, some l.first)

/-- The scalar state after a bundle: rotation, loop boundary, the delay bundle and its target, the safe-point count. -/
def nextScalars (b : Bundle) (wasDelay : Option W64) (jump : Option W64) (fresh : Bool) (c : Scalars) : Scalars :=
  let c := if hdrRot b.hdr then { c with rb := c.rb + 1 } else c
  let (c, back) := if jump.isSome then (c, none) else loopBoundary b.pc c.loops c
  let pc := match wasDelay with
    | some t => t
    | none => (jump.orElse (fun _ => back)).getD b.next
  { c with pc, delay := if wasDelay.isSome then none else c.delay, safeCount := if fresh then 0 else c.safeCount + 1 }

/-- The end of a bundle that has issued. -/
def State.finish (s pre : State) (live : List WordSem) : State :=
  let t0 := pre.me
  let fresh := live.any (fun w => w.endsSpan || w.uncounted)
  let jump := s.jump
  let s := s.modMe (fun t => { t with
    sc := nextScalars pre.bundle t0.sc.delay jump fresh t.sc
    commit := live.any (·.segC)
    atSafe := live.any (fun w => w.safePt && !w.segC) || (t0.commit && t0.safeC)
    safeC := live.any (fun w => w.safePt && w.segC)
    ckptDue := if t0.commit then some s.seq else t.ckptDue
    ord := t.ord + 1
    progress := t.progress + 1
    presented := false
    wait := none
    lateAt := none
    unsampled := false
    resumed := false })
  { s with jump := none }

/-- The late checks of a suppressed word's accesses (R357). -/
def MemOp.checkOnly : MemOp → MemOp
  | .synci a _ => .probe a
  | op => op

/-- One word acts: its accesses are issued, then its other effects. A suppressed word makes its checks and does nothing else; in a commit
bundle they have been made (R177, R357). -/
def State.actWord (pre : State) (s : State) (w : WordSem) : State :=
  let issue (s : State) (ops : List (MemOp × Dst)) : State :=
    ops.foldl (fun s o => s.launchAccess w.slot o.1 o.2 (hdrScope pre.bundle.hdr) pre.me.commit) s
  if w.suppress && decide (0 < s.me.skip) then
    issue (s.modMe (fun t => { t with skip := t.skip - 1 }))
      (if pre.me.commit then [] else (w.ops pre).map (fun o => (o.1.checkOnly, .none)))
  else
    let s := if w.suppress then s.modMe (fun t => { t with worked := t.worked + 1 }) else s
    w.act pre (issue s (w.ops pre))

/-- The bundle acts: pops once per queue and port (R21), QDROPs (R119), swaps (R50), then its words in slot order (R47); an
END ends the tile when they have (R100). -/
def State.actBundle (s : State) (live : List WordSem) : State :=
  let pre := s
  let srcs := live.flatMap (·.srcs)
  let s := (popQueues pre.me srcs).foldl State.popQueue s
  let s := (popPorts srcs).foldl State.popPort s
  let s := ((live.flatMap (·.drops)).map (fun d => physQ pre.me.sc.rb d.1.toNat)).eraseDups.foldl
    (fun s q => s.dropQueue q (dropsOf live pre.me q)) s
  let s := (live.flatMap (·.swaps)).foldl (fun s k => s.modMe (fun t => t.swapShape k)) s
  live.foldl (fun s w => w.ends s) ((live.foldl (State.actWord pre) s).finish pre live)

/-- The late checks that hold a bundle: in a commit bundle those of all its accesses, and always those made precisely at a
word (R177, R318). The cause reported is the lowest of R339. -/
def State.heldChecks (s : State) (live : List WordSem) : Option Cause :=
  pickCause ((if s.me.commit then
      live.flatMap (fun w => (w.ops s).filterMap (fun o => s.lateCheck s.cur w.slot.idx s.me.ord o.1))
    else []) ++ live.filterMap (fun w => w.precise s))

/-- Do the late checks of a commit bundle leave the core, so that they return at a free cycle (R177, R380)? -/
def State.checksAfar (s : State) (live : List WordSem) : Bool :=
  s.me.commit && live.any (fun w => (w.ops s).any (fun o => s.opAfar o.1))

/-- Does the check of an address of a WAITG, WAITR or SIGNAL leave the core (R177, R381)? -/
def State.probesAfar (s : State) (live : List WordSem) : Bool :=
  live.any (fun w => (w.probes s).any (fun a => s.pathOf a != .localPath))

/-- Begin holding the bundle for late checks that return at a free cycle. -/
def State.holdChecks (s : State) : State :=
  (s.drawn).modMe (fun t => { t with lateAt := some (s.now + 1 + Config.performDelay s.free), presented := true })

/-- The hold of a commit bundle for its late checks begins (R177, R381). -/
def State.holdBegins (s : State) (live : List WordSem) : State :=
  if s.checksAfar live then s.holdChecks else s.modMe (fun t => { t with lateAt := none })

/-- Is a commit bundle still held: its checks have not returned, an earlier access that orders one of its words has not
performed, or a push finds its mailbox full (R23, R177, R178)? -/
def State.commitHeld (s : State) (live : List WordSem) : Bool :=
  s.me.commit && (s.me.lateAt.any (fun c => decide (s.now < c)) ||
    live.any (fun w => (w.ops s).any (fun o =>
      s.opBehind s.cur s.seq (hdrScope s.bundle.hdr) o.1 || s.pushWaits o.1)))

/-- The tag transitions of a commit bundle's checked accesses are applied when its checks have returned (R177, R247). -/
def State.tagChecked (s : State) (live : List WordSem) : State :=
  if s.me.commit then
    let t := s.me.task
    live.foldl (fun s' w => (w.ops s).foldl (fun s' o => s'.applyTags t.asid t.gslot t.member o.1.tags) s') s
  else s

/-- Has the stream reached its BAR or RDV? -/
def Stream.arrived (t : Stream) : Bool :=
  match t.wait with
  | some (.bar _) => true
  | some (.rdv _ _) => true
  | some .solo => true
  | some .released => true
  | _ => false

/-- A bundle whose waits have ended, but for other participants of its BAR or RDV: it leaves when they have come. -/
def State.leave (s : State) (live : List WordSem) : State := if live.any (fun w => w.parked s) then s else s.actBundle live

/-- The cause of R323 that a bundle which waits takes in this cycle. -/
def waitDue (live : List WordSem) (t : Stream) : Option Cause :=
  if live.any (·.dueWait) then pickCause (fabricDue t) else none

/-- A bundle that waits, or goes on waiting, as `s'`: it takes a cause of R323 that is due when its wait begins, with no effect. -/
def State.waitOn (s s' : State) (live : List WordSem) : State :=
  match waitDue live s.me with
  | some c => s.raise c
  | none => s'

/-- The waits have ended and the late checks have passed: what stands at their end is raised, else a BAR or RDV is reached, and the bundle
acts when the other participants have come (R80, R91, R202). -/
def State.reach (s : State) (live : List WordSem) : State :=
  match pickCause (live.flatMap (fun w => w.atEnd s)) with
  | some c => s.raise c
  | none =>
    let s2 := live.foldl (fun s w => w.arrive s) (s.tagChecked live)
    if live.any (fun w => w.parked s2) then s.waitOn s2 live else s2.actBundle live

/-- The bundle at issue waits or acts: words that wait begin their wait once, with the hold of a commit bundle; when these have
ended, late checks are judged and the bundle's BAR or RDV is reached (R80, R88, R177, R381). -/
def State.waitOrAct (s : State) (live : List WordSem) : State :=
  let s1 := if s.me.wait.isSome then s
    else (live.foldl (fun s w => w.begins s) (s.present.holdBegins live))
  if s1.me.arrived then s1.leave live
  else if s1.commitHeld live || live.any (fun w => w.waits s1) then
    s1.waitOn (s1.modMe (fun t => { t with wait := some (if live.any (·.meets) then .arriving else .other) })) live
  else match s1.heldChecks live with
    | some c => if c.rank = 9 then s1.takeTrap s1.cur { c with code := .uncorrectable } else s1.raise c
    | none => s1.reach live

/-- Step 3 of R381: the causes of ranks 6 to 10, then the waits and the effects. -/
def State.judge (s : State) (live : List WordSem) : State :=
  match pickCause (s.mainCauses live) with
  | some c => s.raise c
  | none => s.waitOrAct live

/-- The issue of a bundle of the stream at issue, in the order of R381. `early` are causes of ranks 2 to 4 found in fetch, and a stored error
of its packet. A bundle that waits does not issue while an error is pending or an item is overdue, and an error that arrives with data in
its wait is detected there (R180, R356; log 113). -/
def State.issueWith (s : State) (early : List Cause) (ws : List WordSem) : State :=
  let t := s.me
  let live := liveWords ws t
  if t.error.isSome then s
  else if t.wait.isSome then
    match waitDue live t with
    | some c => s.raise c
    | none =>
      if s.held || s.overdue s.cur then s
      else match t.consumed with
        | some c => s.raise c
        | none => s.waitOrAct live
  else
    match (if t.presented then none
           else pickCause (dueAt live t ++ early ++ compositionCauses live t s.bundle.hdr)) with
    | some c => s.raise c
    | none =>
      if s.bundleStalls live then s.present
      else
        match t.replay with
        | some r =>
          if r.ord = t.ord then s.raise r.cause else s.judge live
        | none =>
          if s.probesAfar live then
            match t.lateAt with
            | none => s.holdChecks
            | some c => if s.now < c then s.present else s.judge live
          else s.judge live

/-- The issue of a bundle of decoded words. -/
def State.issueBundle (s : State) (ws : List WordSem) : State := s.issueWith [] ws

/-- The word of an instruction, as a record holds it. -/
def slotWord (i : Instr) : Nat := ((encode i).map (·.toNat)).getD 0

/-- A cause of a word. -/
def mkCause (rank : Nat) (slot : Slot) (code : TrapCode) (addr : Nat := 0) (aux : Nat := 0) : Cause :=
  { rank, slot := slot.idx, code, addr, aux }

/-- A cause that holds under a condition. -/
def causeIf (b : Bool) (c : Cause) : List Cause := if b then [c] else []

/-- One word alone in its bundle. -/
def runWord (w : WordSem) (s : State) : Host.Outcome State Fault Refusal := .next (s.issueBundle [w])

end Sys2Proof.Machine
end

