-- ==== Sys2Proof/Machine/Fetch.lean ====
section
/-! DEFINITION. Sys2Proof/Machine/Fetch.lean: reading packets and bundles from memory, the next bundle in sequence, branch
targets (R51 to R55, R57, R79). -/

namespace Sys2Proof.Machine

/-- A word of a stream's code, where its session's pages put it (R327). -/
def State.codeWord (s : State) (i : Sid) (a : Nat) : W32 := BitVec.ofNat 32 (s.load (s.phys (s.asidOf i) (4 * a)) 4)

/-- The 16 words of the packet that holds word address `a`. -/
def State.packet (s : State) (i : Sid) (a : Nat) : List W32 := (List.range 16).map (fun k => s.codeWord i (a / 16 * 16 + k))

/-- The block that holds the packet at word address `a`, where it is stored with an error: reading it consumes the error (R358). -/
def State.packetBad (s : State) (i : Sid) (a : Nat) : Option Nat :=
  let b := 4 * (a / 16 * 16)
  if s.isBad (s.phys (s.asidOf i) b) then some b else none

/-- The bundle after the one at word address `a` in sequence (R53). -/
def State.seqNext (s : State) (i : Sid) (a : Nat) : Nat :=
  let n := a % 16 + bundleLen (s.codeWord i a)
  if n < 16 ∧ bitAt (s.codeWord i (a / 16 * 16)) n = true then a / 16 * 16 + n else (a / 16 + 1) * 16 + 1

/-- The bundle `n` places after the one at `a`. -/
def State.seqAfter (s : State) (i : Sid) (a : Nat) : Nat → Nat
  | 0 => a
  | n + 1 => s.seqAfter i (s.seqNext i a) n

/-- What fetching at a word address meets: TRANSLATION or PERMISSION (R53, R55). -/
def State.codeFate (s : State) (i : Sid) (a : Nat) : AddrFate :=
  s.addrFate i { dram := true, cxl := true } .x (4 * a)

/-- The causes of a branch to a word address (R55): TRANSLATION, PERMISSION, a stored error in the start map's block (R358), and BAD_TARGET
where its start bit is clear. -/
def State.targetCauses (s : State) (slot : Slot) (a : Nat) : List Cause :=
  match s.codeFate s.cur a with
  | .fine => match s.packetBad s.cur a with
    | some b => [{ mkCause 9 slot .uncorrectable b with sub := 0x61 }]
    | none => causeIf (!(1 ≤ a % 16 && bitAt (s.codeWord s.cur (a / 16 * 16)) (a % 16))) (mkCause 10 slot .badTarget a 0)
  | .bad .translation => [mkCause 8 slot .translation (4 * a) 0]
  | _ => [mkCause 8 slot .permission (4 * a) 0]

/-- The code of an encoding's fate. -/
def decErrCode : DecErr → TrapCode
  | .illegalSlot => .illegalSlot
  | .illegalOpcode => .illegalOpcode
  | .illegalField => .illegalField
  | .illegalOperand => .illegalOperand

/-- The rank 2 to 4 causes of the bundle at word address `pc`. A packet's own faults are raised at the first bundle issued from it (R52). An
entry without a start bit begins no bundle (R51): its BAD_TARGET is raised at the member's first bundle, and no cause is read from the words
there (R278). A packet in a block stored with an error has none but that error (R358). -/
def State.fetchCauses2 (s : State) (i : Sid) (pc : Nat) : List Cause :=
  let c (rank : Nat) (code : TrapCode) (addr aux : Nat) : Cause := { rank, slot := 0xFF, code, addr, aux }
  match s.codeFate i pc with
  | .bad .translation => [c 2 .translation (4 * pc) 0]
  | .fine =>
    let ws := s.packet i pc
    let k := pc % 16
    let h := pword ws k
    let packetBad := !packetOk ws
    let entryBad := !(1 ≤ k && startBit ws k)
    let long := decide (16 < k + bundleLen h)
    let packetCause := if packetBad then [c 2 .illegalBundle 0 (pword ws 0).toNat] else []
    if let some b := s.packetBad i pc then [{ c 9 .uncorrectable b 0 with sub := 0x61 }]
    else if entryBad then packetCause ++ [c 10 .badTarget pc 0]
    else packetCause ++
    (if long then [c 2 .illegalBundle 0 h.toNat] else []) ++
    (if 4 < hdrScope h ∨ bits h 0 8 ≠ 0 then [c 3 .illegalBundle 0 h.toNat] else []) ++
    (if 2 < hdrProfile h then [c 3 .illegalProfile 0 h.toNat] else []) ++
    (if long then [] else (slotWords ws k).filterMap (fun p => match decode p.1 p.2 with
      | .bad e => some { rank := 4, slot := p.1.idx, code := decErrCode e, aux := p.2.toNat : Cause }
      | _ => none))
  | _ => [c 2 .permission (4 * pc) 0]

/-- The instructions of the bundle at word address `pc`, in slot order; none where the packet cannot be read or no bundle
begins. -/
def State.bundleInstrs (s : State) (i : Sid) (pc : Nat) : List Instr :=
  if (s.packetBad i pc).isSome || !(1 ≤ pc % 16 && startBit (s.packet i pc) (pc % 16)) then [] else
  (slotWords (s.packet i pc) (pc % 16)).filterMap (fun p => match decode p.1 p.2 with
    | .instr i => some i
    | _ => none)

end Sys2Proof.Machine
end

