-- ==== Sys2Proof/Machine/Control.lean ====
section
/-! DEFINITION. Sys2Proof/Machine/Control.lean: the words of the control slot (R80 to R104). -/

namespace Sys2Proof.Machine

/-- The target of a relative branch, from the word address of the bundle at issue (R55). A target below word 0 or past the range
of addresses wraps modulo 2^56 (DESIGN CHOICE: the manual states no wrap; log 69). -/
def relTarget (s : State) (off : BitVec 21) : Nat := (s.bundle.pc + off.signExtend 64).toNat % 2 ^ 56

/-- The effect of a taken branch: the next bundle in sequence is its delay bundle (R82). -/
def takeBranch (target : Nat) (s : State) : State := s.modSc (fun c => { c with delay := some (BitVec.ofNat 64 target) })

/-- The return address of a call: the bundle that follows the delay bundle (R82). -/
def retAddr (s : State) : W64 := BitVec.ofNat 64 (s.seqNext s.cur s.bundle.next.toNat)

/-- Push the link stack. -/
def pushLink (pre s : State) : State := s.modSc (fun c => { c with link := retAddr pre :: c.link })

/-- A full link stack (R29). -/
def linkFull (s : State) : List Cause := causeIf (decide (16 ≤ s.me.sc.link.length)) (mkCause 7 .C .linkStack 0 0)

/-- BR (R81, R82). -/
def semBr (o : CB) : WordSem :=
  { slot := .C, word := slotWord (.br o), guard := o.g, branch := true
    causes := fun s => s.targetCauses .C (relTarget s o.off)
    act := fun pre s => takeBranch (relTarget pre o.off) s }

/-- CALL (R81, R82). -/
def semCall (o : CB) : WordSem :=
  { slot := .C, word := slotWord (.call o), guard := o.g, branch := true
    causes := fun s => linkFull s ++ s.targetCauses .C (relTarget s o.off)
    act := fun pre s => takeBranch (relTarget pre o.off) (pushLink pre s) }

/-- The check of a register branch's source, and of its target (R55, R82). -/
def regBranchCauses (a : Src) (s : State) : List Cause :=
  let v := s.read a
  causeIf (v.extractLsb' 56 8 != 0) (mkCause 7 .C .illegalOperand) ++
  (if v.extractLsb' 56 8 = 0 then s.targetCauses .C v.toNat else [])

/-- BRI (R81, R82). -/
def semBri (o : CA) : WordSem :=
  { slot := .C, word := slotWord (.bri o), guard := o.g, srcs := [o.a], branch := true
    causes := regBranchCauses o.a
    act := fun pre s => takeBranch (pre.read o.a).toNat s }

/-- CALLI (R81, R82). -/
def semCalli (o : CA) : WordSem :=
  { slot := .C, word := slotWord (.calli o), guard := o.g, srcs := [o.a], branch := true
    causes := fun s => linkFull s ++ regBranchCauses o.a s
    act := fun pre s => takeBranch (pre.read o.a).toNat (pushLink pre s) }

/-- RET (R81, R82). -/
def semRet (o : FG) : WordSem :=
  { slot := .C, word := slotWord (.ret o), guard := o.g, branch := true
    causes := fun s => match s.me.sc.link with
      | [] => [mkCause 7 .C .linkStack 0 0]
      | t :: _ => s.targetCauses .C t.toNat
    act := fun pre s => takeBranch (pre.me.sc.link.headD 0).toNat (s.modSc (fun c => { c with link := c.link.tail })) }

/-- The last bundle of the body of a LOOP (R84). -/
def loopLast (s : State) (len : Nat) : Nat := s.seqAfter s.cur s.bundle.next.toNat (len - 1)

/-- LOOP (R84 to R86). -/
def semLoop (o : CL) : WordSem :=
  { slot := .C, word := slotWord (.loop o), guard := o.g, srcs := [o.a], loopEnd := true
    causes := fun s =>
      let c := s.read o.a
      causeIf (4 ≤ s.me.sc.loops.length && c != 0) (mkCause 7 .C .linkStack 0 1) ++
      causeIf (c.extractLsb' 32 32 != 0 ||
        (match s.me.sc.loops with
         | l :: _ => decide (l.last.toNat < loopLast s o.len.toNat)
         | [] => false)) (mkCause 7 .C .illegalOperand)
    act := fun pre s =>
      let c := (pre.read o.a).toNat
      let last := loopLast pre o.len.toNat
      if c = 0 then { s with jump := some (BitVec.ofNat 64 (pre.seqNext pre.cur last)) }
      else s.modSc (fun sc =>
        let clr := (List.range (min o.stages.toNat 8 - 1)).foldl (fun p k => setPred p (physP sc.rb (9 + k)) false) sc.preds
        { sc with
          loops := ⟨pre.bundle.next, BitVec.ofNat 64 last, c + o.stages.toNat - 1, 0, c⟩ :: sc.loops
          preds := setPred clr (physP sc.rb 8) true }) }

/-- Does a scalar result of the stream still have to land? -/
def State.scalarsPending (s : State) (i : Sid) : Bool :=
  !(s.str i).flights.isEmpty || s.accs.any (fun a => a.sid == i && a.op.lands &&
    (match a.op with | .tld .. => false | .tlda .. => false | .synci .. => false | _ => true))

/-- Step 1 of R87: every scalar result has landed, every read has passed its checks, every late check has returned, and no error is known
(R356). -/
def State.segReady (s : State) (i : Sid) : Bool :=
  !s.scalarsPending i && !s.accs.any (fun a => a.sid == i && (!a.done || a.err.isSome)) && (s.str i).error.isNone &&
  (s.str i).consumed.isNone

/-- SEG (R87 to R89). The checkpoint is the event SEGMENT_CHECKPOINT. -/
def semSeg (o : CS) : WordSem :=
  { slot := .C, word := slotWord (.seg o), guard := o.g, safePt := o.safe, endsSpan := o.safe, segC := o.commit
    waits := fun s => !s.segReady s.cur
    act := fun _ s => s.modMe (fun t => { t with
      la := [], lb := [], segId := o.id, ckptDue := if o.commit then t.ckptDue else some s.seq }) }

/-- Has the stream at issue an access to perform within a scope, or at fabric scope a message or fabric copy to be written, that a
release of this bundle waits for (R253)? -/
def State.releaseWaits (s : State) (scope : Nat) : Bool :=
  s.accs.any (fun a => a.sid == s.cur && !a.done && a.paths.any (scopeWaits scope)) ||
  (decide (4 ≤ scope) && s.fabricBehind s.cur s.seq)

/-- RDV (R90). The release of its earlier accesses ends before it leaves; a member alone in its gang, and a rendezvous at core
scope, needs no other participant. Its ILLEGAL_OPERAND for device and fabric scope depends on the bundle's header, not on the word,
so it counts at rank 7 and only when the guard holds (R46, R80; DEDUCED, log 70). -/
def semRdv (o : CN) : WordSem :=
  { slot := .C, word := slotWord (.rdv o), guard := o.g, dueWait := true, uncounted := true, meets := true
    causes := fun s => causeIf (!s.me.task.rdv.getLsbD o.n.toNat || decide (3 ≤ hdrScope s.bundle.hdr))
      (mkCause 7 .C .illegalOperand)
    waits := fun s => s.releaseWaits (hdrScope s.bundle.hdr)
    arrive := fun s =>
      if hdrScope s.bundle.hdr = 0 ∨ s.me.task.members.toNat ≤ 1 then
        if s.me.preempt then s.modMe (fun t => { t with wait := some .solo }) else s
      else s.modMe (fun t => { t with wait := some (.rdv o.n.toNat o.id.toNat) })
    parked := fun s => match s.me.wait with
      | some (.rdv ..) => true
      | some .solo => s.me.preempt
      | _ => false }

/-- The barrier of a gang completes: its phase advances, and a wrap starts a sweep that the members wait for (R91, R252). -/
def State.advanceBarrier (s : State) (i : Sid) : State :=
  let t := (s.str i).task
  s.advancePhase t.asid t.gslot.toNat

/-- Is a gang slot of the stream's session being swept? -/
def State.sweeping (s : State) (i : Sid) : Bool :=
  (s.sessionOf i).any (fun x => x.sweeps.any (fun p => p.1 == (s.str i).task.gslot.toNat))

/-- BAR (R91). It orders at the wider of gang scope and the bundle's scope (R80): its earlier accesses perform, and at fabric scope
its messages and fabric copies are written, before the member's arrival counts; a member alone completes its barrier then. -/
def semBar (o : CNB) : WordSem :=
  { slot := .C, word := slotWord (.bar o), guard := o.g, dueWait := true, uncounted := true, meets := true
    waits := fun s => s.releaseWaits (max 2 (hdrScope s.bundle.hdr))
    arrive := fun s =>
      if s.me.task.members.toNat ≤ 1 ∧ ¬ s.me.preempt then
        let s := s.advanceBarrier s.cur
        if s.sweeping s.cur then s.modMe (fun t => { t with wait := some .released }) else s
      else s.modMe (fun t => { t with wait := some (.bar o.n.toNat) })
    parked := fun s => (match s.me.wait with | some (.bar _) => true | _ => false) || s.sweeping s.cur }

/-- Is a domain a bank that the task of the stream at issue does not own (R93)? -/
def State.foreignBank (s : State) (d : Nat) : Bool := decide (7 ≤ d) && !s.ownsBank s.cur (d - 7)

/-- DOMAIN_NOT_OWNED of WAKE and SLEEP: the other stream's domain, or a bank the task does not own (R93, R94). -/
def notOwnedCauses (s : State) (d : Nat) : List Cause :=
  let other := (s.dom d).st != .asleep && (s.dom d).owner != some s.cur
  causeIf (other || s.foreignBank d)
    (mkCause 6 .C .domainNotOwned 0 d)

/-- WAKE (R93). -/
def semWake (o : CD) : WordSem :=
  { slot := .C, word := slotWord (.wake o), guard := o.g, nonIdem := true
    causes := fun s => notOwnedCauses s o.dom.toNat
    act := fun pre s => if (pre.dom o.dom.toNat).st = .asleep then s.queueWake s.cur o.dom.toNat else s }

/-- Does an access touch a bank of this core? -/
def MemOp.touchesBank (op : MemOp) (core bank : Nat) : Bool := op.blocks.any (fun b => areaOf b == .scratch core bank)

/-- The lowest and the highest byte that a port's whole walk can reach. -/
def walkReach (sh : List W64) : Int × Int :=
  let first := (List.range 8).map (fun d => shOrg sh d)
  let last := (List.range 8).map (fun d => (shExt sh d : Int) - 1)
  let pick (f : Int → Int → Int) : Int := (List.range 7).foldl (fun a d =>
    a + f (first.getD (d + 1) 0 * shStride sh (d + 1)) (last.getD (d + 1) 0 * shStride sh (d + 1))) 0
  let w : Int := moveBits (shFmt sh)
  let lo := (shBase sh : Int) + pick min + (first.getD 0 0 * w) / 8
  let hi := (shBase sh : Int) + pick max + ((last.getD 0 0 + 1) * w + 7) / 8
  (lo, hi - 1)

/-- Does a bound port touch the bytes from `lo` up to `hi` (R94, R203, R204)? -/
def Port.meets (p : Port) (lo hi : Nat) : Bool :=
  match p.kind with
  | .feed => (tileBlocks p.shape true).any (fun b => decide (b < hi) && decide (lo < b + 64))
  | _ => walkMeets p.shape lo hi

/-- The sync words that a stream's SAEFs and RECVs have still to update (R206, R207). -/
def Stream.syncsDue (t : Stream) : List Nat :=
  t.sae.subs.filterMap (fun x => match x with | .close (some a) _ => some a | _ => none) ++
  t.sae.items.filterMap (fun x => match x with | .flush a _ => some a | _ => none) ++
  t.recvs.map (·.sync) ++ t.owed.map (·.2.1)

/-- Work in flight on a domain for a SLEEP of stream `i` (R94). -/
def State.domBusy (s : State) (i : Sid) (d : Nat) : Bool :=
  let b (f : Unit → Bool) := s.busy.any (fun x => x.sid == i && f x.unit)
  if d = 0 then b (fun u => match u with | .vw => true | .xv _ => true | _ => false) || s.maskOps.any (fun o => o.sid == i)
  else if d < 5 then b (fun u => match u with | .panel p => domDm p == d | .panelUse p => domDm p == d | _ => false)
  else if d = 5 then b (fun u => match u with | .mword => true | .work _ => true | .panelUse _ => true | _ => false)
  else if d = 6 then
    s.copies.any (fun c => c.sid == i) || (s.str i).ports.any (fun p => p.2.isSome) ||
    !(s.str i).sae.opened.isEmpty || !(s.str i).sae.items.isEmpty || !(s.str i).sae.subs.isEmpty
  else
    let c := s.coreNo.toNat
    let lo := bankBase c (d - 7)
    let hi := lo + 0x2_0000
    let here (a : Nat) : Bool := areaOf a == .scratch c (d - 7)
    s.accs.any (fun a => a.op.touchesBank c (d - 7)) ||
    s.copies.any (fun x => x.sync.any here || copySrcMeets x.src x.levels lo hi || copyDstMeets x.src x.dst x.levels lo hi) ||
    (s.str i).ports.any (fun p => p.2.any (fun q => q.meets lo hi)) ||
    s.prim.syncsDue.any here || s.sec.syncsDue.any here

/-- SLEEP (R94). -/
def semSleep (o : CD) : WordSem :=
  { slot := .C, word := slotWord (.sleep o), guard := o.g, nonIdem := true
    causes := fun s => notOwnedCauses s o.dom.toNat ++
      causeIf (s.domComing o.dom.toNat || (s.domAwake o.dom.toNat && s.domBusy s.cur o.dom.toNat))
        (mkCause 10 .C .domainBusy 0 o.dom.toNat)
    act := fun pre s => if (pre.dom o.dom.toNat).st = .awake then s.sleepDom s.cur o.dom.toNat else s }

/-- The checks of a sync word's or ring entry's address (R95, R96, R176): a scratchpad of a core window. -/
def scratchFates (s : State) (a n : Nat) : List (Nat × AddrFate) := s.fates s.cur { scratch := true } .r a n

/-- The causes of such an address. -/
def scratchCauses (s : State) (slot : Slot) (a align n : Nat) : List Cause :=
  causeIf (a % align != 0) (mkCause 8 slot .align a 0) ++ fateCauses slot (scratchFates s a n)

/-- A stored error that a word consumes in reading a scratchpad at issue (R356, R358). -/
def storedCauses (s : State) (slot : Slot) (a : Nat) : List Cause :=
  causeIf (s.isBad (blockOf a)) { mkCause 9 slot .uncorrectable (blockOf a) with sub := 0x61 }

/-- SYNC_OVERSHOOT (R95). An overshoot during the wait is raised when the wait ends. -/
def overshootCauses (s : State) : List Cause :=
  match s.me.overshoot with
  | some (a, w) => [mkCause 10 .C .syncOvershoot a w.toNat]
  | none => []

/-- WAITG (R95). The stream's earlier local accesses perform before it reads the word (R178). -/
def semWaitg (o : CAB) : WordSem :=
  { slot := .C, word := slotWord (.waitg o), guard := o.g, dueWait := true, srcs := [o.a, o.b]
    stalls := fun s => fateStalls (scratchFates s (s.read o.a).toNat 8)
    probes := fun s => [(s.read o.a).toNat]
    causes := fun s => scratchCauses s .C (s.read o.a).toNat 8 8 ++
      storedCauses s .C (s.read o.a).toNat ++ overshootCauses s
    atEnd := overshootCauses
    waits := fun s =>
      let g := (s.word (s.read o.a).toNat).extractLsb' 48 16
      s.onPath s.cur .localPath || decide (2 ^ 15 ≤ (g - (s.read o.b).extractLsb' 0 16).toNat)
    act := fun _ s => s.modMe (fun t => { t with overshoot := none }) }

/-- The value of WAITR: status, fault code and byte count of the entry (R96). -/
def ringValue (s : State) (a : Nat) : W64 := BitVec.ofNat 64 (s.load (a + 4) 2 + s.load (a + 8) 6 * 2 ^ 16)

/-- WAITR (R96). The stream's earlier local accesses perform before it reads the entry (R178). -/
def semWaitr (o : CDAB) : WordSem :=
  { slot := .C, word := slotWord (.waitr o), guard := o.g, dueWait := true, srcs := [o.a, o.b], dsts := dstPushes o.d
    stalls := fun s => fateStalls (scratchFates s (s.read o.a).toNat 16)
    probes := fun s => [(s.read o.a).toNat]
    causes := fun s => scratchCauses s .C (s.read o.a).toNat 16 16 ++ storedCauses s .C (s.read o.a).toNat
    waits := fun s =>
      let e : BitVec 32 := BitVec.ofNat 32 (s.load (s.read o.a).toNat 4)
      s.onPath s.cur .localPath || decide (2 ^ 31 ≤ (e - (s.read o.b).extractLsb' 0 32).toNat)
    act := fun pre s => s.result .C o.d (ringValue pre (pre.read o.a).toNat) 2 }

/-- SIGNAL (R97). -/
def semSignal (o : CAB) : WordSem :=
  { slot := .C, word := slotWord (.signal o), guard := o.g, srcs := [o.a, o.b], nonIdem := true
    stalls := fun s => fateStalls (scratchFates s (s.read o.a).toNat 16)
    probes := fun s => [(s.read o.a).toNat]
    causes := fun s => causeIf (s.read o.b >>> 7 != 0) (mkCause 7 .C .illegalOperand) ++
      scratchCauses s .C (s.read o.a).toNat 16 16
    ops := fun s => [(.signal (s.read o.a).toNat (s.read o.b).toNat, .none)] }

/-- Where a launch record can be read (R98). -/
def recordFates (s : State) (a : Nat) : List (Nat × AddrFate) :=
  s.fates s.cur { scratch := true, tile := true, dram := true, cxl := true } .r a 64

/-- LAUNCH (R98, R99). -/
def semLaunch (o : CDA) : WordSem :=
  { slot := .C, word := slotWord (.launch o), guard := o.g, srcs := [o.a], dsts := dstPushes o.d, nonIdem := true
    stalls := fun s => fateStalls (recordFates s (s.read o.a).toNat)
    causes := fun s => causeIf ((s.read o.a).toNat % 64 != 0) (mkCause 8 .C .align (s.read o.a).toNat 0) ++
      fateCauses .C (recordFates s (s.read o.a).toNat)
    ops := fun s => [(.launch (s.read o.a).toNat, o.d)] }

/-- TRAP (R101). -/
def semTrap (o : CNT) : WordSem :=
  { slot := .C, word := slotWord (.trap o), guard := o.g
    causes := fun _ => [mkCause 10 .C .software 0 o.imm.toNat] }

/-- Is the tile at issue the last of the member's slice? -/
def Stream.lastTile (t : Stream) : Bool := decide (t.task.tixEnd ≤ t.task.tix + 1)

/-- Close the open window of the SAE behind the updates submitted before (R206). -/
def Stream.closeWindow (p : Place) (t : Stream) : Stream :=
  if t.sae.opened.isEmpty && t.sae.subs.isEmpty then t else { t with sae := { t.sae with subs := t.sae.subs ++ [.close none p] } }

/-- The next tile of the member (R100), after every word of END's bundle has acted: it begins at the record's entry, the coordinate
advances, queues and latches, predicates, rotation, stacks and the segment id start afresh (R373; log 91); its first bundle is a segment
entry (log 12). A predicate that the bundle's other words wrote is cleared with the rest; their scalar results, still in flight, land in
the emptied queues
(DESIGN CHOICE: the manual does not say whether they survive; log 71). -/
def State.nextTile (s : State) : State :=
  s.modMe (fun t => { t with
    task := { t.task with tix := t.task.tix + 1, ended := t.task.ended + 1 }
    la := [], lb := [], segId := 0
    ckptDue := some s.seq
    sc := { t.sc with pc := t.task.entry, delay := none, queues := [], preds := 1, rb := 0, link := [], loops := [] } })

/-- The end of a member's last tile (R100): its domains sleep, its tiles are released, with what its engines had still to land in
them, and it is finished. -/
def State.lastEnd (s : State) : State :=
  let s0 := { s with rowOps := s.rowOps.filter (fun o => o.sid != s.cur), busy := s.busy.filter (fun b => b.sid != s.cur) }
  (s0.sleepAll s.cur).modMe (fun t => { t with
    status := .finished, la := [], lb := []
    task := { t.task with ended := t.task.ended + 1, tiles := 0, banks := 0 }
    sc := { t.sc with queues := [], preds := 1, rb := 0, link := [], loops := [] } })

/-- END (R100). The end of the last tile releases at the wider of device scope and the bundle's scope (R80): at fabric scope it
waits for its messages too. -/
def semEnd (o : FG) : WordSem :=
  { slot := .C, word := slotWord (.endTask o), guard := o.g, loopEnd := true, endsSpan := true
    begins := fun s => if s.me.lastTile then s.modMe (Stream.closeWindow ⟨s.seq, hdrScope s.bundle.hdr⟩) else s
    waits := fun s => s.scalarsPending s.cur ||
      (s.me.lastTile && (s.copies.any (fun c => c.sid == s.cur) || !s.me.sae.items.isEmpty || !s.me.sae.subs.isEmpty ||
        s.accs.any (fun a => a.sid == s.cur) || s.releaseWaits (max 3 (hdrScope s.bundle.hdr))))
    ends := fun s => if s.me.lastTile then s.lastEnd else s.nextTile }

/-- The payload bytes of four rows as one number, row 0 lowest. -/
def groupPayload (s : State) (ks : List Nat) : Nat :=
  ks.foldr (fun k n => (s.row k).payload.toNat + 2 ^ 512 * n) 0

/-- KCHK (R102). -/
def semKchk (o : CK) : WordSem :=
  { slot := .C, word := slotWord (.kchk o), guard := o.g, srcs := [o.a]
    stalls := fun s => s.rowsStall (s.groupKeys o.t.toNat o.grp.toNat 4)
    causes := fun s =>
      let ks := s.groupKeys o.t.toNat o.grp.toNat 4
      s.tileCauses .C [o.t] ++
      causeIf ((s.read o.a).extractLsb' 32 32 != 0) (mkCause 7 .C .illegalOperand) ++
      s.fetchCauses .C ks ++
      causeIf (crc32c 256 (groupPayload s ks) != (s.read o.a).toNat)
        { rank := 9, slot := 0, code := .silentCheck, sub := 0x33 } }

/-! ### Control registers (R36, R103) -/

/-- The value of a control register that a task may read. `ctl.scratchbase` of a task that owns no bank reads the first address past
the banks of a secondary task, and the window's base of a primary one (DESIGN CHOICE: the manual names none; log 72). -/
def State.csr (s : State) (i : Sid) (idx : Nat) : W64 :=
  let t := s.str i
  let k := t.task
  match idx with
  | 0x000 => t.sc.profile.setWidth 64
  | 0x001 => t.sc.vrnd.setWidth 64
  | 0x002 => t.sc.mrnd.setWidth 64
  | 0x003 => t.sc.seed
  | 0x004 => t.sc.step
  | 0x100 => k.member.setWidth 64
  | 0x101 => k.members.setWidth 64
  | 0x102 => k.gslot.setWidth 64
  | 0x103 => (s.phase k.asid k.gslot.toNat).setWidth 64
  | 0x104 => BitVec.ofNat 64 (k.coord 0)
  | 0x105 => BitVec.ofNat 64 (k.coord 1)
  | 0x106 => BitVec.ofNat 64 (k.coord 2)
  | 0x107 => BitVec.ofNat 64 (k.coord 3)
  | 0x108 => BitVec.ofNat 64 (k.coord 4)
  | 0x109 => BitVec.ofNat 64 (k.coord 5)
  | 0x10A => BitVec.ofNat 64 k.tiles
  | 0x10B => BitVec.ofNat 64 (bankBase s.coreNo.toNat (t.banks i).1)
  | 0x10C => s.coreNo.setWidth 64
  | 0x10D => (bit s.halfWidth).setWidth 64
  | 0x10E => BitVec.ofNat 64 (s.fabric.slot + 64 * s.fabric.period)
  | 0x10F => s.fabLate
  | 0x110 => s.cycle
  | 0x111 => k.asid.setWidth 64
  | 0x112 => BitVec.ofNat 64 (s.wakeset i)
  | 0x200 => (bit s.window).setWidth 64
  | 0x201 => (bit s.strict).setWidth 64
  | 0x220 => s.pwrRamp
  | n => if 0x210 ≤ n ∧ n ≤ 0x217 then SMap.get 1 s.fabRates (n - 0x210) else 0

/-- PRIVILEGE of a task's CSRR or CSRW (R36). -/
def privilegeCauses (idx : Nat) : List Cause := causeIf (decide (0x200 ≤ idx)) (mkCause 6 .C .privilege 0 idx)

/-- CSRR (R103). -/
def semCsrr (o : CCR) : WordSem :=
  { slot := .C, word := slotWord (.csrr o), guard := o.g, dsts := dstPushes o.d
    causes := fun _ => privilegeCauses o.idx.toNat
    act := fun pre s => s.result .C o.d (pre.csr pre.cur o.idx.toNat) 2 }

/-- The causes of a value written by CSRW (R36): an excluded value, then a zero-marked bit, in the order of R339. -/
def csrwCauses (idx : Nat) (v : W64) : List Cause :=
  match idx with
  | 0x000 => causeIf (v.toNat % 16 != 1 && v.toNat % 16 != 2) (mkCause 7 .C .illegalOperand) ++
      causeIf (v >>> 4 != 0) (mkCause 7 .C .illegalField)
  | 0x001 => causeIf (decide (5 < v.toNat % 8)) (mkCause 7 .C .illegalOperand) ++
      causeIf (v >>> 3 != 0) (mkCause 7 .C .illegalField)
  | 0x002 => causeIf (decide (5 < v.toNat % 8)) (mkCause 7 .C .illegalOperand) ++
      causeIf (v >>> 3 != 0) (mkCause 7 .C .illegalField)
  | _ => []

/-- Write a task-writable control register (R103). -/
def writeCsr (idx : Nat) (v : W64) (c : Scalars) : Scalars :=
  match idx with
  | 0x000 => { c with profile := v.extractLsb' 0 4 }
  | 0x001 => { c with vrnd := v.extractLsb' 0 3 }
  | 0x002 => { c with mrnd := v.extractLsb' 0 3 }
  | 0x003 => { c with seed := v }
  | 0x004 => { c with step := v }
  | _ => c

/-- CSRW (R103). -/
def semCsrw (o : CCW) : WordSem :=
  { slot := .C, word := slotWord (.csrw o), guard := o.g, srcs := [o.a]
    causes := fun s => privilegeCauses o.idx.toNat ++ csrwCauses o.idx.toNat (s.read o.a)
    act := fun pre s => s.modSc (writeCsr o.idx.toNat (pre.read o.a)) }

/-! ### Meanings: each word alone in its bundle (R45, R381) -/

/-- BR (R82). -/
def execBr (o : CB) (s : State) : Host.Outcome State Fault Refusal := runWord (semBr o) s

/-- CALL (R82). -/
def execCall (o : CB) (s : State) : Host.Outcome State Fault Refusal := runWord (semCall o) s

/-- BRI (R82). -/
def execBri (o : CA) (s : State) : Host.Outcome State Fault Refusal := runWord (semBri o) s

/-- CALLI (R82). -/
def execCalli (o : CA) (s : State) : Host.Outcome State Fault Refusal := runWord (semCalli o) s

/-- RET (R82). -/
def execRet (o : FG) (s : State) : Host.Outcome State Fault Refusal := runWord (semRet o) s

/-- LOOP (R85). -/
def execLoop (o : CL) (s : State) : Host.Outcome State Fault Refusal := runWord (semLoop o) s

/-- SEG (R87). -/
def execSeg (o : CS) (s : State) : Host.Outcome State Fault Refusal := runWord (semSeg o) s

/-- RDV (R90). -/
def execRdv (o : CN) (s : State) : Host.Outcome State Fault Refusal := runWord (semRdv o) s

/-- BAR (R91). -/
def execBar (o : CNB) (s : State) : Host.Outcome State Fault Refusal := runWord (semBar o) s

/-- WAKE (R93). -/
def execWake (o : CD) (s : State) : Host.Outcome State Fault Refusal := runWord (semWake o) s

/-- SLEEP (R94). -/
def execSleep (o : CD) (s : State) : Host.Outcome State Fault Refusal := runWord (semSleep o) s

/-- WAITG (R95). -/
def execWaitg (o : CAB) (s : State) : Host.Outcome State Fault Refusal := runWord (semWaitg o) s

/-- WAITR (R96). -/
def execWaitr (o : CDAB) (s : State) : Host.Outcome State Fault Refusal := runWord (semWaitr o) s

/-- SIGNAL (R97). -/
def execSignal (o : CAB) (s : State) : Host.Outcome State Fault Refusal := runWord (semSignal o) s

/-- LAUNCH (R98). -/
def execLaunch (o : CDA) (s : State) : Host.Outcome State Fault Refusal := runWord (semLaunch o) s

/-- TRAP (R101). -/
def execTrap (o : CNT) (s : State) : Host.Outcome State Fault Refusal := runWord (semTrap o) s

/-- END (R100). -/
def execEnd (o : FG) (s : State) : Host.Outcome State Fault Refusal := runWord (semEnd o) s

/-- KCHK (R102). -/
def execKchk (o : CK) (s : State) : Host.Outcome State Fault Refusal := runWord (semKchk o) s

/-- CSRR (R103). -/
def execCsrr (o : CCR) (s : State) : Host.Outcome State Fault Refusal := runWord (semCsrr o) s

/-- CSRW (R103). -/
def execCsrw (o : CCW) (s : State) : Host.Outcome State Fault Refusal := runWord (semCsrw o) s

end Sys2Proof.Machine
end

