-- ==== Sys2Proof/Machine/Integer.lean ====
section
/-! DEFINITION. Sys2Proof/Machine/Integer.lean: the integer words of the slots I and J (R105 to R121). -/

namespace Sys2Proof.Machine

/-- A result of an integer word: at 64 bits, or at 32 bits with its sign copied up (R107). -/
def atWidth (m : Bool) (f : (w : Nat) → BitVec w → BitVec w → BitVec w) (a b : W64) : W64 :=
  if m then (f 32 (a.setWidth 32) (b.setWidth 32)).signExtend 64 else f 64 a b

/-- A word of format IA with two sources (R109). -/
def iaWord (i : Instr) (o : IA) (f : W64 → W64 → W64) (lat : Nat) : WordSem :=
  { slot := o.slot.slot, word := slotWord i, guard := o.g, srcs := [o.a, o.b], dsts := dstPushes o.d
    act := fun pre s => s.result o.slot.slot o.d (f (pre.read o.a) (pre.read o.b)) lat }

/-- A word of format IA with one source (R109). -/
def ia1Word (i : Instr) (o : IA1) (f : W64 → W64) (lat : Nat) : WordSem :=
  { slot := o.slot.slot, word := slotWord i, guard := o.g, srcs := [o.a], dsts := dstPushes o.d
    act := fun pre s => s.result o.slot.slot o.d (f (pre.read o.a)) lat }

/-- The result of ADD at a width (R109). -/
def opAdd (w : Nat) (a b : BitVec w) : BitVec w := a + b
/-- ADD (R109). -/
def semAdd (o : IA) : WordSem := iaWord (.add o) o (atWidth o.m opAdd) 1

/-- The result of SUB at a width (R109). -/
def opSub (w : Nat) (a b : BitVec w) : BitVec w := a - b
/-- SUB (R109). -/
def semSub (o : IA) : WordSem := iaWord (.sub o) o (atWidth o.m opSub) 1

/-- The result of MUL at a width (R109). -/
def opMul (w : Nat) (a b : BitVec w) : BitVec w := a * b
/-- MUL (R109). -/
def semMul (o : IA) : WordSem := iaWord (.mul o) o (atWidth o.m opMul) 3

/-- The result of MULH at a width (R109). -/
def opMulh (w : Nat) (a b : BitVec w) : BitVec w := BitVec.ofInt w ((a.toInt * b.toInt).fdiv (2 ^ w : Nat))
/-- MULH (R109). -/
def semMulh (o : IA) : WordSem := iaWord (.mulh o) o (atWidth o.m opMulh) 3

/-- The result of MULHN at a width (R109). -/
def opMulhn (w : Nat) (a b : BitVec w) : BitVec w := BitVec.ofNat w (a.toNat * b.toNat / 2 ^ w)
/-- MULHN (R109). -/
def semMulhn (o : IA) : WordSem := iaWord (.mulhn o) o (atWidth o.m opMulhn) 3

/-- The result of DIVS at a width (R110). -/
def opDivs (w : Nat) (a b : BitVec w) : BitVec w := if b = 0 then BitVec.allOnes w else BitVec.ofInt w (a.toInt.tdiv b.toInt)
/-- DIVS (R110). -/
def semDivs (o : IA) : WordSem := iaWord (.divs o) o (atWidth o.m opDivs) 18

/-- The result of DIVN at a width (R110). -/
def opDivn (w : Nat) (a b : BitVec w) : BitVec w := if b = 0 then BitVec.allOnes w else BitVec.ofNat w (a.toNat / b.toNat)
/-- DIVN (R110). -/
def semDivn (o : IA) : WordSem := iaWord (.divn o) o (atWidth o.m opDivn) 18

/-- The result of REMS at a width (R110). -/
def opRems (w : Nat) (a b : BitVec w) : BitVec w := if b = 0 then a else BitVec.ofInt w (a.toInt.tmod b.toInt)
/-- REMS (R110). -/
def semRems (o : IA) : WordSem := iaWord (.rems o) o (atWidth o.m opRems) 18

/-- The result of REMN at a width (R110). -/
def opRemn (w : Nat) (a b : BitVec w) : BitVec w := if b = 0 then a else BitVec.ofNat w (a.toNat % b.toNat)
/-- REMN (R110). -/
def semRemn (o : IA) : WordSem := iaWord (.remn o) o (atWidth o.m opRemn) 18

/-- The result of AND at a width (R109). -/
def opAnd (w : Nat) (a b : BitVec w) : BitVec w := a &&& b
/-- AND (R109). -/
def semAnd (o : IA) : WordSem := iaWord (.and o) o (atWidth o.m opAnd) 1

/-- The result of OR at a width (R109). -/
def opOr (w : Nat) (a b : BitVec w) : BitVec w := a ||| b
/-- OR (R109). -/
def semOr (o : IA) : WordSem := iaWord (.or o) o (atWidth o.m opOr) 1

/-- The result of XOR at a width (R109). -/
def opXor (w : Nat) (a b : BitVec w) : BitVec w := a ^^^ b
/-- XOR (R109). -/
def semXor (o : IA) : WordSem := iaWord (.xor o) o (atWidth o.m opXor) 1

/-- The result of ANDN at a width (R109). -/
def opAndn (w : Nat) (a b : BitVec w) : BitVec w := a &&& ~~~ b
/-- ANDN (R109). -/
def semAndn (o : IA) : WordSem := iaWord (.andn o) o (atWidth o.m opAndn) 1

/-- The result of SHL at a width (R109). -/
def opShl (w : Nat) (a b : BitVec w) : BitVec w := a <<< (b.toNat % w)
/-- SHL (R109). -/
def semShl (o : IA) : WordSem := iaWord (.shl o) o (atWidth o.m opShl) 1

/-- The result of SHRL at a width (R109). -/
def opShrl (w : Nat) (a b : BitVec w) : BitVec w := a >>> (b.toNat % w)
/-- SHRL (R109). -/
def semShrl (o : IA) : WordSem := iaWord (.shrl o) o (atWidth o.m opShrl) 1

/-- The result of SHRA at a width (R109). -/
def opShra (w : Nat) (a b : BitVec w) : BitVec w := a.sshiftRight (b.toNat % w)
/-- SHRA (R109). -/
def semShra (o : IA) : WordSem := iaWord (.shra o) o (atWidth o.m opShra) 1

/-- The result of MINS at a width (R109). -/
def opMins (w : Nat) (a b : BitVec w) : BitVec w := if b.slt a then b else a
/-- MINS (R109). -/
def semMins (o : IA) : WordSem := iaWord (.mins o) o (atWidth o.m opMins) 1

/-- The result of MAXS at a width (R109). -/
def opMaxs (w : Nat) (a b : BitVec w) : BitVec w := if a.slt b then b else a
/-- MAXS (R109). -/
def semMaxs (o : IA) : WordSem := iaWord (.maxs o) o (atWidth o.m opMaxs) 1

/-- The result of MINN at a width (R109). -/
def opMinn (w : Nat) (a b : BitVec w) : BitVec w := if b.ult a then b else a
/-- MINN (R109). -/
def semMinn (o : IA) : WordSem := iaWord (.minn o) o (atWidth o.m opMinn) 1

/-- The result of MAXN at a width (R109). -/
def opMaxn (w : Nat) (a b : BitVec w) : BitVec w := if a.ult b then b else a
/-- MAXN (R109). -/
def semMaxn (o : IA) : WordSem := iaWord (.maxn o) o (atWidth o.m opMaxn) 1

/-- Leading zero bits. -/
def clzGo (x : Nat) : Nat → Nat
  | 0 => 0
  | k + 1 => if x.testBit k then 0 else clzGo x k + 1

/-- One bits among the low `k`. -/
def popGo (x : Nat) : Nat → Nat
  | 0 => 0
  | k + 1 => (x.testBit k).toNat + popGo x k

/-- CLZ (R109). -/
def semClz (o : IA1) : WordSem :=
  ia1Word (.clz o) o (fun a => BitVec.ofNat 64 (if o.m then clzGo a.toNat 32 else clzGo a.toNat 64)) 1

/-- POPC (R109). -/
def semPopc (o : IA1) : WordSem :=
  ia1Word (.popc o) o (fun a => BitVec.ofNat 64 (if o.m then popGo a.toNat 32 else popGo a.toNat 64)) 1

/-- MOV (R109). -/
def semMov (o : IA1) : WordSem := ia1Word (.mov o) o (fun a => if o.m then (a.setWidth 32).signExtend 64 else a) 1

/-- LEA: M selects the scale (R111). -/
def semLea (o : IA) : WordSem := iaWord (.lea o) o (fun a b => a + b * (if o.m then 64 else 8)) 1

/-- Width and position of a bit-field control word (R112). -/
def bfWidth (b : W64) : Nat := (b.extractLsb' 8 7).toNat
def bfPos (b : W64) : Nat := (b.extractLsb' 0 6).toNat

/-- The control word raises ILLEGAL_OPERAND (R112). -/
def bfBad (m : Bool) (b : W64) : Bool :=
  b >>> 15 != 0 || b.extractLsb' 6 2 != 0 || bfWidth b == 0 || decide (64 < bfWidth b) ||
  decide ((if m then 32 else 64) < bfPos b + bfWidth b)

/-- The result of a bit-field word, at 32 bits sign-extended (R112). -/
def bfResult (m : Bool) (x : W64) : W64 := if m then (x.setWidth 32).signExtend 64 else x

/-- BFX (R112). -/
def semBfx (o : IA) : WordSem :=
  { iaWord (.bfx o) o (fun a b => bfResult o.m (BitVec.ofNat 64 (field a.toNat (bfPos b) (bfWidth b)))) 1 with
    causes := fun s => causeIf (bfBad o.m (s.read o.b)) (mkCause 7 o.slot.slot .illegalOperand) }

/-- Bits `[pos + width - 1 : pos]` of a base replaced (R112). -/
def bfInsert (base a b : W64) : W64 :=
  let m := (BitVec.ofNat 64 (2 ^ bfWidth b - 1)) <<< bfPos b
  (base &&& ~~~ m) ||| ((a <<< bfPos b) &&& m)

/-- The own latch a of an integer slot, as a source. -/
def ownLatch (i : ISlot) : Src := .latchA (BitVec.ofNat 3 i.slot.idx)

/-- BFI: its third operand is its own slot's latch a (R112). -/
def semBfi (o : IA) : WordSem :=
  { slot := o.slot.slot, word := slotWord (.bfi o), guard := o.g, srcs := [o.a, o.b, ownLatch o.slot],
    dsts := dstPushes o.d
    causes := fun s => causeIf (bfBad o.m (s.read o.b)) (mkCause 7 o.slot.slot .illegalOperand)
    act := fun pre s => s.result o.slot.slot o.d
      (bfResult o.m (bfInsert (pre.read (ownLatch o.slot)) (pre.read o.a) (pre.read o.b))) 1 }

/-- A word of format IL (R113). -/
def ilWord (i : Instr) (o : IL) (v : W64) : WordSem :=
  { slot := o.slot.slot, word := slotWord i, guard := o.g, dsts := [o.q]
    act := fun _ s => s.result o.slot.slot (.queue o.q) v 1 }

/-- LDI.h0 (R113). -/
def semLdiH0 (o : IL) : WordSem := ilWord (.ldiH0 o) o (o.imm.signExtend 64)
/-- LDI.h1 (R113). -/
def semLdiH1 (o : IL) : WordSem := ilWord (.ldiH1 o) o (o.imm.setWidth 64 <<< 16)
/-- LDI.h2 (R113). -/
def semLdiH2 (o : IL) : WordSem := ilWord (.ldiH2 o) o (o.imm.setWidth 64 <<< 32)
/-- LDI.h3 (R113). -/
def semLdiH3 (o : IL) : WordSem := ilWord (.ldiH3 o) o (o.imm.setWidth 64 <<< 48)

/-- ADDI (R114). -/
def semAddi (o : II) : WordSem :=
  { slot := o.slot.slot, word := slotWord (.addi o), guard := o.g, srcs := [o.a], dsts := [o.q]
    act := fun pre s => s.result o.slot.slot (.queue o.q) (pre.read o.a + o.imm.signExtend 64) 1 }

/-- CMP (R115, R117). -/
def semCmp (o : IC) : WordSem :=
  { slot := o.slot.slot, word := slotWord (.cmp o), guard := o.g, srcs := [o.a, o.b]
    act := fun pre s => s.writePred pre o.pd (cmpCond o.cond (pre.read o.a) (pre.read o.b)) }

/-- PLOG (R116, R117). -/
def semPlog (o : IP) : WordSem :=
  { slot := o.slot.slot, word := slotWord (.plog o), guard := o.g
    act := fun pre s => s.writePred pre o.pd (plogBit o.tt (pre.me.pred o.pa) (pre.me.pred o.pb)) }

/-- The count of QCNT (R118). -/
def queueCount (s : State) (q : BitVec 5) : W64 :=
  let p := physQ s.me.sc.rb q.toNat
  BitVec.ofNat 64 ((s.me.queue p).length % 8 + (s.inFlight s.cur p).length % 8 * 8)

/-- QCNT (R118). -/
def semQcnt (o : IQC) : WordSem :=
  { slot := o.slot.slot, word := slotWord (.qcnt o), guard := o.g, dsts := dstPushes o.d
    act := fun pre s => s.result o.slot.slot o.d (queueCount pre o.q) 1 }

/-- QDROP (R119): its discards are made with the bundle's pops. -/
def semQdrop (o : IQD) : WordSem :=
  { slot := o.slot.slot, word := slotWord (.qdrop o), guard := o.g, drops := [(o.q, o.n.toNat)] }

/-- Does SHPW refuse a value for a field (R121)? -/
def shpBad (f : Nat) (v : W64) : Bool :=
  if f = 0 then v.extractLsb' 56 8 != 0
  else if f = 1 then
    v >>> 16 != 0 || decide (1 < (v.extractLsb' 12 4).toNat) || v.extractLsb' 4 8 == 0 ||
    decide (0x0C < (v.extractLsb' 4 8).toNat) || decide (8 < (v.extractLsb' 0 4).toNat)
  else decide (29 ≤ f) && v != 0

/-- SHPW (R120, R121). -/
def semShpw (o : ISW) : WordSem :=
  { slot := .J, word := slotWord (.shpw o), guard := o.g, srcs := [o.a]
    causes := fun s => causeIf (shpBad o.f.toNat (s.read o.a)) (mkCause 7 .J .illegalField)
    act := fun pre s => s.modSc (fun c =>
      { c with shapes := SMap.set 0 c.shapes (64 * o.sr.toNat + 32 + o.f.toNat) (pre.read o.a) }) }

/-- SHPR (R120). -/
def semShpr (o : ISR) : WordSem :=
  { slot := .J, word := slotWord (.shpr o), guard := o.g, dsts := dstPushes o.d
    act := fun pre s => s.result .J o.d
      (SMap.get 0 pre.me.sc.shapes (64 * o.sr.toNat + (if o.shadow then 32 else 0) + o.f.toNat)) 1 }

/-! ### Meanings: each word alone in its bundle (R45, R381) -/

/-- ADD (R109). -/
def execAdd (o : IA) (s : State) : Host.Outcome State Fault Refusal := runWord (semAdd o) s

/-- SUB (R109). -/
def execSub (o : IA) (s : State) : Host.Outcome State Fault Refusal := runWord (semSub o) s

/-- MUL (R109). -/
def execMul (o : IA) (s : State) : Host.Outcome State Fault Refusal := runWord (semMul o) s

/-- MULH (R109). -/
def execMulh (o : IA) (s : State) : Host.Outcome State Fault Refusal := runWord (semMulh o) s

/-- MULHN (R109). -/
def execMulhn (o : IA) (s : State) : Host.Outcome State Fault Refusal := runWord (semMulhn o) s

/-- DIVS (R110). -/
def execDivs (o : IA) (s : State) : Host.Outcome State Fault Refusal := runWord (semDivs o) s

/-- DIVN (R110). -/
def execDivn (o : IA) (s : State) : Host.Outcome State Fault Refusal := runWord (semDivn o) s

/-- REMS (R110). -/
def execRems (o : IA) (s : State) : Host.Outcome State Fault Refusal := runWord (semRems o) s

/-- REMN (R110). -/
def execRemn (o : IA) (s : State) : Host.Outcome State Fault Refusal := runWord (semRemn o) s

/-- AND (R109). -/
def execAnd (o : IA) (s : State) : Host.Outcome State Fault Refusal := runWord (semAnd o) s

/-- OR (R109). -/
def execOr (o : IA) (s : State) : Host.Outcome State Fault Refusal := runWord (semOr o) s

/-- XOR (R109). -/
def execXor (o : IA) (s : State) : Host.Outcome State Fault Refusal := runWord (semXor o) s

/-- ANDN (R109). -/
def execAndn (o : IA) (s : State) : Host.Outcome State Fault Refusal := runWord (semAndn o) s

/-- SHL (R109). -/
def execShl (o : IA) (s : State) : Host.Outcome State Fault Refusal := runWord (semShl o) s

/-- SHRL (R109). -/
def execShrl (o : IA) (s : State) : Host.Outcome State Fault Refusal := runWord (semShrl o) s

/-- SHRA (R109). -/
def execShra (o : IA) (s : State) : Host.Outcome State Fault Refusal := runWord (semShra o) s

/-- MINS (R109). -/
def execMins (o : IA) (s : State) : Host.Outcome State Fault Refusal := runWord (semMins o) s

/-- MAXS (R109). -/
def execMaxs (o : IA) (s : State) : Host.Outcome State Fault Refusal := runWord (semMaxs o) s

/-- MINN (R109). -/
def execMinn (o : IA) (s : State) : Host.Outcome State Fault Refusal := runWord (semMinn o) s

/-- MAXN (R109). -/
def execMaxn (o : IA) (s : State) : Host.Outcome State Fault Refusal := runWord (semMaxn o) s

/-- CLZ (R109). -/
def execClz (o : IA1) (s : State) : Host.Outcome State Fault Refusal := runWord (semClz o) s

/-- POPC (R109). -/
def execPopc (o : IA1) (s : State) : Host.Outcome State Fault Refusal := runWord (semPopc o) s

/-- BFX (R112). -/
def execBfx (o : IA) (s : State) : Host.Outcome State Fault Refusal := runWord (semBfx o) s

/-- BFI (R112). -/
def execBfi (o : IA) (s : State) : Host.Outcome State Fault Refusal := runWord (semBfi o) s

/-- LEA (R111). -/
def execLea (o : IA) (s : State) : Host.Outcome State Fault Refusal := runWord (semLea o) s

/-- CMP (R115). -/
def execCmp (o : IC) (s : State) : Host.Outcome State Fault Refusal := runWord (semCmp o) s

/-- PLOG (R116). -/
def execPlog (o : IP) (s : State) : Host.Outcome State Fault Refusal := runWord (semPlog o) s

/-- MOV (R109). -/
def execMov (o : IA1) (s : State) : Host.Outcome State Fault Refusal := runWord (semMov o) s

/-- LDI_H0 (R113). -/
def execLdiH0 (o : IL) (s : State) : Host.Outcome State Fault Refusal := runWord (semLdiH0 o) s

/-- LDI_H1 (R113). -/
def execLdiH1 (o : IL) (s : State) : Host.Outcome State Fault Refusal := runWord (semLdiH1 o) s

/-- LDI_H2 (R113). -/
def execLdiH2 (o : IL) (s : State) : Host.Outcome State Fault Refusal := runWord (semLdiH2 o) s

/-- LDI_H3 (R113). -/
def execLdiH3 (o : IL) (s : State) : Host.Outcome State Fault Refusal := runWord (semLdiH3 o) s

/-- ADDI (R114). -/
def execAddi (o : II) (s : State) : Host.Outcome State Fault Refusal := runWord (semAddi o) s

/-- QCNT (R118). -/
def execQcnt (o : IQC) (s : State) : Host.Outcome State Fault Refusal := runWord (semQcnt o) s

/-- QDROP (R119). -/
def execQdrop (o : IQD) (s : State) : Host.Outcome State Fault Refusal := runWord (semQdrop o) s

/-- SHPW (R120). -/
def execShpw (o : ISW) (s : State) : Host.Outcome State Fault Refusal := runWord (semShpw o) s

/-- SHPR (R120). -/
def execShpr (o : ISR) (s : State) : Host.Outcome State Fault Refusal := runWord (semShpr o) s

end Sys2Proof.Machine
end

