-- ==== Sys2Proof/Machine/ScalarFp.lean ====
section
/-! DEFINITION. Sys2Proof/Machine/ScalarFp.lean: the scalar floating-point words of slot J (R122 to R127). -/

namespace Sys2Proof.Machine

/-- Bits above an FP32 value in a source raise ILLEGAL_OPERAND (R122). -/
def notF32 (v : W64) : Bool := v.extractLsb' 32 32 != 0

/-- A word with two FP32 sources (R122). -/
def faWord (i : Instr) (o : FA) (f : XNum → XNum → XNum) (lat : Nat) : WordSem :=
  { slot := .J, word := slotWord i, guard := o.g, srcs := [o.a, o.b], dsts := dstPushes o.d
    causes := fun s => causeIf (notF32 (s.read o.a) || notF32 (s.read o.b)) (mkCause 7 .J .illegalOperand)
    act := fun pre s => s.result .J o.d
      (BitVec.ofNat 64 (toF32 (f (f32 (pre.read o.a).toNat) (f32 (pre.read o.b).toNat)))) lat }

/-- FADD (R122). -/
def semFadd (o : FA) : WordSem := faWord (.fadd o) o XNum.add 4
/-- FSUB (R122). -/
def semFsub (o : FA) : WordSem := faWord (.fsub o) o (fun a b => a.add b.neg) 4
/-- FMUL (R122). -/
def semFmul (o : FA) : WordSem := faWord (.fmul o) o XNum.mul 4
/-- FDIV (R122). -/
def semFdiv (o : FA) : WordSem := faWord (.fdiv o) o XNum.div 14
/-- FMIN (R123). -/
def semFmin (o : FA) : WordSem := faWord (.fmin o) o XNum.min 4
/-- FMAX (R123). -/
def semFmax (o : FA) : WordSem := faWord (.fmax o) o XNum.max 4

/-- FMAC: the addend is l2a (R122, R124). -/
def semFmac (o : FA) : WordSem :=
  { slot := .J, word := slotWord (.fmac o), guard := o.g, srcs := [o.a, o.b, .latchA 2], dsts := dstPushes o.d
    causes := fun s =>
      causeIf (notF32 (s.read o.a) || notF32 (s.read o.b) || notF32 (s.read (.latchA 2))) (mkCause 7 .J .illegalOperand)
    act := fun pre s => s.result .J o.d
      (BitVec.ofNat 64 (toF32 (((f32 (pre.read o.a).toNat).mul (f32 (pre.read o.b).toNat)).add
        (f32 (pre.read (.latchA 2)).toNat)))) 4 }

/-- FSQRT (R122). -/
def semFsqrt (o : FA1) : WordSem :=
  { slot := .J, word := slotWord (.fsqrt o), guard := o.g, srcs := [o.a], dsts := dstPushes o.d
    causes := fun s => causeIf (notF32 (s.read o.a)) (mkCause 7 .J .illegalOperand)
    act := fun pre s => s.result .J o.d (BitVec.ofNat 64 (toF32 (f32 (pre.read o.a).toNat).sqrt)) 14 }

/-- FCMP (R125). -/
def semFcmp (o : FC) : WordSem :=
  { slot := .J, word := slotWord (.fcmp o), guard := o.g, srcs := [o.a, o.b]
    causes := fun s => causeIf (notF32 (s.read o.a) || notF32 (s.read o.b)) (mkCause 7 .J .illegalOperand)
    act := fun pre s => s.writePred pre o.pd
      (fcmpCond o.cond ((f32 (pre.read o.a).toNat).cmp (f32 (pre.read o.b).toNat))) }

/-- The source of a kind of FCVT has bits above its value (R126). -/
def fcvtBad (kind : Nat) (v : W64) : Bool :=
  match kind with
  | 0 => false
  | 2 => false
  | 5 => v >>> 16 != 0
  | 7 => v >>> 16 != 0
  | _ => notF32 v

/-- The result of FCVT (R126, R127). -/
def fcvt (kind rnd : Nat) (v : W64) : W64 :=
  match kind with
  | 0 => BitVec.ofNat 64 (roundTo 7 (.ofInt v.toInt) rnd false 0)
  | 1 => BitVec.ofInt 64 (roundInt (-(2 ^ 63)) (2 ^ 63 - 1) (f32 v.toNat) rnd 0)
  | 2 => BitVec.ofNat 64 (roundTo 7 (.ofInt (signedNat 32 v.toNat)) rnd false 0)
  | 3 => BitVec.ofInt 64 (roundInt (-(2 ^ 31)) (2 ^ 31 - 1) (f32 v.toNat) rnd 0)
  | 4 => BitVec.ofNat 64 (roundTo 5 (f32 v.toNat) rnd false 0)
  | 5 => BitVec.ofNat 64 (toF32 (elemValue (mkHdr 5) v.toNat))
  | 6 => BitVec.ofNat 64 (roundTo 6 (f32 v.toNat) rnd false 0)
  | _ => BitVec.ofNat 64 (toF32 (elemValue (mkHdr 6) v.toNat))

/-- FCVT (R126, R127). -/
def semFcvt (o : IF) : WordSem :=
  { slot := .J, word := slotWord (.fcvt o), guard := o.g, srcs := [o.a], dsts := dstPushes o.d
    causes := fun s => causeIf (fcvtBad o.kind.toNat (s.read o.a)) (mkCause 7 .J .illegalOperand)
    act := fun pre s => s.result .J o.d (fcvt o.kind.toNat o.rnd.toNat (pre.read o.a)) 3 }

/-! ### Meanings: each word alone in its bundle (R45, R381) -/

/-- FADD (R122). -/
def execFadd (o : FA) (s : State) : Host.Outcome State Fault Refusal := runWord (semFadd o) s

/-- FSUB (R122). -/
def execFsub (o : FA) (s : State) : Host.Outcome State Fault Refusal := runWord (semFsub o) s

/-- FMUL (R122). -/
def execFmul (o : FA) (s : State) : Host.Outcome State Fault Refusal := runWord (semFmul o) s

/-- FMAC (R124). -/
def execFmac (o : FA) (s : State) : Host.Outcome State Fault Refusal := runWord (semFmac o) s

/-- FDIV (R122). -/
def execFdiv (o : FA) (s : State) : Host.Outcome State Fault Refusal := runWord (semFdiv o) s

/-- FSQRT (R122). -/
def execFsqrt (o : FA1) (s : State) : Host.Outcome State Fault Refusal := runWord (semFsqrt o) s

/-- FMIN (R123). -/
def execFmin (o : FA) (s : State) : Host.Outcome State Fault Refusal := runWord (semFmin o) s

/-- FMAX (R123). -/
def execFmax (o : FA) (s : State) : Host.Outcome State Fault Refusal := runWord (semFmax o) s

/-- FCMP (R125). -/
def execFcmp (o : FC) (s : State) : Host.Outcome State Fault Refusal := runWord (semFcmp o) s

/-- FCVT (R126). -/
def execFcvt (o : IF) (s : State) : Host.Outcome State Fault Refusal := runWord (semFcvt o) s

end Sys2Proof.Machine
end

