-- ==== Sys2Proof/Machine/Transc.lean ====
section
/-! DEFINITION. Sys2Proof/Machine/Transc.lean: the transcendental functions of the W slot, correctly rounded to FP32 by RNE
(R151). A function value that is not rational is stood for by a fixed-point value within 2^-200 of it, relative; that no
rounding boundary of FP32 lies between them for any FP32 operand is UNVERIFIED (log 20). -/

namespace Sys2Proof.Machine

/-- Fraction bits of the fixed-point evaluation. -/
def trBits : Nat := 320
/-- ln 2 and log2 e as fixed-point numbers. -/
def trLn2 : Nat := 0xB17217F7D1CF79ABC9E3B39803F2F6AF40F343267298B62D8A0D175B8BAAFA2BE7B876206DEBAC98
def trLog2e : Nat := 0x171547652B82FE1777D0FFDA0D23A7D11D6AEF551BAD2B4B1164A2CD9A342648FBC3887EEAA2ED9AC

/-- The terms of the exponential series from the k-th on: `n` of them, the k-th being `term`. -/
def expSeries (t : Nat) : Nat → Nat → Nat → Nat
  | 0, _, _ => 0
  | n + 1, k, term => term + expSeries t n (k + 1) ((term * t) >>> trBits / (k + 1))

/-- 2^f for a fixed-point fraction f below 1. -/
def exp2Frac (f : Nat) : Nat := expSeries ((f * trLn2) >>> trBits) 80 0 (2 ^ trBits)

/-- 2^u for a fixed-point u with a sign. -/
def exp2Fixed (u : Int) : XNum :=
  let k := u.fdiv (2 ^ trBits : Nat)
  let f := (u - k * (2 ^ trBits : Nat)).toNat
  (XNum.fin false (exp2Frac f) (2 ^ trBits)).scale k

/-- A ratio as a signed fixed-point number, rounded down. -/
def toFixed (neg : Bool) (n d : Nat) : Int := (if neg then -((n * 2 ^ trBits : Nat) : Int) else (n * 2 ^ trBits : Nat)).fdiv d

/-- 2^x: beyond the range of FP32 it overflows or rounds to zero; an integer power is exact. -/
def trExp2 : XNum → XNum
  | .nan => .nan
  | .inf neg => if neg then .fin false 0 1 else .inf false
  | .fin neg n d =>
    if 200 * d ≤ n then (if neg then .fin false 0 1 else .inf false)
    else if n % d = 0 then (XNum.fin false 1 1).scale (if neg then -((n / d : Nat) : Int) else (n / d : Nat))
    else exp2Fixed (toFixed neg n d)

/-- The series of atanh: `n` terms from exponent `k`, `p` the power of z, `z2` its square. -/
def atanhSeries (z2 : Nat) : Nat → Nat → Nat → Nat
  | 0, _, _ => 0
  | n + 1, k, p => p / k + atanhSeries z2 n (k + 2) ((p * z2) >>> trBits)

/-- log2 x: exact for a power of two. -/
def trLog2 : XNum → XNum
  | .nan => .nan
  | .inf neg => if neg then .nan else .inf false
  | .fin neg n d =>
    if n = 0 then .inf true
    else if neg then .nan
    else
      let e := ratioLog n d
      let nd : Nat × Nat := match e with
        | .ofNat k => (n, d * 2 ^ k)
        | .negSucc k => (n * 2 ^ (k + 1), d)
      if nd.1 = nd.2 then .ofInt e
      else
        let z := (nd.1 - nd.2) * 2 ^ trBits / (nd.1 + nd.2)
        let l := 2 * atanhSeries ((z * z) >>> trBits) 110 1 z
        XNum.add (.ofInt e) (.fin false l trLn2)

/-- 1 / x. -/
def trRcp (x : XNum) : XNum := XNum.div (.fin false 1 1) x

/-- 1 / √x. -/
def trRsq : XNum → XNum
  | .nan => .nan
  | .inf neg => if neg then .nan else .fin false 0 1
  | .fin neg n d => if n = 0 then .inf neg else if neg then .nan else XNum.sqrt (.fin false d n)

/-- e^y of a ratio below 2^8, as a fixed-point number. -/
def expFixed (n d : Nat) : Nat × Nat :=
  match exp2Fixed ((toFixed false n d * trLog2e).fdiv (2 ^ trBits : Nat)) with
  | .fin _ a b => (a, b)
  | _ => (0, 1)

/-- tanh x: just inside x where x is tiny, 1 from 16 on. -/
def trTanh : XNum → XNum
  | .nan => .nan
  | .inf neg => .fin neg 1 1
  | .fin neg n d =>
    if n = 0 then .fin neg 0 1
    else if 16 * d ≤ n then .fin neg 1 1
    else if n * 2 ^ 40 < d then .fin neg (n * (2 ^ 100 - 1)) (d * 2 ^ 100)
    else let (a, b) := expFixed (2 * n) d; .fin neg (a - b) (a + b)

/-- 1 / (1 + e^-x): 1 from 32 on, 0 from -128 down. -/
def trSigm : XNum → XNum
  | .nan => .nan
  | .inf neg => if neg then .fin false 0 1 else .fin false 1 1
  | .fin neg n d =>
    if n = 0 then .fin false 1 2
    else if neg ∧ 128 * d ≤ n then .fin false 0 1
    else if ¬ neg ∧ 32 * d ≤ n then .fin false 1 1
    else let (a, b) := expFixed n d; .fin false (if neg then b else a) (a + b)

end Sys2Proof.Machine
end

