-- ==== Sys2Proof/Machine/Vector.lean ====
section
/-! DEFINITION. Sys2Proof/Machine/Vector.lean: lane classes, tile and mask writes, and the words of the V slot (R128 to
R140). -/

namespace Sys2Proof.Machine

/-! ### Lane classes (R129) -/

/-- The lane classes. -/
inductive LaneClass where
  | F | I | B
  deriving DecidableEq, Repr

/-- Does a class accept a header? -/
def LaneClass.accepts (c : LaneClass) (h : BitVec 16) : Bool :=
  match c with
  | .F => hFmt h == 7 && hSigma h == 0
  | .I => h == 0x7FB0
  | .B => h == 0x7F70 || h == 0x7FB0

/-- The format code a class requires, 0 where it takes two (R341). -/
def LaneClass.code : LaneClass → Nat
  | .F => 7 | .I => 11 | .B => 0

/-- FORMAT of an operand fetch: the header found and the format required (R341). -/
def formatCause (slot : Slot) (h : BitVec 16) (req : Nat) : Cause := mkCause 10 slot .format 0 (h.toNat + req * 2 ^ 16)

/-- The headers of the four rows of a group. -/
def State.heads (s : State) (t g : Nat) : List (BitVec 16) := (s.groupKeys t g 4).map (fun k => (s.row k).h1)

/-- FORMAT of a source group against a class: its first row that the class does not accept. -/
def State.classCauses (s : State) (slot : Slot) (t g : Nat) (c : LaneClass) : List Cause :=
  match (s.heads t g).find? (fun h => !c.accepts h) with
  | some h => [formatCause slot h c.code]
  | none => []

/-- The header of the row of a group that holds a lane. -/
def State.laneHead (s : State) (t g l : Nat) : BitVec 16 := (s.row (s.rowKey s.cur t (4 * g + l / 16))).h1
/-- The stored bits of a lane. -/
def State.laneBits (s : State) (t g l : Nat) : BitVec 32 :=
  BitVec.ofNat 32 (elemAt 32 (s.row (s.rowKey s.cur t (4 * g + l / 16))).payload (l % 16))
/-- The class F value of a lane. -/
def State.laneF (s : State) (t g l : Nat) : XNum := elemValue (s.laneHead t g l) (s.laneBits t g l).toNat

/-- The active lanes of a mask. -/
def lanesOf (m : W64) : List Nat := (List.range 64).filter (fun l => m.getLsbD l)

/-! ### Writes (R130, R131) -/

/-- A write to rows: each with its key, the bits it sets and their values, its header rule, and whether the CRC is
recomputed. One issue number covers the rows of a word. -/
structure RowWrite where
  key  : Nat
  mask : BitVec 512
  bits : BitVec 512
  hdr  : HdrRule
  crc  : Bool
  deriving DecidableEq, Repr

/-- Issue a word's row writes, landing after `lat` cycles. -/
def State.putRows (s : State) (ws : List RowWrite) (lat : Nat) : State :=
  let q := s.seq
  ws.foldl (fun s w => s.addRowOp ⟨s.cur, w.key, w.mask, w.bits, w.hdr, w.crc, true, s.now + lat, q, none, false⟩) s.seqd

/-- The 32-bit fields of the active lanes of row `r` of a group. -/
def rowMask (m : W64) (r : Nat) : BitVec 512 :=
  BitVec.ofNat 512 (packElems 32 ((List.range 16).map (fun j => if m.getLsbD (16 * r + j) then 2 ^ 32 - 1 else 0)))
/-- The results of the active lanes of row `r` of a group. -/
def rowBits (m : W64) (res : Nat → BitVec 32) (r : Nat) : BitVec 512 :=
  BitVec.ofNat 512 (packElems 32 ((List.range 16).map (fun j =>
    if m.getLsbD (16 * r + j) then (res (16 * r + j)).toNat else 0)))

/-- Write the active lanes of a group (R131): a row with none of them keeps everything but is pending. -/
def State.putGroup (s : State) (t g : Nat) (m : W64) (res : Nat → BitVec 32) (hdr : Nat → HdrRule) (lat : Nat) : State :=
  s.putRows ((List.range 4).map (fun r =>
    let any := rowMask m r != 0
    { key := s.rowKey s.cur t (4 * g + r), mask := rowMask m r, bits := rowBits m res r,
      hdr := if any then hdr r else .keep, crc := any })) lat

/-- Write a mask when it lands. -/
def State.putMask (s : State) (m : Nat) (v : W64) (lat : Nat) : State :=
  let o : MaskOp := ⟨s.cur, m, v, s.now + lat, s.seq⟩
  { s.seqd with maskOps := s.maskOps ++ [o] }

/-- Mark a unit busy until a word's landing. -/
def State.markBusy (s : State) (u : Unit) (lat : Nat) : State := { s with busy := s.busy ++ [⟨s.cur, u, s.now + lat⟩] }

/-! ### What every V and W word shares (R128, R155) -/

/-- Is a domain of this stream queued or waking (R128)? -/
def State.domStall (s : State) (d : Nat) : Bool := s.domComing d && (s.dom d).owner == some s.cur

/-- A V or W word: the tiles it names, those it fetches as sources, the masks it reads. -/
def vecWord (slot : Slot) (i : Instr) (g : Guard) (tiles fetched : List (BitVec 4)) (grp : BitVec 4)
    (masks : List (BitVec 3)) (lat : Nat) (more : State → List Cause) (act : State → State → State) : WordSem :=
  { slot, word := slotWord i, guard := g
    stalls := fun s => s.domStall domDv ||
      s.rowsStall (fetched.flatMap (fun t => s.groupKeys t.toNat grp.toNat 4)) ||
      masks.any (fun m => s.maskStall m.toNat)
    causes := fun s => s.domCauses slot domDv ++ s.tileCauses slot tiles ++
      s.fetchCauses slot (fetched.flatMap (fun t => s.groupKeys t.toNat grp.toNat 4)) ++ more s
    act := fun pre s => act pre (s.markBusy .vw lat) }

/-- FORMAT of source groups, checked when a lane is active (R129). -/
def State.lanesFormat (s : State) (slot : Slot) (g : BitVec 4) (m : BitVec 3) (ts : List (BitVec 4 × LaneClass)) :
    List Cause :=
  if s.mask m.toNat = 0 then [] else ts.flatMap (fun p => s.classCauses slot p.1.toNat g.toNat p.2)

/-- The rounding code of a VT mode field (R132). -/
def vtMode (s : State) (mode : BitVec 2) : Nat :=
  match mode.toNat with
  | 0 => 0
  | 1 => 1
  | 2 => s.me.sc.vrnd.toNat
  | _ => 5

/-- Round a lane of a word to FP32 (R132). -/
def roundLane (s : State) (mode td g l : Nat) (x : XNum) : BitVec 32 :=
  BitVec.ofNat 32 (roundTo 7 x mode false (rssWord s.me.sc.seed s.me.sc.step td (64 * g + l)))

/-! ### Floating lanes (R134 to R136) -/

/-- A VT floating word with two source tiles. -/
def vtFloat (slot : Slot) (i : Instr) (g : Guard) (td ta tb grp : BitVec 4) (m : BitVec 3) (mode : BitVec 2) (lat : Nat)
    (f : Nat → XNum → XNum → XNum) : WordSem :=
  vecWord slot i g [td, ta, tb] [ta, tb] grp [m] lat (fun s => s.lanesFormat slot grp m [(ta, .F), (tb, .F)])
    (fun pre s =>
      let md := vtMode pre mode
      s.putGroup td.toNat grp.toNat (pre.mask m.toNat) (fun l =>
        roundLane pre md td.toNat grp.toNat l
          (f md (pre.laneF ta.toNat grp.toNat l) (pre.laneF tb.toNat grp.toNat l))) (fun _ => .fixed 0x7F70) lat)

/-- A VT floating word with one source tile. -/
def vtFloat1 (slot : Slot) (i : Instr) (g : Guard) (td ta grp : BitVec 4) (m : BitVec 3) (mode : BitVec 2) (lat : Nat)
    (f : XNum → XNum) : WordSem :=
  vecWord slot i g [td, ta] [ta] grp [m] lat (fun s => s.lanesFormat slot grp m [(ta, .F)])
    (fun pre s =>
      let md := vtMode pre mode
      s.putGroup td.toNat grp.toNat (pre.mask m.toNat) (fun l =>
        roundLane pre md td.toNat grp.toNat l (f (pre.laneF ta.toNat grp.toNat l))) (fun _ => .fixed 0x7F70) lat)

/-- VADD (R134, R135). -/
def semVadd (o : VT) : WordSem := vtFloat .V (.vadd o) o.g o.td o.ta o.tb o.grp o.mask o.mode 4 XNum.addMode
/-- VSUB (R134, R135). -/
def semVsub (o : VT) : WordSem :=
  vtFloat .V (.vsub o) o.g o.td o.ta o.tb o.grp o.mask o.mode 4 (fun md a b => a.addMode md b.neg)
/-- VMUL (R134). -/
def semVmul (o : VT) : WordSem := vtFloat .V (.vmul o) o.g o.td o.ta o.tb o.grp o.mask o.mode 4 (fun _ a b => a.mul b)
/-- VDIV (R134). -/
def semVdiv (o : VT) : WordSem := vtFloat .V (.vdiv o) o.g o.td o.ta o.tb o.grp o.mask o.mode 14 (fun _ a b => a.div b)
/-- VMIN (R134). -/
def semVmin (o : VT0) : WordSem := vtFloat .V (.vmin o) o.g o.td o.ta o.tb o.grp o.mask 0 4 (fun _ a b => a.min b)
/-- VMAX (R134). -/
def semVmax (o : VT0) : WordSem := vtFloat .V (.vmax o) o.g o.td o.ta o.tb o.grp o.mask 0 4 (fun _ a b => a.max b)
/-- VABS (R134). -/
def semVabs (o : VT1) : WordSem := vtFloat1 .V (.vabs o) o.g o.td o.ta o.grp o.mask 0 4 XNum.abs
/-- VNEG (R134). -/
def semVneg (o : VT1) : WordSem := vtFloat1 .V (.vneg o) o.g o.td o.ta o.grp o.mask 0 4 XNum.neg
/-- VSQRT (R134). -/
def semVsqrt (o : VTM) : WordSem := vtFloat1 .V (.vsqrt o) o.g o.td o.ta o.grp o.mask o.mode 14 XNum.sqrt

/-- VFMA: the destination group is also a source (R134). -/
def semVfma (o : VT) : WordSem :=
  vecWord .V (.vfma o) o.g [o.td, o.ta, o.tb] [o.ta, o.tb, o.td] o.grp [o.mask] 4
    (fun s => s.lanesFormat .V o.grp o.mask [(o.ta, .F), (o.tb, .F), (o.td, .F)])
    (fun pre s =>
      let md := vtMode pre o.mode
      let g := o.grp.toNat
      s.putGroup o.td.toNat g (pre.mask o.mask.toNat) (fun l =>
        roundLane pre md o.td.toNat g l (((pre.laneF o.ta.toNat g l).mul (pre.laneF o.tb.toNat g l)).addMode md
          (pre.laneF o.td.toNat g l))) (fun _ => .fixed 0x7F70) 4)

/-- A VS floating word: each active lane with one FP32 scalar, rounded by `vctl.rnd` (R136). -/
def vsFloat (i : Instr) (o : VS) (useD : Bool) (f : Nat → XNum → XNum → XNum → XNum) : WordSem :=
  { vecWord .V i o.g [o.td, o.ta] (if useD then [o.ta, o.td] else [o.ta]) o.grp [o.mask.setWidth 3] 4
      (fun s => causeIf (notF32 (s.read o.a)) (mkCause 7 .V .illegalOperand) ++
        s.lanesFormat .V o.grp (o.mask.setWidth 3) ((o.ta, .F) :: (if useD then [(o.td, .F)] else [])))
      (fun pre s =>
        let md := pre.me.sc.vrnd.toNat
        let g := o.grp.toNat
        s.putGroup o.td.toNat g (pre.mask o.mask.toNat) (fun l =>
          roundLane pre md o.td.toNat g l (f md (pre.laneF o.ta.toNat g l) (f32 (pre.read o.a).toNat)
            (pre.laneF o.td.toNat g l))) (fun _ => .fixed 0x7F70) 4) with
    srcs := [o.a] }

/-- VADDS (R136). -/
def semVadds (o : VS) : WordSem := vsFloat (.vadds o) o false (fun md a b _ => a.addMode md b)
/-- VMULS (R136). -/
def semVmuls (o : VS) : WordSem := vsFloat (.vmuls o) o false (fun _ a b _ => a.mul b)
/-- VFMAS (R136). -/
def semVfmas (o : VS) : WordSem := vsFloat (.vfmas o) o true (fun md a b d => (a.mul b).addMode md d)

/-! ### Integer and bit lanes (R137) -/

/-- A VT integer word: class I sources, S32 result. -/
def vtInt (i : Instr) (o : VT0) (f : BitVec 32 → BitVec 32 → BitVec 32) : WordSem :=
  vecWord .V i o.g [o.td, o.ta, o.tb] [o.ta, o.tb] o.grp [o.mask] 4
    (fun s => s.lanesFormat .V o.grp o.mask [(o.ta, .I), (o.tb, .I)])
    (fun pre s => s.putGroup o.td.toNat o.grp.toNat (pre.mask o.mask.toNat)
      (fun l => f (pre.laneBits o.ta.toNat o.grp.toNat l) (pre.laneBits o.tb.toNat o.grp.toNat l))
      (fun _ => .fixed 0x7FB0) 4)

/-- A VT bit word: the result keeps a's row header. -/
def vtBit (i : Instr) (o : VT0) (cb : LaneClass) (f : BitVec 16 → BitVec 32 → BitVec 32 → BitVec 32) : WordSem :=
  vecWord .V i o.g [o.td, o.ta, o.tb] [o.ta, o.tb] o.grp [o.mask] 4
    (fun s => s.lanesFormat .V o.grp o.mask [(o.ta, .B), (o.tb, cb)])
    (fun pre s => s.putGroup o.td.toNat o.grp.toNat (pre.mask o.mask.toNat)
      (fun l => f (pre.laneHead o.ta.toNat o.grp.toNat l) (pre.laneBits o.ta.toNat o.grp.toNat l)
        (pre.laneBits o.tb.toNat o.grp.toNat l))
      (fun r => .fixed (pre.laneHead o.ta.toNat o.grp.toNat (16 * r))) 4)

/-- VIADD (R137). -/
def semViadd (o : VT0) : WordSem := vtInt (.viadd o) o (fun a b => a + b)
/-- VISUB (R137). -/
def semVisub (o : VT0) : WordSem := vtInt (.visub o) o (fun a b => a - b)
/-- VIMUL (R137). -/
def semVimul (o : VT0) : WordSem := vtInt (.vimul o) o (fun a b => a * b)
/-- VAND (R137). -/
def semVand (o : VT0) : WordSem := vtBit (.vand o) o .B (fun _ a b => a &&& b)
/-- VOR (R137). -/
def semVor (o : VT0) : WordSem := vtBit (.vor o) o .B (fun _ a b => a ||| b)
/-- VXOR (R137). -/
def semVxor (o : VT0) : WordSem := vtBit (.vxor o) o .B (fun _ a b => a ^^^ b)
/-- VSHL (R137). -/
def semVshl (o : VT0) : WordSem := vtBit (.vshl o) o .I (fun _ a b => a <<< (b.toNat % 32))
/-- VSHR: sign in for S32 rows, zeros in for FP32 rows (R137). -/
def semVshr (o : VT0) : WordSem :=
  vtBit (.vshr o) o .I (fun h a b => if h = 0x7FB0 then a.sshiftRight (b.toNat % 32) else a >>> (b.toNat % 32))

/-! ### Compares, selection and moves (R138 to R140) -/

/-- The class of a group by its rows: F where all are FP32, I where all are S32. -/
def State.groupClass (s : State) (t g : Nat) : Option LaneClass :=
  if (s.heads t g).all LaneClass.F.accepts then some .F
  else if (s.heads t g).all LaneClass.I.accepts then some .I else none

/-- FORMAT of a group of neither class: the first row that is no FP32 or S32 row or differs from row 4g. -/
def State.mixedCauses (s : State) (slot : Slot) (t g : Nat) : List Cause :=
  match s.groupClass t g with
  | some _ => []
  | none =>
    let hs := s.heads t g
    let h0 := hs.headD 0
    match hs.find? (fun h => !(LaneClass.F.accepts h || LaneClass.I.accepts h) || hFmt h != hFmt h0) with
    | some h => [formatCause slot h 0]
    | none => [formatCause slot h0 0]

/-- The condition of a class I compare: that of R115 on 32-bit values (R138). -/
def cmpCond32 (cond : BitVec 3) (a b : BitVec 32) : Bool :=
  match cond.toNat with
  | 0 => a == b
  | 1 => a != b
  | 2 => a.slt b
  | 3 => a.sle b
  | 4 => a.ult b
  | 5 => a.ule b
  | 6 => (a &&& b) != 0
  | _ => (a &&& b) == 0

/-- A mask with a bit for each active lane that meets a condition. -/
def maskWhere (m : W64) (f : Nat → Bool) : W64 :=
  BitVec.ofNat 64 ((lanesOf m).foldl (fun a l => if f l then a + 2 ^ l else a) 0)

/-- VCMP (R138). -/
def semVcmp (o : VC) : WordSem :=
  vecWord .V (.vcmp o) o.g [o.ta, o.tb] [o.ta, o.tb] o.grp [o.mask] 4
    (fun s => if s.mask o.mask.toNat = 0 then [] else
      s.mixedCauses .V o.ta.toNat o.grp.toNat ++
      (match s.groupClass o.ta.toNat o.grp.toNat with
       | some c => s.classCauses .V o.tb.toNat o.grp.toNat c
       | none => []))
    (fun pre s =>
      let g := o.grp.toNat
      let v := match pre.groupClass o.ta.toNat g with
        | some .F => maskWhere (pre.mask o.mask.toNat) (fun l =>
            fcmpCond o.cond ((pre.laneF o.ta.toNat g l).cmp (pre.laneF o.tb.toNat g l)))
        | _ => maskWhere (pre.mask o.mask.toNat) (fun l =>
            cmpCond32 o.cond (pre.laneBits o.ta.toNat g l) (pre.laneBits o.tb.toNat g l))
      s.putMask o.md.toNat v 4)

/-- The scalar of VCMPS has bits above its value (R138). -/
def vcmpsBad (c : Option LaneClass) (v : W64) : Bool :=
  match c with
  | some .F => notF32 v
  | some .I => (v.setWidth 32).signExtend 64 != v
  | _ => false

/-- VCMPS (R138). -/
def semVcmps (o : VCS) : WordSem :=
  { vecWord .V (.vcmps o) o.g [o.ta] [o.ta] o.grp [] 4
      (fun s => causeIf (vcmpsBad (s.groupClass o.ta.toNat o.grp.toNat) (s.read o.a)) (mkCause 7 .V .illegalOperand) ++
        s.mixedCauses .V o.ta.toNat o.grp.toNat)
      (fun pre s =>
        let g := o.grp.toNat
        let v := match pre.groupClass o.ta.toNat g with
          | some .F => maskWhere (pre.mask 0) (fun l =>
              fcmpCond o.cond ((pre.laneF o.ta.toNat g l).cmp (f32 (pre.read o.a).toNat)))
          | _ => maskWhere (pre.mask 0) (fun l =>
              cmpCond32 o.cond (pre.laneBits o.ta.toNat g l) ((pre.read o.a).setWidth 32))
        s.putMask o.md.toNat v 4) with
    srcs := [o.a] }

/-- VSEL: every lane is active, and rows in one position have one header (R139). -/
def semVsel (o : VT0) : WordSem :=
  vecWord .V (.vsel o) o.g [o.td, o.ta, o.tb] [o.ta, o.tb] o.grp [o.mask] 4
    (fun s => s.classCauses .V o.ta.toNat o.grp.toNat .B ++ s.classCauses .V o.tb.toNat o.grp.toNat .B ++
      (match ((s.heads o.ta.toNat o.grp.toNat).zip (s.heads o.tb.toNat o.grp.toNat)).find? (fun p => p.1 != p.2) with
       | some p => [formatCause .V p.2 0]
       | none => []))
    (fun pre s =>
      let g := o.grp.toNat
      s.putGroup o.td.toNat g (BitVec.allOnes 64) (fun l =>
        if (pre.mask o.mask.toNat).getLsbD l then pre.laneBits o.ta.toNat g l else pre.laneBits o.tb.toNat g l)
        (fun r => .fixed (pre.laneHead o.ta.toNat g (16 * r))) 4)

/-- VMOV (R140). -/
def semVmov (o : VT1) : WordSem :=
  vecWord .V (.vmov o) o.g [o.td, o.ta] [o.ta] o.grp [o.mask] 4 (fun s => s.lanesFormat .V o.grp o.mask [(o.ta, .B)])
    (fun pre s => s.putGroup o.td.toNat o.grp.toNat (pre.mask o.mask.toNat)
      (fun l => pre.laneBits o.ta.toNat o.grp.toNat l)
      (fun r => .fixed (pre.laneHead o.ta.toNat o.grp.toNat (16 * r))) 4)

/-- A VS word without a source tile. -/
def vsFill (i : Instr) (o : VS1) (res : W64 → Nat → BitVec 32) (hdr : HdrRule) : WordSem :=
  { vecWord .V i o.g [o.td] [] o.grp [o.mask.setWidth 3] 4 (fun _ => [])
      (fun pre s => s.putGroup o.td.toNat o.grp.toNat (pre.mask o.mask.toNat) (res (pre.read o.a)) (fun _ => hdr) 4) with
    srcs := [o.a] }

/-- VBCST (R140). -/
def semVbcst (o : VS1) : WordSem := vsFill (.vbcst o) o (fun a _ => a.setWidth 32) (.keepOr 0x7F70)
/-- VIOTA (R140). -/
def semViota (o : VS1) : WordSem :=
  vsFill (.viota o) o (fun a l => a.setWidth 32 + BitVec.ofNat 32 l) (.fixed 0x7FB0)

/-! ### Meanings: each word alone in its bundle (R45, R381) -/

/-- VADD (R134). -/
def execVadd (o : VT) (s : State) : Host.Outcome State Fault Refusal := runWord (semVadd o) s

/-- VSUB (R134). -/
def execVsub (o : VT) (s : State) : Host.Outcome State Fault Refusal := runWord (semVsub o) s

/-- VMUL (R134). -/
def execVmul (o : VT) (s : State) : Host.Outcome State Fault Refusal := runWord (semVmul o) s

/-- VFMA (R134). -/
def execVfma (o : VT) (s : State) : Host.Outcome State Fault Refusal := runWord (semVfma o) s

/-- VMIN (R134). -/
def execVmin (o : VT0) (s : State) : Host.Outcome State Fault Refusal := runWord (semVmin o) s

/-- VMAX (R134). -/
def execVmax (o : VT0) (s : State) : Host.Outcome State Fault Refusal := runWord (semVmax o) s

/-- VABS (R134). -/
def execVabs (o : VT1) (s : State) : Host.Outcome State Fault Refusal := runWord (semVabs o) s

/-- VNEG (R134). -/
def execVneg (o : VT1) (s : State) : Host.Outcome State Fault Refusal := runWord (semVneg o) s

/-- VDIV (R134). -/
def execVdiv (o : VT) (s : State) : Host.Outcome State Fault Refusal := runWord (semVdiv o) s

/-- VSQRT (R134). -/
def execVsqrt (o : VTM) (s : State) : Host.Outcome State Fault Refusal := runWord (semVsqrt o) s

/-- VADDS (R136). -/
def execVadds (o : VS) (s : State) : Host.Outcome State Fault Refusal := runWord (semVadds o) s

/-- VMULS (R136). -/
def execVmuls (o : VS) (s : State) : Host.Outcome State Fault Refusal := runWord (semVmuls o) s

/-- VFMAS (R136). -/
def execVfmas (o : VS) (s : State) : Host.Outcome State Fault Refusal := runWord (semVfmas o) s

/-- VIADD (R137). -/
def execViadd (o : VT0) (s : State) : Host.Outcome State Fault Refusal := runWord (semViadd o) s

/-- VISUB (R137). -/
def execVisub (o : VT0) (s : State) : Host.Outcome State Fault Refusal := runWord (semVisub o) s

/-- VIMUL (R137). -/
def execVimul (o : VT0) (s : State) : Host.Outcome State Fault Refusal := runWord (semVimul o) s

/-- VAND (R137). -/
def execVand (o : VT0) (s : State) : Host.Outcome State Fault Refusal := runWord (semVand o) s

/-- VOR (R137). -/
def execVor (o : VT0) (s : State) : Host.Outcome State Fault Refusal := runWord (semVor o) s

/-- VXOR (R137). -/
def execVxor (o : VT0) (s : State) : Host.Outcome State Fault Refusal := runWord (semVxor o) s

/-- VSHL (R137). -/
def execVshl (o : VT0) (s : State) : Host.Outcome State Fault Refusal := runWord (semVshl o) s

/-- VSHR (R137). -/
def execVshr (o : VT0) (s : State) : Host.Outcome State Fault Refusal := runWord (semVshr o) s

/-- VCMP (R138). -/
def execVcmp (o : VC) (s : State) : Host.Outcome State Fault Refusal := runWord (semVcmp o) s

/-- VCMPS (R138). -/
def execVcmps (o : VCS) (s : State) : Host.Outcome State Fault Refusal := runWord (semVcmps o) s

/-- VSEL (R139). -/
def execVsel (o : VT0) (s : State) : Host.Outcome State Fault Refusal := runWord (semVsel o) s

/-- VMOV (R140). -/
def execVmov (o : VT1) (s : State) : Host.Outcome State Fault Refusal := runWord (semVmov o) s

/-- VBCST (R140). -/
def execVbcst (o : VS1) (s : State) : Host.Outcome State Fault Refusal := runWord (semVbcst o) s

/-- VIOTA (R140). -/
def execViota (o : VS1) (s : State) : Host.Outcome State Fault Refusal := runWord (semViota o) s

end Sys2Proof.Machine
end

