-- ==== Sys2Proof/Machine/VectorAux.lean ====
section
/-! DEFINITION. Sys2Proof/Machine/VectorAux.lean: the words of the W slot (R141 to R154). -/

namespace Sys2Proof.Machine

/-! ### Conversion (R141 to R143) -/

/-- Element `l` of a run of elements of `w` bits that begins at row `r0` of a tile: its row header and stored bits. -/
def State.runElem (s : State) (t r0 w l : Nat) : BitVec 16 × Nat :=
  let row := s.row (s.rowKey s.cur t (r0 + l / (512 / w)))
  (row.h1, elemAt w row.payload (l % (512 / w)))

/-- The source element of lane `l` of a widening VCVT: slices of 64 elements follow each other in the group (R141). -/
def widenElem (s : State) (ta g w slice l : Nat) : BitVec 16 × Nat := s.runElem ta (4 * g) w (64 * slice + l)

/-- Is a format one that VCVT widens from? -/
def widenFmt (h : BitVec 16) : Bool := decide (2 ≤ hFmt h) && decide (hFmt h ≤ 11) && hInterp h

/-- The rank 10 causes of a widening VCVT (R141). -/
def widenCauses (s : State) (ta g slice : Nat) : List Cause :=
  let h0 := (s.row (s.rowKey s.cur ta (4 * g))).h1
  if !widenFmt h0 then [formatCause .W h0 0]
  else
    let w := elemBits (hFmt h0)
    if 32 / w ≤ slice then [mkCause 10 .W .illegalField]
    else
      let hs := (List.range 64).map (fun l => (widenElem s ta g w slice l).1)
      match hs.find? (fun h => !hInterp h || hFmt h != hFmt h0) with
      | some h => [formatCause .W h (hFmt h0)]
      | none => []

/-- The rounding code of a VCVT (R142). -/
def vcvtMode (s : State) (sto : Bool) : Nat := if sto then 5 else s.me.sc.vrnd.toNat

/-- The random word of lane `l` of a word whose destination is tile `td`. -/
def laneRandom (s : State) (td g l : Nat) : W64 := rssWord s.me.sc.seed s.me.sc.step td (64 * g + l)

/-- The area of a narrowing: the run of 64 elements of `w` bits of a slice, as row writes (R141, R143). Only these rows of the group
are its destination rows, pending until they land (R131; DEDUCED from R141's table; log 75). -/
def narrowRows (s : State) (td g fmt slice : Nat) (res : Nat → Nat) (nan : Bool) : List RowWrite :=
  let w := elemBits fmt
  let per := 512 / w
  let first := 64 * slice / per
  let n := max (64 / per) 1
  (List.range n).map (fun r =>
    let start := if per ≤ 64 then 0 else 64 * slice % per
    let cnt := min per 64
    let sh := w * start
    let hdr : HdrRule := if fmt ≠ 2 then .fixed (mkHdr fmt)
      else if slice % 2 = 1 then .oddE2M1 nan else .fixed (if nan then 0xFF20 else 0x7F20)
    { key := s.rowKey s.cur td (4 * g + first + r)
      mask := BitVec.ofNat 512 ((2 ^ (w * cnt) - 1) * 2 ^ sh)
      bits := BitVec.ofNat 512 (packElems w ((List.range cnt).map (fun j => res (cnt * r + j))) * 2 ^ sh)
      hdr, crc := true })

/-- VCVT (R141 to R143). -/
def semVcvt (o : WC) : WordSem :=
  let wide := o.fmt = 7 ∨ o.fmt = 11
  let g := o.grp.toNat
  vecWord .W (.vcvt o) o.g [o.td, o.ta] [o.ta] o.grp [] 4
    (fun s => if wide then widenCauses s o.ta.toNat g o.slice.toNat else s.mixedCauses .W o.ta.toNat g)
    (fun pre s =>
      let md := vcvtMode pre o.sto
      if wide then
        let w := elemBits (hFmt (pre.row (pre.rowKey pre.cur o.ta.toNat (4 * g))).h1)
        s.putGroup o.td.toNat g (BitVec.allOnes 64) (fun l =>
          let e := widenElem pre o.ta.toNat g w o.slice.toNat l
          BitVec.ofNat 32 (roundTo o.fmt.toNat (elemValue e.1 e.2) md false (laneRandom pre o.td.toNat g l)))
          (fun _ => .fixed (mkHdr o.fmt.toNat)) 4
      else
        let nan := (List.range 64).any (fun l => pre.laneF o.ta.toNat g l == .nan)
        s.putRows (narrowRows pre o.td.toNat g o.fmt.toNat o.slice.toNat (fun l =>
          roundTo o.fmt.toNat (pre.laneF o.ta.toNat g l) md o.sat (laneRandom pre o.td.toNat g l)) nan) 4)

/-! ### Permutation and lane shift (R144, R145) -/

/-- VPERM (R144). -/
def semVperm (o : VT0) : WordSem :=
  let g := o.grp.toNat
  vecWord .W (.vperm o) o.g [o.td, o.ta, o.tb] [o.ta, o.tb] o.grp [o.mask] 6
    (fun s => if s.mask o.mask.toNat = 0 then [] else
      s.classCauses .W o.ta.toNat g .B ++
      (let hs := s.heads o.ta.toNat g
       match hs.find? (fun h => h != hs.headD 0) with
       | some h => [formatCause .W h 0]
       | none => []) ++
      s.classCauses .W o.tb.toNat g .I)
    (fun pre s => s.putGroup o.td.toNat g (pre.mask o.mask.toNat) (fun l =>
      let i := (pre.laneBits o.tb.toNat g l).toNat
      if i < 64 then pre.laneBits o.ta.toNat g i else 0)
      (fun r => .fixed (pre.laneHead o.ta.toNat g (16 * r))) 6)

/-- VLSH (R145). -/
def semVlsh (o : VS) : WordSem :=
  let g := o.grp.toNat
  { vecWord .W (.vlsh o) o.g [o.td, o.ta] [o.ta] o.grp [o.mask.setWidth 3] 3
      (fun s => s.lanesFormat .W o.grp (o.mask.setWidth 3) [(o.ta, .B)])
      (fun pre s =>
        let k := (pre.read o.a).toInt
        s.putGroup o.td.toNat g (pre.mask o.mask.toNat) (fun l =>
          let j := (l : Int) - k
          if 0 ≤ j ∧ j ≤ 63 then pre.laneBits o.ta.toNat g j.toNat else 0)
          (fun _ => .keepOr (pre.laneHead o.ta.toNat g 0)) 3) with
    srcs := [o.a] }

/-! ### Reductions and the exact dot (R146 to R150) -/

/-- The bundle's profile (R54). -/
def State.profile (s : State) : Nat :=
  if hdrProfile s.bundle.hdr = 0 then s.me.sc.profile.toNat else hdrProfile s.bundle.hdr

/-- The exact sum of values, with R146's special values. -/
def exactSum (ts : List XNum) : XNum :=
  let a := Acc.clear.withFlags ts
  if a.nan ∨ (a.pinf ∧ a.ninf) then .nan
  else if a.pinf then .inf false
  else if a.ninf then .inf true
  else .ofUnits (sumUnits ts) 1200

/-- The lanes of a mask below 32 and from 32 on: the two K-blocks of R147. -/
def kBlocks (m : W64) (f : Nat → XNum) : List (List XNum) :=
  [((lanesOf m).filter (fun l => decide (l < 32))).map f, ((lanesOf m).filter (fun l => decide (32 ≤ l))).map f]

/-- The floating sum of VRDX under a profile (R146, R147). -/
def laneSum (profile : Nat) (m : W64) (f : Nat → XNum) : XNum :=
  if profile = 2 then (Acc.clear.addStep (kBlocks m f)).drainValue else exactSum ((lanesOf m).map f)

/-- The value of VRDX (R146). -/
def vrdxValue (s : State) (o : WR) : W64 :=
  let m := s.mask o.mask.toNat
  let fs := (lanesOf m).map (s.laneF o.ta.toNat o.grp.toNat)
  let is := (lanesOf m).map (fun l => (s.laneBits o.ta.toNat o.grp.toNat l).toInt)
  match o.op.toNat with
  | 0 => BitVec.ofNat 64 (toF32 (laneSum s.profile m (s.laneF o.ta.toNat o.grp.toNat)))
  | 1 => BitVec.ofNat 64 (toF32 (fs.foldl XNum.max (.inf true)))
  | 2 => BitVec.ofNat 64 (toF32 (fs.foldl XNum.min (.inf false)))
  | 3 => BitVec.ofInt 64 (is.foldl (· + ·) 0)
  | 4 => BitVec.ofInt 64 (is.foldl max (-(2 ^ 31)))
  | _ => BitVec.ofInt 64 (is.foldl min (2 ^ 31 - 1))

/-- VRDX (R146, R147). -/
def semVrdx (o : WR) : WordSem :=
  { vecWord .W (.vrdx o) o.g [o.ta] [o.ta] o.grp [o.mask] 10
      (fun s => s.lanesFormat .W o.grp o.mask [(o.ta, if o.op.toNat < 3 then .F else .I)])
      (fun pre s => s.result .W o.d (vrdxValue pre o) 10) with
    dsts := dstPushes o.d }

/-- A vector accumulator. -/
def State.xv (s : State) (i : Nat) : Acc := SMap.get Acc.clear s.xvs i

/-- A vector accumulator as the VDOTs in flight to it will leave it. -/
def State.xvNext (s : State) (i : Nat) : Acc := ((s.xvOps.filter (fun o => o.xv == i)).getLast?.map (·.val)).getD (s.xv i)

/-- Issue a VDOT's result, landing at 8 c (R148). -/
def State.putXv (s : State) (i : Nat) (a : Acc) : State :=
  { s.seqd with xvOps := s.xvOps ++ [⟨s.cur, i, a, s.now + 8, s.seq⟩] }

/-- Write a vector accumulator, journaled (R133). -/
def State.setXv (s : State) (i : Nat) (a : Acc) : State :=
  let s := s.journal s.cur (.xv i (s.xv i))
  { s with xvs := SMap.set Acc.clear s.xvs i a }

/-- The products of a VDOT. -/
def dotTerm (s : State) (o : WD) (l : Nat) : XNum :=
  (s.laneF o.ta.toNat o.grp.toNat l).mul (s.laneF o.tb.toNat o.grp.toNat l)

/-- The accumulator after a VDOT; none where it raises GUARD (R148). It adds to what the VDOTs in flight will leave, since they land
in issue order. -/
def dotResult (s : State) (o : WD) : Option Acc :=
  let m := s.mask o.mask.toNat
  let a := s.xvNext o.xv.toNat
  if s.profile = 2 then some { a.addStep (kBlocks m (dotTerm s o)) with tag := 2 }
  else a.addExact ((lanesOf m).map (dotTerm s o))

/-- PROFILE_MIX of an accumulator (R148, R229). -/
def mixCauses (slot : Slot) (profile : Nat) (tag : BitVec 2) : List Cause :=
  causeIf (tag != 0 && tag.toNat != profile) (mkCause 10 slot .profileMix 0 (profile + tag.toNat * 16))

/-- VDOT (R148). Its tag and its sum are checked against what the VDOTs still in flight to the accumulator will leave (DEDUCED from
their order of landing: the manual does not say; log 74). -/
def semVdot (o : WD) : WordSem :=
  vecWord .W (.vdot o) o.g [o.ta, o.tb] [o.ta, o.tb] o.grp [o.mask] 8
    (fun s => mixCauses .W s.profile (s.xvNext o.xv.toNat).tag ++
      s.lanesFormat .W o.grp o.mask [(o.ta, .F), (o.tb, .F)] ++
      causeIf (dotResult s o).isNone (mkCause 10 .W .guard))
    (fun pre s => match dotResult pre o with
      | some a => (s.putXv o.xv.toNat a).markBusy (.xv o.xv.toNat) 8
      | none => s)

/-- Is a VDOT to an accumulator in flight (R150)? -/
def State.xvBusy (s : State) (i : Nat) : Bool := s.busy.any (fun b => b.unit == .xv i)

/-- VXDRN (R149, R150). -/
def semVxdrn (o : WX) : WordSem :=
  let w := vecWord .W (.vxdrn o) o.g [] [] 0 [] 12 (fun _ => [])
    (fun pre s =>
      let s := s.result .W o.d (BitVec.ofNat 64 (roundTo 7 (pre.xv o.xv.toNat).drainValue o.rnd.toNat false 0)) 12
      if o.clr then s.setXv o.xv.toNat Acc.clear else s)
  { w with dsts := dstPushes o.d, stalls := fun s => w.stalls s || s.xvBusy o.xv.toNat }

/-- VXCLR (R149, R150). -/
def semVxclr (o : WXC) : WordSem :=
  let w := vecWord .W (.vxclr o) o.g [] [] 0 [] 1 (fun _ => []) (fun _ s => s.setXv o.xv.toNat Acc.clear)
  { w with stalls := fun s => w.stalls s || s.xvBusy o.xv.toNat }

/-! ### Transcendental functions (R151) -/

/-- VEXP2 (R151). -/
def semVexp2 (o : VT1) : WordSem := vtFloat1 .W (.vexp2 o) o.g o.td o.ta o.grp o.mask 0 12 trExp2
/-- VLOG2 (R151). -/
def semVlog2 (o : VT1) : WordSem := vtFloat1 .W (.vlog2 o) o.g o.td o.ta o.grp o.mask 0 12 trLog2
/-- VRCP (R151). -/
def semVrcp (o : VT1) : WordSem := vtFloat1 .W (.vrcp o) o.g o.td o.ta o.grp o.mask 0 12 trRcp
/-- VRSQ (R151). -/
def semVrsq (o : VT1) : WordSem := vtFloat1 .W (.vrsq o) o.g o.td o.ta o.grp o.mask 0 12 trRsq
/-- VTANH (R151). -/
def semVtanh (o : VT1) : WordSem := vtFloat1 .W (.vtanh o) o.g o.td o.ta o.grp o.mask 0 12 trTanh
/-- VSIGM (R151). -/
def semVsigm (o : VT1) : WordSem := vtFloat1 .W (.vsigm o) o.g o.td o.ta o.grp o.mask 0 12 trSigm

/-! ### Masks and headers (R152 to R154) -/

/-- VMSK (R152). -/
def semVmsk (o : WM) : WordSem :=
  vecWord .W (.vmsk o) o.g [] [] 0 [o.ma, o.mb] 1 (fun _ => [])
    (fun pre s => s.putMask o.md.toNat (maskWhere (BitVec.allOnes 64) (fun l =>
      plogBit o.tt ((pre.mask o.ma.toNat).getLsbD l) ((pre.mask o.mb.toNat).getLsbD l))) 1)

/-- VMSKQ to a mask (R153). -/
def semVmskqToMask (o : WQT) : WordSem :=
  { vecWord .W (.vmskqToMask o) o.g [] [] 0 [] 1 (fun _ => []) (fun pre s => s.putMask o.k.toNat (pre.read o.a) 1) with
    srcs := [o.a] }

/-- VMSKQ from a mask (R153). -/
def semVmskqFromMask (o : WQF) : WordSem :=
  { vecWord .W (.vmskqFromMask o) o.g [] [] 0 [o.k] 1 (fun _ => [])
      (fun pre s => s.result .W o.d (pre.mask o.k.toNat) 1) with
    dsts := dstPushes o.d }

/-- The headers of a group as one value: row 4g lowest (R154). -/
def headsValue (hs : List (BitVec 16)) : W64 := BitVec.ofNat 64 (packElems 16 (hs.map (·.toNat)))

/-- VHDR, read: only the header copies are checked (R154). -/
def semVhdrRead (o : WHR) : WordSem :=
  { slot := .W, word := slotWord (.vhdrRead o), guard := o.g, dsts := [o.q]
    stalls := fun s => s.domStall domDv || s.rowsStall (s.groupKeys o.t.toNat o.grp.toNat 4)
    causes := fun s => s.domCauses .W domDv ++ s.tileCauses .W [o.t] ++
      causeIf ((s.groupKeys o.t.toNat o.grp.toNat 4).any (fun k => !(s.row k).headersOk))
        { rank := 9, slot := 4, code := .headerMismatch, sub := 0x31 }
    act := fun pre s => (s.markBusy .vw 1).result .W (.queue o.q) (headsValue (pre.heads o.t.toNat o.grp.toNat)) 1 }

/-- The header for row `r` in a value of VHDR. -/
def headOf (v : W64) (r : Nat) : BitVec 16 := v.extractLsb' (16 * r) 16

/-- VHDR, write: neither payload nor CRC changes (R154). -/
def semVhdrWrite (o : WHW) : WordSem :=
  { vecWord .W (.vhdrWrite o) o.g [o.t] [] o.grp [] 1
      (fun s => causeIf ((List.range 4).any (fun r => !hValid (headOf (s.read o.a) r))) (mkCause 7 .W .illegalOperand))
      (fun pre s => s.putRows ((List.range 4).map (fun r =>
        { key := pre.rowKey pre.cur o.t.toNat (4 * o.grp.toNat + r), mask := 0, bits := 0,
          hdr := .fixed (headOf (pre.read o.a) r), crc := false })) 1) with
    srcs := [o.a] }

/-! ### Meanings: each word alone in its bundle (R45, R381) -/

/-- VCVT (R141). -/
def execVcvt (o : WC) (s : State) : Host.Outcome State Fault Refusal := runWord (semVcvt o) s

/-- VPERM (R144). -/
def execVperm (o : VT0) (s : State) : Host.Outcome State Fault Refusal := runWord (semVperm o) s

/-- VLSH (R145). -/
def execVlsh (o : VS) (s : State) : Host.Outcome State Fault Refusal := runWord (semVlsh o) s

/-- VRDX (R146). -/
def execVrdx (o : WR) (s : State) : Host.Outcome State Fault Refusal := runWord (semVrdx o) s

/-- VDOT (R148). -/
def execVdot (o : WD) (s : State) : Host.Outcome State Fault Refusal := runWord (semVdot o) s

/-- VXDRN (R149). -/
def execVxdrn (o : WX) (s : State) : Host.Outcome State Fault Refusal := runWord (semVxdrn o) s

/-- VXCLR (R149). -/
def execVxclr (o : WXC) (s : State) : Host.Outcome State Fault Refusal := runWord (semVxclr o) s

/-- VEXP2 (R151). -/
def execVexp2 (o : VT1) (s : State) : Host.Outcome State Fault Refusal := runWord (semVexp2 o) s

/-- VLOG2 (R151). -/
def execVlog2 (o : VT1) (s : State) : Host.Outcome State Fault Refusal := runWord (semVlog2 o) s

/-- VRCP (R151). -/
def execVrcp (o : VT1) (s : State) : Host.Outcome State Fault Refusal := runWord (semVrcp o) s

/-- VRSQ (R151). -/
def execVrsq (o : VT1) (s : State) : Host.Outcome State Fault Refusal := runWord (semVrsq o) s

/-- VTANH (R151). -/
def execVtanh (o : VT1) (s : State) : Host.Outcome State Fault Refusal := runWord (semVtanh o) s

/-- VSIGM (R151). -/
def execVsigm (o : VT1) (s : State) : Host.Outcome State Fault Refusal := runWord (semVsigm o) s

/-- VMSK (R152). -/
def execVmsk (o : WM) (s : State) : Host.Outcome State Fault Refusal := runWord (semVmsk o) s

/-- VMSKQ_TO_MASK (R153). -/
def execVmskqToMask (o : WQT) (s : State) : Host.Outcome State Fault Refusal := runWord (semVmskqToMask o) s

/-- VMSKQ_FROM_MASK (R153). -/
def execVmskqFromMask (o : WQF) (s : State) : Host.Outcome State Fault Refusal := runWord (semVmskqFromMask o) s

/-- VHDR_READ (R154). -/
def execVhdrRead (o : WHR) (s : State) : Host.Outcome State Fault Refusal := runWord (semVhdrRead o) s

/-- VHDR_WRITE (R154). -/
def execVhdrWrite (o : WHW) (s : State) : Host.Outcome State Fault Refusal := runWord (semVhdrWrite o) s

end Sys2Proof.Machine
end

