-- ==== Sys2Proof/Machine/Matrix.lean ====
section
/-! DEFINITION. Sys2Proof/Machine/Matrix.lean: the words of the matrix slot (R156 to R173). -/

namespace Sys2Proof.Machine

/-! ### Accumulator banks -/

/-- An accumulator of a physical bank, by 64·row + column. -/
def State.acc (s : State) (bank1 : Bool) (n : Nat) : Acc := SMap.get Acc.clear (if bank1 then s.bank1 else s.bank0) n

/-- Write an accumulator, journaled (R87, R172). -/
def State.setAcc (s : State) (bank1 : Bool) (n : Nat) (a : Acc) : State :=
  let s := s.journal s.cur (.acc ((if bank1 then 1024 else 0) + n) (s.acc bank1 n))
  if bank1 then { s with bank1 := SMap.set Acc.clear s.bank1 n a } else { s with bank0 := SMap.set Acc.clear s.bank0 n a }

/-- The accumulators of row group `xg`, by key. -/
def groupAccs (xg : Nat) : List Nat := (List.range 256).map (fun e => 256 * xg + e)

/-- The cycle a writer of a row group lands: after every earlier writer of the group (R164). -/
def State.workDue (s : State) (xg lat : Nat) : Nat :=
  ((s.busy.filter (fun b => b.unit == .work xg)).map (·.due)).foldl max (s.now + lat)

/-- Mark a writer of a working-bank row group. -/
def State.markWork (s : State) (xg lat : Nat) : State :=
  { s with busy := s.busy ++ [⟨s.cur, .work xg, s.workDue xg lat⟩] }

/-- Is a writer of a row group in flight? -/
def State.workBusy (s : State) (xg : Nat) : Bool := s.busy.any (fun b => b.unit == .work xg)

/-! ### What every M word shares (R156) -/

/-- The rank 6 causes of the domains a word uses: DOMAIN_NOT_OWNED before DOMAIN_ASLEEP (R339). -/
def State.domsCauses (s : State) (slot : Slot) (ds : List Nat) : List Cause :=
  let cs := ds.flatMap (s.domCauses slot)
  cs.filter (fun c => c.code == .domainNotOwned) ++ cs.filter (fun c => c.code != .domainNotOwned)

/-- Does MFILL still keep the M engine (R170)? -/
def State.engineHeld (s : State) : Bool :=
  match s.mHold with
  | some (_, b) => decide (s.now ≤ b)
  | none => false

/-- An M word: the domains it uses, the tiles it names, the rows it fetches. -/
def matWord (i : Instr) (g : Guard) (doms : List Nat) (tiles : List (BitVec 4)) (rows : State → List Nat) (lat : Nat)
    (stalls : State → Bool) (more : State → List Cause) (act : State → State → State) : WordSem :=
  { slot := .M, word := slotWord i, guard := g
    stalls := fun s => doms.any s.domStall || s.engineHeld || s.rowsStall (rows s) || stalls s
    causes := fun s => s.domsCauses .M doms ++ s.tileCauses .M tiles ++ s.fetchCauses .M (rows s) ++ more s
    act := fun pre s => act pre (if doms.contains domDxa then s.markBusy .mword lat else s) }

/-- `n` rows of a tile from row `4g` on. -/
def rowsFrom (t g : BitVec 4) (n : Nat) (s : State) : List Nat := s.groupKeys t.toNat g.toNat n

/-! ### Matrix formats, planes and panels (R157 to R160) -/

/-- The planes of an A format; 0 where the format is not a matrix format (R160). -/
def planesOf (fmt : Nat) : Nat :=
  match fmt with
  | 2 => 2 | 3 => 4 | 4 => 4 | 5 => 8 | 8 => 8 | _ => 0

/-- FORMAT of rows that must share one matrix format: the first row with another code or an invalid header. -/
def matFormatCauses (hs : List (BitVec 16)) : List Cause :=
  let f := hFmt (hs.headD 0)
  match hs.find? (fun h => hFmt h != f || planesOf f == 0 || !hInterp h) with
  | some h => [formatCause .M h 0]
  | none => []

/-- Significand and exponent of a finite A element (R160); S8 apart. -/
def significand (h : BitVec 16) (x : Nat) : Nat × Int :=
  if hFmt h = 2 ∧ x = 8 ∧ hSigma h ≠ 0 then
    let k := hSigma h / 2
    if k = 1 then (2, 2) else if k = 2 then (3, 2) else if k = 3 then (2, -3) else (2, 3)
  else match floatFmt (hFmt h) with
    | some f =>
      let c := x % 2 ^ (f.w - 1)
      let e := c / 2 ^ f.m
      if e = 0 then (c, 1 - (f.bias : Int) - f.m) else (2 ^ f.m + c % 2 ^ f.m, (e : Int) - f.bias - f.m)
    | none => (0, 0)

/-- The term of plane `j` of a finite A element (R160). -/
def planeTerm (h : BitVec 16) (x j : Nat) : XNum :=
  if hFmt h = 8 then .fin (decide (j = 7)) (if x.testBit j then 2 ^ j else 0) 1
  else
    let (m, e) := significand h x
    XNum.dyadic (elemValue h x).isNeg (if m.testBit j then 1 else 0) ((j : Int) + e + ((hScale h : Int) - 127))

/-- Is a value finite? -/
def XNum.finite : XNum → Bool
  | .fin .. => true
  | _ => false

/-- What one A element and one B element add in the beat of plane `j` (R161). -/
def macTerm (j : Nat) (ah : BitVec 16) (ax : Nat) (bh : BitVec 16) (bx : Nat) : Option XNum :=
  let a := elemValue ah ax
  let b := elemValue bh bx
  if a.finite && b.finite then some ((planeTerm ah ax j).mul b)
  else if j = 0 then some (a.mul b) else none

/-- Element `k` of lane `i` of a half: its row header and stored bits (R159). -/
def Half.elem (h : Half) (i k : Nat) : BitVec 16 × Nat :=
  let w := elemBits h.fmt
  let (p, hd) := h.rows.getD (4 * i + k / (512 / w)) (0, 0)
  (hd, elemAt w p (k % (512 / w)))

/-- The rows of a panel that hold elements: k index and row. -/
def State.panelRows (s : State) (p : Nat) : List (Nat × PRow) :=
  (s.prows.filter (fun r => decide (512 * p ≤ r.1) && decide (r.1 < 512 * p + 512))).map (fun r => (r.1 - 512 * p, r.2))

/-- Element `n` of a panel row. -/
def PRow.elem (r : PRow) (n : Nat) : Nat := field r.elems.toNat (elemBits (hFmt r.hdr) * n) (elemBits (hFmt r.hdr))

/-- The terms of one accumulator in a beat, each with its k index. -/
def beatTerms (h : Half) (rows : List (Nat × PRow)) (j i n : Nat) : List (Nat × XNum) :=
  rows.filterMap (fun (k, r) =>
    let a := h.elem i k
    (macTerm j a.1 a.2 r.hdr (r.elem n)).map (fun x => (k, x)))

/-- The panel rows an MBLD writes: k index and row (R157, R158). -/
def mbldRows (pos : Nat) (rs : List Row) : List (Nat × PRow) :=
  let f := hFmt ((rs.headD Row.start).h1)
  if f = 2 then
    rs.zipIdx.flatMap (fun (r, i) =>
      [(8 * pos + 2 * i, ⟨(r.payload.extractLsb' 0 256).setWidth 1024, r.h1⟩),
       (8 * pos + 2 * i + 1, ⟨(r.payload.extractLsb' 256 256).setWidth 1024, r.h1⟩)])
  else if f = 5 then
    (List.range 2).map (fun j =>
      let a := rs.getD (2 * j) Row.start
      let b := rs.getD (2 * j + 1) Row.start
      (2 * pos + j, ⟨b.payload ++ a.payload, a.h1⟩))
  else rs.zipIdx.map (fun (r, i) => (4 * pos + i, ⟨r.payload.setWidth 1024, r.h1⟩))

/-- The format of a panel; 0 is NONE. -/
def State.panelFmt (s : State) (p : Nat) : Nat := SMap.get 0 s.pfmts p

/-- Write a panel row, journaled (R172). -/
def State.setPRow (s : State) (k : Nat) (r : PRow) : State :=
  let s := s.journal s.cur (.panelRow k (SMap.get PRow.none s.prows k))
  { s with prows := SMap.set PRow.none s.prows k r }

/-- Give a panel a new format: its rows become NONE (R158). -/
def State.newPanelFmt (s : State) (p f : Nat) : State :=
  let s := (s.panelRows p).foldl (fun s r => s.setPRow (512 * p + r.1) PRow.none) s
  let s := s.journal s.cur (.panelFmt p (s.panelFmt p))
  { s with pfmts := SMap.set 0 s.pfmts p f }

/-- MBLD (R158). -/
def semMbld (o : MB) : WordSem :=
  let p := o.panel.toNat
  let heads (s : State) : List (BitVec 16) := (rowsFrom o.t o.grp 4 s).map (fun k => (s.row k).h1)
  matWord (.mbld o) o.g [domDm p] [o.t] (rowsFrom o.t o.grp 4) 2 (fun _ => false)
    (fun s =>
      let hs := heads s
      matFormatCauses hs ++
      (if hFmt (hs.headD 0) = 5 then
        ([0, 2].filter (fun j => hs.getD j 0 != hs.getD (j + 1) 0)).map (fun j => formatCause .M (hs.getD (j + 1) 0) 0)
       else []))
    (fun pre s =>
      let rs := (rowsFrom o.t o.grp 4 pre).map pre.row
      let f := hFmt ((rs.headD Row.start).h1)
      let s := if s.panelFmt p = f then s else s.newPanelFmt p f
      let s := (mbldRows o.pos.toNat rs).foldl (fun s r => s.setPRow (512 * p + r.1) r.2) s
      s.markBusy (.panel p) 2)

/-- Journal the row buffer before a change (R172). -/
def State.journalRows (s : State) : State := s.journal s.cur (.rowBuf s.active s.shadow s.pass)

/-- Is the row-buffer feed of the stream at issue bound (R204)? -/
def State.feedBound (s : State) : Bool := (s.me.port 7).any (fun p => p.kind == .feed && !p.closing)

/-- MPUSH (R159). -/
def semMpush (o : MT) : WordSem :=
  matWord (.mpush o) o.g [domDxa] [o.t] (rowsFrom o.t o.grp 16) 3 (fun _ => false)
    (fun s => causeIf (s.shadow.st != .empty || s.feedBound) (mkCause 10 .M .matrixSeq) ++
      matFormatCauses ((rowsFrom o.t o.grp 16 s).map (fun k => (s.row k).h1)))
    (fun pre s =>
      let rs := (rowsFrom o.t o.grp 16 pre).map pre.row
      let s := s.journalRows
      { s with shadow := { st := .filling, rows := rs.map (fun r => (r.payload, r.h1)),
                           fmt := hFmt ((rs.headD Row.start).h1), counter := 0, prof := 0, readyAt := s.now + 3, bad := none } })

/-! ### Beats (R161 to R163) -/

/-- Has a half a plane left? -/
def Half.hasPlane (h : Half) : Bool := h.st == .full && decide (h.counter < planesOf h.fmt)

/-- The half of a beat, and whether the beat promotes the shadow half; none is MATRIX_SEQ (R161). -/
def State.beat (s : State) (sBit : Bool) : Option (Bool × Half) :=
  if s.active.hasPlane then some (false, s.active)
  else if sBit && s.shadow.st == .full then some (true, s.shadow)
  else none

/-- Does a beat stall for a filling shadow half (R161)? -/
def State.beatStalls (s : State) (sBit : Bool) : Bool := !s.active.hasPlane && sBit && s.shadow.st == .filling

/-- MATRIX_SEQ of a beat without a plane (R161). -/
def State.beatSeq (s : State) (sBit : Bool) : List Cause := causeIf (s.beat sBit).isNone (mkCause 10 .M .matrixSeq)

/-- What a feed's blocks raise at their promotion (R204). -/
def State.beatBad (s : State) (sBit : Bool) : List Cause :=
  match s.beat sBit with
  | some (true, h) => h.bad.toList.map (fun c => { c with slot := Slot.M.idx })
  | _ => []

/-- The flags of an accumulator as three bits, and back. -/
def Acc.flags (a : Acc) : BitVec 3 := bit a.ninf ++ bit a.pinf ++ bit a.nan
def Acc.orFlags (a : Acc) (f : BitVec 3) : Acc :=
  { a with nan := a.nan || f.getLsbD 0, pinf := a.pinf || f.getLsbD 1, ninf := a.ninf || f.getLsbD 2 }

/-- End an open pass: each accumulator takes its K-blocks in increasing k; they land 6 cycles from now (R163, R233). -/
def State.endPass (s : State) : State :=
  match s.pass with
  | none => s
  | some p =>
    match p.panel with
    | none => { s with pass := none }
    | some (_, xg) =>
      let s := (List.range 256).foldl (fun s e =>
        let a := (s.acc s.work1 (256 * xg + e)).orFlags (SMap.get 0 p.flags e)
        s.setAcc s.work1 (256 * xg + e)
          { (List.range 16).foldl (fun (a : Acc) b => a.addBlock (SMap.get 0 p.sums (16 * e + b))) a with tag := 2 }) s
      { s.markWork xg 6 with pass := none }

/-- Take the plane of a beat: promotion ends an open pass; the counter advances (R161). -/
def State.takePlane (s : State) (promote : Bool) : State :=
  let s := s.journalRows
  let s := if promote then { s.endPass with active := s.shadow, shadow := Half.empty } else s
  { s with active := { s.active with counter := s.active.counter + 1 } }

/-- End the pass when its last plane has been taken (R163). -/
def State.passDone (s : State) : State := if s.active.hasPlane then s else s.endPass

/-- The accumulators a profile-1 beat leaves; none where it raises GUARD (R161, R227). -/
def beatExact (s : State) (h : Half) (panel xg : Nat) : Option (List (Nat × Acc)) :=
  let rows := s.panelRows panel
  (List.range 256).mapM (fun e =>
    ((s.acc s.work1 (256 * xg + e)).addExact ((beatTerms h rows h.counter (e / 64) (e % 64)).map (·.2))).map
      (fun a => (256 * xg + e, a)))

/-- Hold a profile-2 beat's terms in the open pass, by accumulator and K-block (R163, R233). -/
def Pass.hold (p : Pass) (e : Nat) (ts : List (Nat × XNum)) : Pass :=
  let f := (Acc.clear.withFlags (ts.map (·.2))).flags
  { p with
    flags := SMap.set 0 p.flags e (SMap.get 0 p.flags e ||| f)
    sums := ts.foldl (fun m (k, x) =>
      let key := 16 * e + k / 32
      SMap.set 0 m key (SMap.get 0 m key + sumUnits [x])) p.sums }

/-- PROFILE_MIX of a beat: the half's earlier beats, then the tags of the row group (R161). Where the half's earlier beats raise it, the
profile in use that the record names is theirs (DESIGN CHOICE: R341 speaks of a tag; log 108). -/
def beatMix (s : State) (h : Half) (xg p : Nat) : List Cause :=
  if h.prof ≠ 0 ∧ h.prof ≠ p then [mkCause 10 .M .profileMix 0 (p + h.prof * 16)]
  else match (groupAccs xg).find? (fun n => (s.acc s.work1 n).tag != 0 && (s.acc s.work1 n).tag.toNat != p) with
    | some n => [mkCause 10 .M .profileMix 0 (p + (s.acc s.work1 n).tag.toNat * 16)]
    | none => []

/-- The width of a panel's format differs from that of the half (R161). The record names the half's format as the one required and no header
found (DESIGN CHOICE: R161 names neither; log 108). -/
def beatWidth (s : State) (h : Half) (panel : Nat) : List Cause :=
  causeIf (s.panelFmt panel != 0 && elemBits (s.panelFmt panel) != elemBits h.fmt)
    (mkCause 10 .M .format 0 (h.fmt * 2 ^ 16))

/-- MACC (R161, R163). -/
def semMacc (o : MK) : WordSem :=
  let panel := o.panel.toNat
  let xg := o.xg.toNat
  matWord (.macc o) o.g [domDxa, domDm panel] [] (fun _ => []) 6
    (fun s => s.busy.any (fun b => b.unit == .panel panel) || s.beatStalls o.s)
    (fun s => s.beatSeq o.s ++
      (match s.beat o.s with
       | none => []
       | some (promote, h) =>
         let p := s.profile
         causeIf (!promote && p == 2 && (s.pass.bind (·.panel)).any (fun q => q != (panel, xg))) (mkCause 10 .M .matrixSeq) ++
         beatMix s h xg p ++ s.beatBad o.s ++ beatWidth s h panel ++
         causeIf (p != 2 && (beatExact s h panel xg).isNone) (mkCause 10 .M .guard)))
    (fun pre s =>
      match pre.beat o.s with
      | none => s
      | some (promote, h) =>
        let s := s.takePlane promote
        let s := { s with active := { s.active with prof := pre.profile } }
        let s := s.markBusy (.panelUse panel) 6
        if pre.profile = 2 then
          let rows := pre.panelRows panel
          let p0 : Pass := { s.pass.getD ⟨none, [], []⟩ with panel := some (panel, xg) }
          let p := (List.range 256).foldl (fun p e => p.hold e (beatTerms h rows h.counter (e / 64) (e % 64))) p0
          let s := (groupAccs xg).foldl (fun s n => s.setAcc s.work1 n { s.acc s.work1 n with tag := 2 }) s
          ({ s with pass := some p }.markWork xg 6).passDone
        else
          let s := (((beatExact pre h panel xg).getD []).foldl (fun s r => s.setAcc s.work1 r.1 r.2) s).markWork xg 6
          -- a pass that an MSHIFT alone has opened ends with the half's last plane
          if s.active.hasPlane || (s.pass.bind (·.panel)).isSome then s else { s with pass := none })

/-- MSHIFT (R162, R163). Under profile 2 the beat that takes plane 0 opens a pass. An MSHIFT is no earlier beat for the PROFILE_MIX
of a later MACC (DEDUCED: R228 lets the profile govern no MSHIFT; log 76). -/
def semMshift (o : MKS) : WordSem :=
  matWord (.mshift o) o.g [domDxa] [] (fun _ => []) 1 (fun s => s.beatStalls o.s)
    (fun s => s.beatSeq o.s ++ s.beatBad o.s)
    (fun pre s => match pre.beat o.s with
      | none => s
      | some (promote, h) =>
        let s := s.takePlane promote
        let opens := pre.profile = 2 ∧ h.counter = 0
        (if opens ∧ s.pass = none then { s with pass := some ⟨none, [], []⟩ } else s).passDone)

/-! ### Castling and clearing (R164, R165) -/

/-- MSWAP (R165). -/
def semMswap (o : FG) : WordSem :=
  { matWord (.mswap o) o.g [domDxa] [] (fun _ => []) 0 (fun _ => false)
      (fun s => causeIf s.pass.isSome (mkCause 10 .M .matrixSeq))
      (fun _ s =>
        let s := s.journal s.cur (.bank s.work1)
        { s with work1 := !s.work1 }) with
    waits := fun s => s.busy.any (fun b => match b.unit with | .work _ => b.sid == s.cur | _ => false) }

/-- MCLR (R164). -/
def semMclr (o : MKX) : WordSem :=
  matWord (.mclr o) o.g [domDxa] [] (fun _ => []) 1 (fun s => s.workBusy o.xg.toNat) (fun _ => [])
    (fun _ s => ((groupAccs o.xg.toNat).foldl (fun s n => s.setAcc s.work1 n Acc.clear) s).markWork o.xg.toNat 1)

/-! ### Drains (R166 to R169) -/

/-- Rows a drain into a format writes. -/
def drainRows (fmt : Nat) : Nat := 256 * elemBits fmt / 512

/-- Does a finite value, rounded, stay within the largest finite one of a format? -/
def FF.fits (f : FF) (x : XNum) (mode : Nat) (r : W64) : Bool :=
  match x with
  | .fin neg n d =>
    let (lo, rem, den) := f.lower n d
    decide ((if roundUp mode neg (lo % 2 == 1) rem den r then lo + 1 else lo) ≤ f.big)
  | _ => true

/-- Is a value a nonzero finite one? -/
def XNum.nonzero : XNum → Bool
  | .fin _ n _ => n != 0
  | _ => false

/-- The scale that `.auto` chooses for a row (R168). -/
def autoScale (fmt mode : Nat) (vs : List (XNum × W64)) : Nat :=
  match floatFmt fmt with
  | none => 127
  | some f =>
    if !vs.any (fun v => v.1.nonzero) then 127
    else ((List.range 255).find? (fun (sc : Nat) =>
      vs.all (fun v => f.fits (v.1.scale (127 - (sc : Int))) mode v.2))).getD 254

/-- The rows of a drain: values by element, packed and rounded once (R167 to R169). -/
def drainWrites (s : State) (t g fmt mode : Nat) (auto : Bool) (v : Nat → XNum) : List RowWrite :=
  let per := perBlock fmt
  (List.range (drainRows fmt)).map (fun r =>
    let vs := (List.range per).map (fun j =>
      let e := per * r + j
      (v e, rssWord s.me.sc.seed s.me.sc.step t e))
    let sc := if auto then autoScale fmt mode vs else 127
    let bits := packElems (elemBits fmt) (vs.map (fun x => roundTo fmt (x.1.scale (127 - (sc : Int))) mode false x.2))
    let h : BitVec 16 := if fmt = 2 ∧ vs.any (fun x => x.1 == .nan) then 0xFF20
      else BitVec.ofNat 16 (sc * 256 + fmt * 16)
    { key := s.rowKey s.cur t (4 * g + r), mask := BitVec.allOnes 512, bits := BitVec.ofNat 512 bits,
      hdr := .fixed h, crc := true })

/-- The value a drain of the visible bank rounds for element `e` of row group `xg`. -/
def State.visible (s : State) (xg e : Nat) : XNum := (s.acc (!s.work1) (256 * xg + e)).drainValue

/-- MDRAIN (R167, R168). -/
def semMdrain (o : MD) : WordSem :=
  matWord (.mdrain o) o.g [domDxa] [o.t] (fun _ => []) 12 (fun _ => false) (fun _ => [])
    (fun pre s =>
      let mode := if o.dyn then pre.me.sc.mrnd.toNat else o.rnd.toNat
      let s := s.putRows (drainWrites pre o.t.toNat o.grp.toNat o.fmt.toNat mode o.auto (pre.visible o.xg.toNat)) 12
      if o.clr then (groupAccs o.xg.toNat).foldl (fun s n => s.setAcc (!s.work1) n Acc.clear) s else s)

/-- The quotient that MDRNS rounds (R169): an exact zero over a finite nonzero divisor is +0. -/
def drainQuotient (v d : XNum) : XNum :=
  match v, d with
  | .fin _ 0 _, .fin _ (_ + 1) _ => .fin false 0 1
  | v, d => v.div d

/-- MDRNS (R169). -/
def semMdrns (o : MS) : WordSem :=
  { matWord (.mdrns o) o.g [domDxa] [o.t] (fun _ => []) 20 (fun _ => false)
      (fun s => causeIf (notF32 (s.read o.a)) (mkCause 7 .M .illegalOperand))
      (fun pre s => s.putRows (drainWrites pre o.t.toNat o.grp.toNat o.fmt.toNat pre.me.sc.mrnd.toNat false
        (fun e => drainQuotient (pre.visible o.xg.toNat e) (f32 (pre.read o.a).toNat))) 20) with
    srcs := [o.a] }

/-! ### Spill and fill (R170, R171) -/

/-- The key of column 16·cb + j of an accumulator row. -/
def recKey (row cb j : Nat) : Nat := 64 * row + 16 * cb + j

/-- The 1536-byte run of 16 records. -/
def spillRun (s : State) (row cb : Nat) : Nat :=
  packElems 768 ((List.range 16).map (fun j => (s.acc (!s.work1) (recKey row cb j)).record))

/-- MSPILL (R170). -/
def semMspill (o : MX) : WordSem :=
  matWord (.mspill o) o.g [domDxa] [o.t] (fun _ => []) 10 (fun _ => false) (fun _ => [])
    (fun pre s =>
      let run := spillRun pre o.row.toNat o.cb.toNat
      s.putRows ((List.range 24).map (fun r =>
        { key := pre.rowKey pre.cur o.t.toNat (4 * o.grp.toNat + r), mask := BitVec.allOnes 512,
          bits := BitVec.ofNat 512 (field run (512 * r) 512), hdr := .fixed 0x7FD0, crc := true })) 10)

/-- The 16 records that MFILL reads. -/
def fillRecords (s : State) (o : MX) : List Nat :=
  let run := (rowsFrom o.t o.grp 24 s).foldr (fun k n => (s.row k).payload.toNat + 2 ^ 512 * n) 0
  (List.range 16).map (fun j => field run (768 * j) 768)

/-- One accumulator after a record is filled into it; none where it raises GUARD (R170). -/
def fillAcc (profile : Nat) (a r : Acc) : Option Acc :=
  let a' := a.orFlags r.flags
  if profile = 2 then some { a'.addBlock (r.val.toInt * 2 ^ 880) with tag := 2 }
  else a'.addExact [.ofUnits r.val.toInt 320]

/-- The headers of the rows that MFILL fetches. -/
def fillHeaders (s : State) (o : MX) : List (BitVec 16) := (rowsFrom o.t o.grp 24 s).map (fun k => (s.row k).h1)

/-- Does record `j` lie in rows headed XSP? A row with another header holds no record (R170, R235; DEDUCED, log 77). -/
def recordWhole (s : State) (o : MX) (j : Nat) : Bool :=
  let h (r : Nat) : BitVec 16 := (fillHeaders s o).getD r 0
  h (96 * j / 64) == 0x7FD0 && h ((96 * j + 95) / 64) == 0x7FD0

/-- The records and the accumulators they are filled into. -/
def fillPairs (s : State) (o : MX) : List (Nat × Acc × Option Acc) :=
  (fillRecords s o).zipIdx.map (fun (x, j) =>
    let n := recKey o.row.toNat o.cb.toNat j
    (n, s.acc s.work1 n, if recordWhole s o j then recordAcc x else none))

/-- The tag of a record or accumulator that MFILL cannot take under a profile (R170). -/
def fillMix (p : Nat) (x : Nat × Acc × Option Acc) : Option Nat :=
  let bad (a : Acc) : Bool := a.tag != 0 && a.tag.toNat != p
  match x.2.2 with
  | some r => if bad r then some r.tag.toNat else if bad x.2.1 then some x.2.1.tag.toNat else none
  | none => if bad x.2.1 then some x.2.1.tag.toNat else none

/-- The rank 9 and 10 causes of MFILL beyond its fetch, in the order of R339: a record whose CRC fails, PROFILE_MIX, FORMAT of a row
that is not headed XSP or of a record, GUARD (R170, R235). -/
def fillCauses (s : State) (o : MX) : List Cause :=
  let p := s.profile
  let ps := fillPairs s o
  causeIf ((fillRecords s o).zipIdx.any (fun (x, j) => recordWhole s o j && !recordCrcOk x))
    { rank := 9, slot := Slot.M.idx, code := .rowCheck, sub := 0x32 : Cause } ++
  ((ps.findSome? (fillMix p)).map (fun t => mkCause 10 .M .profileMix 0 (p + t * 16))).toList ++
  match (fillHeaders s o).find? (fun h => h != 0x7FD0) with
  | some h => [formatCause .M h 13]
  | none =>
    causeIf (ps.any (fun x => match x.2.2 with
      | none => true
      | some r => p == 2 && !isF32Value r.val.toInt)) (formatCause .M 0x7FD0 13) ++
    causeIf (ps.any (fun x => match x.2.2 with
      | none => false
      | some r => (fillAcc p x.2.1 r).isNone)) (mkCause 10 .M .guard)

/-- MFILL (R170, R235). -/
def semMfill (o : MX) : WordSem :=
  matWord (.mfill o) o.g [domDxa] [o.t] (rowsFrom o.t o.grp 24) 8 (fun _ => false) (fun s => fillCauses s o)
    (fun pre s =>
      let s := (fillPairs pre o).foldl (fun s x => match x.2.2.bind (fillAcc pre.profile x.2.1) with
        | some a => s.setAcc s.work1 x.1 a
        | none => s) s
      { s.markWork (o.row.toNat / 4) 8 with mHold := some (s.now, s.now + 1) })

/-- MSTAT (R171). -/
def semMstat (o : MQ) : WordSem :=
  { matWord (.mstat o) o.g [domDxa] [] (fun _ => []) 2 (fun _ => false) (fun _ => [])
      (fun pre s => s.result .M o.d (pre.acc (!pre.work1) (64 * o.row.toNat + o.col.toNat)).status 2) with
    dsts := dstPushes o.d }

/-! ### Meanings: each word alone in its bundle (R45, R381) -/

/-- MBLD (R158). -/
def execMbld (o : MB) (s : State) : Host.Outcome State Fault Refusal := runWord (semMbld o) s

/-- MPUSH (R159). -/
def execMpush (o : MT) (s : State) : Host.Outcome State Fault Refusal := runWord (semMpush o) s

/-- MSHIFT (R162). -/
def execMshift (o : MKS) (s : State) : Host.Outcome State Fault Refusal := runWord (semMshift o) s

/-- MACC (R161). -/
def execMacc (o : MK) (s : State) : Host.Outcome State Fault Refusal := runWord (semMacc o) s

/-- MSWAP (R165). -/
def execMswap (o : FG) (s : State) : Host.Outcome State Fault Refusal := runWord (semMswap o) s

/-- MDRAIN (R167). -/
def execMdrain (o : MD) (s : State) : Host.Outcome State Fault Refusal := runWord (semMdrain o) s

/-- MDRNS (R169). -/
def execMdrns (o : MS) (s : State) : Host.Outcome State Fault Refusal := runWord (semMdrns o) s

/-- MCLR (R164). -/
def execMclr (o : MKX) (s : State) : Host.Outcome State Fault Refusal := runWord (semMclr o) s

/-- MSPILL (R170). -/
def execMspill (o : MX) (s : State) : Host.Outcome State Fault Refusal := runWord (semMspill o) s

/-- MFILL (R170). -/
def execMfill (o : MX) (s : State) : Host.Outcome State Fault Refusal := runWord (semMfill o) s

/-- MSTAT (R171). -/
def execMstat (o : MQ) (s : State) : Host.Outcome State Fault Refusal := runWord (semMstat o) s

end Sys2Proof.Machine
end

