-- ==== Sys2Proof/Machine/LoadStore.lean ====
section
/-! DEFINITION. Sys2Proof/Machine/LoadStore.lean: the words of the L slot (R174 to R197). -/

namespace Sys2Proof.Machine

/-! ### Addresses (R174 to R176) -/

/-- Address classes of the words that reach the accumulator window too. -/
def readClasses : Classes := { scratch := true, tile := true, accum := true, dram := true, cxl := true }
/-- Address classes of loads and stores. -/
def plainClasses : Classes := { scratch := true, tile := true, dram := true, cxl := true }

/-- ALIGN of an address (R176). -/
def alignCauses (slot : Slot) (a n : Nat) : List Cause := causeIf (a % n != 0) (mkCause 8 slot .align a)

/-- An L word that touches memory: the pieces its addresses name and its operation. -/
def memWord (i : Instr) (g : Guard) (srcs : List Src) (fates : State → List (Nat × AddrFate))
    (causes : State → List Cause) (ops : State → List (MemOp × Dst)) : WordSem :=
  { slot := .L, word := slotWord i, guard := g, srcs, ops
    stalls := fun s => fateStalls (fates s)
    causes := fun s => causes s ++ fateCauses .L (fates s) }

/-- The address a source holds. -/
def State.addr (s : State) (a : Src) : Nat := (s.read a).toNat

/-! ### Shaped tile transfers (R182 to R185) -/

/-- The shape a word sees after its swap (R33). -/
def State.shapeAfter (s : State) (k : Nat) (swap : Bool) : List W64 := s.me.shape k swap

/-- The pieces between the lowest and the highest byte a tile can reach (R176). -/
def tileFates (s : State) (k : Classes) (need : Right) (sh : List W64) : List (Nat × AddrFate) :=
  s.reachFates s.cur k need (tileReach sh)

/-- Elements per block in the format of a TLD. -/
def ltPer (fmt : Nat) (sh : List W64) : Nat := if fmt = 0xF then movePer (shFmt sh) else movePer fmt

/-- The ILLEGAL_OPERAND conditions of TLD beyond those of its shape (R184). -/
def tldBad (o : LT) (sh : List W64) : Bool :=
  decide (64 < 4 * o.grp.toNat + shE1 sh) || decide (ltPer o.fmt.toNat sh < shE0 sh) ||
  (o.fmt == 0xF && !verbatimShape sh) || (o.fmt == 1 && shFmt sh != 1)

/-- The causes of a shape: ILLEGAL_OPERAND at rank 7, ALIGN at rank 8 (R182). -/
def shapeCauses (slot : Slot) (sh : List W64) (more : Bool) : List Cause :=
  causeIf (shapeBad sh || more) (mkCause 7 slot .illegalOperand) ++
  causeIf (shapeMisaligned sh) (mkCause 8 slot .align (shBase sh))

/-- The window classes of a TLD: a RAW shape reads the accumulator window (R174). -/
def tldClasses (sh : List W64) : Classes := if shFmt sh = 1 then readClasses else plainClasses

/-- TLD (R184). -/
def semTld (o : LT) : WordSem :=
  let sh (s : State) := s.shapeAfter o.lsh.toNat o.swap
  { memWord (.tld o) o.g [] (fun s => if shapeBad (sh s) then [] else tileFates s (tldClasses (sh s)) .r (sh s))
      (fun s => s.tileCauses .L [o.t] ++ shapeCauses .L (sh s) (tldBad o (sh s)))
      (fun s => [(.tld (s.rowKey s.cur o.t.toNat (4 * o.grp.toNat)) o.t.toNat (sh s) o.fmt.toNat o.rnd.toNat
        s.me.sc.seed s.me.sc.step o.grp.toNat, .none)]) with
    swaps := if o.swap then [o.lsh.toNat] else [] }

/-- The ILLEGAL_OPERAND conditions of TST (R185). -/
def tstBad (o : LT) (sh : List W64) : Bool :=
  decide (64 < 4 * o.grp.toNat + shE1 sh) || (o.fmt != 0xF && o.fmt.toNat != shFmt sh) ||
  (o.fmt == 0xF && !verbatimShape sh)

/-- The rows a TST reads. -/
def tstKeys (s : State) (o : LT) (sh : List W64) : List Nat := s.groupKeys o.t.toNat o.grp.toNat (min (shE1 sh) 64)

/-- Can a row not be read as `n` elements (R185)? -/
def rowUnreadable (n : Nat) (h : BitVec 16) : Bool := !hInterp h || hFmt h == 1 || hFmt h == 13 || decide (perBlock (hFmt h) < n)

/-- FORMAT of a converting TST's rows: the first that holds an element inside the tensor and cannot be read (R185). -/
def tstFormat (s : State) (o : LT) (sh : List W64) : List Cause :=
  if o.fmt = 0xF ∨ shFmt sh = 1 then []
  else
    let bad := (tstKeys s o sh).zipIdx.find? (fun (k, b) =>
      (List.range (shE0 sh)).any (fun a => inside sh (tileIdx sh a b)) && rowUnreadable (shE0 sh) (s.row k).h1)
    match bad with
    | some (k, _) => [formatCause .L (s.row k).h1 0]
    | none => []

/-- TST (R185). -/
def semTst (o : LT) : WordSem :=
  let sh (s : State) := s.shapeAfter o.lsh.toNat o.swap
  let w := memWord (.tst o) o.g [] (fun s => if shapeBad (sh s) then [] else tileFates s plainClasses .w (sh s))
    (fun s => s.tileCauses .L [o.t] ++ shapeCauses .L (sh s) (tstBad o (sh s)))
    (fun s => [(.tst o.t.toNat ((tstKeys s o (sh s)).map s.row) (sh s) o.fmt.toNat o.rnd.toNat
      s.me.sc.seed s.me.sc.step o.grp.toNat, .none)])
  { w with
    swaps := if o.swap then [o.lsh.toNat] else []
    stalls := fun s => w.stalls s || s.rowsStall (tstKeys s o (sh s))
    causes := fun s => w.causes s ++
      (if shapeBad (sh s) then [] else s.fetchCauses .L (tstKeys s o (sh s)) ++ tstFormat s o (sh s)) }

/-- The rows of a TLDA or TSTA. -/
def laKeys (s : State) (o : LA) : List Nat :=
  (List.range (o.rows.toNat + 1)).map (fun r => s.rowKey s.cur o.t.toNat (o.first.toNat + r))

/-- TLDA (R186). -/
def semTlda (o : LA) : WordSem :=
  memWord (.tlda o) o.g [o.a] (fun s => s.fates s.cur readClasses .r (s.addr o.a) (64 * (o.rows.toNat + 1)))
    (fun s => s.tileCauses .L [o.t] ++ alignCauses .L (s.addr o.a) 64)
    (fun s => [(.tlda (s.rowKey s.cur o.t.toNat o.first.toNat) (o.rows.toNat + 1) (s.addr o.a), .none)])

/-- TSTA (R186). -/
def semTsta (o : LA) : WordSem :=
  let w := memWord (.tsta o) o.g [o.a]
    (fun s => s.fates s.cur plainClasses .w (s.addr o.a) (64 * (o.rows.toNat + 1)))
    (fun s => s.tileCauses .L [o.t] ++ alignCauses .L (s.addr o.a) 64)
    (fun s => [(.tsta ((laKeys s o).map s.row) (s.addr o.a), .none)])
  { w with
    stalls := fun s => w.stalls s || s.rowsStall (laKeys s o)
    causes := fun s => w.causes s ++ s.fetchCauses .L (laKeys s o) }

/-! ### Scalars and headers (R187 to R189) -/

/-- LD (R187). -/
def semLd (o : LL) : WordSem :=
  let n := widthBytes o.width.toNat
  { memWord (.ld o) o.g [o.a] (fun s => s.fates s.cur readClasses .r (s.addr o.a) n)
      (fun s => alignCauses .L (s.addr o.a) n) (fun s => [(.ld (s.addr o.a) o.width.toNat, o.d)]) with
    dsts := dstPushes o.d }

/-- The operation of an ST: a push address takes the value as a push (R22, R23, R174). -/
def stOp (n a : Nat) (v : W64) : MemOp :=
  match areaOf a with
  | .push c q sec => .push c q sec v
  | _ => .st a (toBytes n v.toNat)

/-- ST (R187). -/
def semSt (o : LS) : WordSem :=
  let n := widthBytes o.width.toNat
  memWord (.st o) o.g [o.a, o.b] (fun s => s.fates s.cur { plainClasses with push := o.width == 6 } .w (s.addr o.b) n)
    (fun s => alignCauses .L (s.addr o.b) n) (fun s => [(stOp n (s.addr o.b) (s.read o.a), .none)])

/-- LDH (R188). -/
def semLdh (o : LLH) : WordSem :=
  { memWord (.ldh o) o.g [o.a] (fun s => s.fates s.cur readClasses .r (s.addr o.a) 1) (fun _ => [])
      (fun s => [(.ldh (s.addr o.a), o.d)]) with
    dsts := dstPushes o.d }

/-- STH (R188). -/
def semSth (o : LSH) : WordSem :=
  memWord (.sth o) o.g [o.a, o.b] (fun s => s.fates s.cur plainClasses .w (s.addr o.b) 1)
    (fun s => causeIf ((s.read o.a) >>> 16 != 0 || !hValid ((s.read o.a).setWidth 16)) (mkCause 7 .L .illegalOperand))
    (fun s => [(.sth (s.addr o.b) ((s.read o.a).setWidth 16), .none)])

/-- TAGR (R189). -/
def semTagr (o : LLH) : WordSem :=
  { memWord (.tagr o) o.g [o.a]
      (fun s => s.fates s.cur { scratch := true, accum := true, dram := true, cxl := true } .r (s.addr o.a) 1)
      (fun _ => []) (fun s => [(.tagr (s.addr o.a), o.d)]) with
    dsts := dstPushes o.d }

/-! ### FENCE (R190, R202) -/

/-- Does a V, W or M word of the stream that writes tile rows or accumulators still have to land? -/
def State.enginesBusy (s : State) (i : Sid) : Bool :=
  s.rowOps.any (fun o => o.sid == i && o.acc.isNone) ||
  s.busy.any (fun b => b.sid == i && (match b.unit with | .xv _ => true | .work _ => true | _ => false))

/-- Does the stream have copies, out-ports or SAE windows at work? -/
def State.unitsBusy (s : State) (i : Sid) : Bool :=
  s.copies.any (fun c => c.sid == i) ||
  (s.str i).ports.any (fun p => match p.2 with | some q => q.kind == .output && !q.fed.isEmpty | none => false) ||
  !(s.str i).sae.items.isEmpty || !(s.str i).sae.subs.isEmpty || s.fabric.sent.any (fun m => m.sid == i && !m.read)

/-- What a FENCE of a kind waits for (R190). -/
def fenceWaits (s : State) (k : Nat) : Bool :=
  let v := s.onPath s.cur .vertical
  let h := s.onPath s.cur .horizontal
  match k with
  | 0 => v || h || s.onPath s.cur .localPath || s.enginesBusy s.cur || s.unitsBusy s.cur
  | 1 => v
  | 2 => h
  | 3 => s.enginesBusy s.cur
  | _ => s.unitsBusy s.cur

/-- The pending transfer fault that a FENCE of kind 0 or 4 raises (R190, R202). -/
def pendingCauses (s : State) (k : Nat) : List Cause :=
  match (if k = 0 ∨ k = 4 then s.me.xfault else none) with
  | some f => [{ mkCause 10 .L f.code f.addr f.aux with pending := true, sub := if f.code = .uncorrectable then 0x61 else 0 }]
  | none => []

/-- FENCE (R190). -/
def semFence (o : LF) : WordSem :=
  { slot := .L, word := slotWord (.fence o), guard := o.g
    causes := fun s => pendingCauses s o.k.toNat
    atEnd := fun s => pendingCauses s o.k.toNat
    waits := fun s => fenceWaits s o.k.toNat }

/-! ### Sync words and refresh (R193 to R195) -/

/-- SYNCA (R193). -/
def semSynca (o : LP) : WordSem :=
  { memWord (.synca o) o.g [o.a, o.b] (fun s => s.fates s.cur { scratch := true } .w (s.addr o.a) 8)
      (fun s => causeIf ((s.read o.b) >>> 24 != 0) (mkCause 7 .L .illegalOperand) ++ alignCauses .L (s.addr o.a) 8)
      (fun s => [(.synca (s.addr o.a) (s.read o.b).toNat, .none)]) with
    nonIdem := true }

/-- The refresh group of a slice (R194). -/
def State.refGroup (s : State) (slice group : Nat) : RefGroup := SMap.get ⟨0, false, false⟩ s.refresh (64 * slice + group)

/-- A VREF to a group: at a cool rate every other one is a no-op; the rate follows the threshold (R194). A change of the rate that a VREF
meets holds from the group's next VREF on (DESIGN CHOICE: R194 does not say from which; log 112). -/
def State.vref (s : State) (slice group : Nat) : State :=
  let g := s.refGroup slice group
  let g' : RefGroup := { last := s.now, hot := Config.refreshHot s.free, executed := g.hot || !g.executed }
  { s.drawn with refresh := SMap.set ⟨0, false, false⟩ s.refresh (64 * slice + group) g' }

/-- VREF (R194). -/
def semVref (o : LR) : WordSem :=
  { slot := .L, word := slotWord (.vref o), guard := o.g
    causes := fun s => causeIf (!s.me.task.refresh || o.slice.toNat != coreL s.coreNo.toNat) (mkCause 8 .L .permission)
    act := fun _ s => s.vref o.slice.toNat o.group.toNat }

/-! ### Vault operations (R196) -/

/-- VOADD (R196). -/
def semVoadd (o : LP) : WordSem :=
  { memWord (.voadd o) o.g [o.a, o.b] (fun s => s.fates s.cur { dram := true } .w (s.addr o.a) 4)
      (fun s => causeIf (notF32 (s.read o.b)) (mkCause 7 .L .illegalOperand) ++ alignCauses .L (s.addr o.a) 4)
      (fun s => [(.voadd (s.addr o.a) ((s.read o.b).setWidth 32), .none)]) with
    nonIdem := true }

/-- VOADD.s64 (R196). -/
def semVoaddS64 (o : LP) : WordSem :=
  { memWord (.voaddS64 o) o.g [o.a, o.b] (fun s => s.fates s.cur { dram := true } .w (s.addr o.a) 8)
      (fun s => alignCauses .L (s.addr o.a) 8)
      (fun s => [(.voadd64 (s.addr o.a) (s.read o.b), .none)]) with
    nonIdem := true }

/-- VOCAS: the expected value is popped from the destination queue (R196). -/
def semVocas (o : LC) : WordSem :=
  { memWord (.vocas o) o.g [.queue o.q false, o.a, o.b] (fun s => s.fates s.cur { dram := true } .w (s.addr o.a) 8)
      (fun s => alignCauses .L (s.addr o.a) 8)
      (fun s => [(.vocas (s.addr o.a) (s.read (.queue o.q false)) (s.read o.b), .queue o.q)]) with
    dsts := [o.q], nonIdem := true }

/-- The vault an address lies in. -/
def vaultOf (a : Nat) : Option Nat :=
  match areaOf a with
  | .dram v _ => some v
  | _ => none

/-- VOSAX: both blocks lie in one vault, else PERMISSION, after the checks of R339 that stand before it (R196). -/
def semVosax (o : LY) : WordSem :=
  let w := memWord (.vosax o) o.g [o.a, o.b, o.c]
    (fun s => s.fates s.cur { dram := true } .w (s.addr o.a) 64 ++ s.fates s.cur { dram := true } .w (s.addr o.b) 64)
    (fun s => alignCauses .L (s.addr o.a) 64 ++ alignCauses .L (s.addr o.b) 64)
    (fun s => [(.vosax (s.addr o.a) (s.addr o.b) ((s.read o.c).setWidth 32), .none)])
  { w with
    nonIdem := true
    causes := fun s => w.causes s ++
      causeIf ((vaultOf (s.addr o.a)).isSome && (vaultOf (s.addr o.b)).isSome &&
        vaultOf (s.addr o.a) != vaultOf (s.addr o.b)) (mkCause 8 .L .permission (s.addr o.b)) }

/-! ### Race-tag operations (R197) -/

/-- A tag operation: the transition of each block performs after the stream's earlier accesses to it (R254); the next bundle is
held for the nominal time, or longer, and until every transition has been made. -/
def tagWord (i : Instr) (g : Guard) (srcs : List Src) (a n : Src) (more : State → Bool) (op : State → MemOp) : WordSem :=
  let fates (s : State) := if 2 ^ 32 < s.addr n then [] else s.fates s.cur { scratch := true, dram := true } .r (s.addr a) (s.addr n)
  { slot := .L, word := slotWord i, guard := g, srcs
    stalls := fun s => fateStalls (fates s)
    causes := fun s => causeIf (decide (2 ^ 32 < s.addr n) || more s) (mkCause 7 .L .illegalOperand) ++
      fateCauses .L (fates s)
    ops := fun s => if s.addr n = 0 then [] else [(op s, .none)]
    act := fun pre s =>
      if pre.addr n = 0 then s
      else s.drawn.modMe (fun x => { x with
        holdUntil := pre.now + pre.tagNominal pre.cur (op pre).blocks + Config.lateness s.free }) }

/-- PUBL (R197). -/
def semPubl (o : LP) : WordSem := tagWord (.publ o) o.g [o.a, o.b] o.a o.b (fun _ => false) (fun s => .publ (s.addr o.a) (s.addr o.b))

/-- HAND (R197). -/
def semHand (o : LY) : WordSem :=
  tagWord (.hand o) o.g [o.a, o.b, o.c] o.a o.b
    (fun s => (s.read o.c) >>> 10 != 0 || decide (s.me.task.members.toNat ≤ (s.read o.c).toNat))
    (fun s => .hand (s.addr o.a) (s.addr o.b) ((s.read o.c).setWidth 10))

/-! ### Meanings: each word alone in its bundle (R45, R381) -/

/-- TLD (R184). -/
def execTld (o : LT) (s : State) : Host.Outcome State Fault Refusal := runWord (semTld o) s

/-- TST (R185). -/
def execTst (o : LT) (s : State) : Host.Outcome State Fault Refusal := runWord (semTst o) s

/-- TLDA (R186). -/
def execTlda (o : LA) (s : State) : Host.Outcome State Fault Refusal := runWord (semTlda o) s

/-- TSTA (R186). -/
def execTsta (o : LA) (s : State) : Host.Outcome State Fault Refusal := runWord (semTsta o) s

/-- LD (R187). -/
def execLd (o : LL) (s : State) : Host.Outcome State Fault Refusal := runWord (semLd o) s

/-- ST (R187). -/
def execSt (o : LS) (s : State) : Host.Outcome State Fault Refusal := runWord (semSt o) s

/-- LDH (R188). -/
def execLdh (o : LLH) (s : State) : Host.Outcome State Fault Refusal := runWord (semLdh o) s

/-- STH (R188). -/
def execSth (o : LSH) (s : State) : Host.Outcome State Fault Refusal := runWord (semSth o) s

/-- FENCE (R190). -/
def execFence (o : LF) (s : State) : Host.Outcome State Fault Refusal := runWord (semFence o) s

/-- SYNCA (R193). -/
def execSynca (o : LP) (s : State) : Host.Outcome State Fault Refusal := runWord (semSynca o) s

/-- VREF (R194). -/
def execVref (o : LR) (s : State) : Host.Outcome State Fault Refusal := runWord (semVref o) s

/-- VOADD (R196). -/
def execVoadd (o : LP) (s : State) : Host.Outcome State Fault Refusal := runWord (semVoadd o) s

/-- VOADD_S64 (R196). -/
def execVoaddS64 (o : LP) (s : State) : Host.Outcome State Fault Refusal := runWord (semVoaddS64 o) s

/-- VOCAS (R196). -/
def execVocas (o : LC) (s : State) : Host.Outcome State Fault Refusal := runWord (semVocas o) s

/-- VOSAX (R196). -/
def execVosax (o : LY) (s : State) : Host.Outcome State Fault Refusal := runWord (semVosax o) s

/-- PUBL (R197). -/
def execPubl (o : LP) (s : State) : Host.Outcome State Fault Refusal := runWord (semPubl o) s

/-- HAND (R197). -/
def execHand (o : LY) (s : State) : Host.Outcome State Fault Refusal := runWord (semHand o) s

/-- TAGR (R189). -/
def execTagr (o : LLH) (s : State) : Host.Outcome State Fault Refusal := runWord (semTagr o) s

end Sys2Proof.Machine
end

