-- ==== Sys2Proof/Machine/Transfer.lean ====
section
/-! DEFINITION. Sys2Proof/Machine/Transfer.lean: the words of the X slot (R192, R198 to R208, R270, R316, R318). -/

namespace Sys2Proof.Machine

/-- An X word: it uses domain dxt and the pieces its addresses name (R175, R176). -/
def xferWord (i : Instr) (g : Guard) (srcs : List Src) (fates : State → List (Nat × AddrFate))
    (causes : State → List Cause) (act : State → State → State) : WordSem :=
  { slot := .X, word := slotWord i, guard := g, srcs, act
    stalls := fun s => s.domStall domDxt || fateStalls (fates s)
    causes := fun s => s.domCauses .X domDxt ++ causes s ++ fateCauses .X (fates s) }

/-- No pieces. -/
def noFates (_ : State) : List (Nat × AddrFate) := []

/-! ### The sequencer levels (R198) -/

/-- Level `l`. -/
def Scalars.level (c : Scalars) (l : Nat) : SeqLvl := SMap.get SeqLvl.start c.levels l
/-- Set level `l`. -/
def Scalars.setLevel (c : Scalars) (l : Nat) (v : SeqLvl) : Scalars := { c with levels := SMap.set SeqLvl.start c.levels l v }
/-- The six levels, innermost first. -/
def Scalars.allLevels (c : Scalars) : List SeqLvl := (List.range 6).map c.level

/-- LNCNT (R198). -/
def semLncnt (o : XN) : WordSem :=
  xferWord (.lncnt o) o.g [o.a] noFates
    (fun s => causeIf ((s.read o.a) >>> 32 != 0) (mkCause 7 .X .illegalOperand))
    (fun pre s => s.modSc (fun c => c.setLevel o.l.toNat { c.level o.l.toNat with c := (pre.read o.a).toNat }))

/-- LNSTR (R198). -/
def semLnstr (o : XS) : WordSem :=
  xferWord (.lnstr o) o.g [o.a, o.b] noFates (fun _ => [])
    (fun pre s => s.modSc (fun c => c.setLevel o.l.toNat
      { c.level o.l.toNat with d := o.dim.toNat, u := (pre.read o.a).toInt, w := (pre.read o.b).toInt }))

/-! ### BCOPY (R199) -/

/-- Is a copy verbatim (R183)? -/
def copyVerbatim (src dst : List W64) (ls : List SeqLvl) : Bool :=
  verbatimShape src && shFmt src == shFmt dst && shBase dst % 64 == 0 && dstRow dst % 64 == 0 &&
  ls.all (fun l => l.w % 64 == 0 && (l.d != 0 || l.u % (movePer (shFmt src) : Int) == 0))

/-- The least and the greatest number of a list. -/
def ends : List Int → Option (Int × Int)
  | [] => none
  | v :: vs => some (vs.foldl min v, vs.foldl max v)

/-- The lowest and highest byte of the source that an emitted element reaches (R176); the dimensions are independent. -/
def copySrcReach (src : List W64) (ls : List SeqLvl) : Option (Int × Int) :=
  let dims := (List.range 8).map (fun d => ends (copyIdx src ls d))
  if dims.any (·.isNone) || ls.any (fun l => l.c == 0) then none
  else
    let e (d : Nat) : Int × Int := (dims.getD d none).getD (0, 0)
    let w : Int := moveBits (shFmt src)
    let part (d : Nat) (low : Bool) : Int :=
      let x := (e (d + 1)).1 * shStride src (d + 1)
      let y := (e (d + 1)).2 * shStride src (d + 1)
      if low then min x y else max x y
    let sum (low : Bool) : Int := (shBase src : Int) + (List.range 7).foldl (fun a d => a + part d low) 0
    some (sum true + (e 0).1 * w / 8, sum false + ((e 0).2 * w + w - 1) / 8)

/-- The lowest and highest byte of the destination. -/
def copyDstReach (src dst : List W64) (ls : List SeqLvl) : Option (Int × Int) :=
  if ls.any (fun l => l.c == 0) then none
  else
    let part (low : Bool) (n : Nat) (w : Int) : Int := let x := ((n : Int) - 1) * w; if low then min 0 x else max 0 x
    let sum (low : Bool) : Int :=
      (shBase dst : Int) + part low (shE1 src) (dstRow dst) + ls.foldl (fun a l => a + part low l.c l.w) 0
    some (sum true, sum false + (((shE0 src * moveBits (shFmt dst) : Nat) : Int) - 1) / 8)

/-- Does a range lie wholly in fabric addresses? -/
def fabricRange (lo hi : Int) : Bool := decide (2 ^ 55 ≤ lo) && decide (hi < 2 ^ 56)

/-- The shapes and levels of a BCOPY, after its swap. -/
def copyParts (s : State) (o : XB) : List W64 × List W64 × List SeqLvl :=
  let k := 4 + 2 * o.pair.toNat
  (s.shapeAfter k o.swap, s.shapeAfter (k + 1) o.swap, s.me.sc.allLevels)

/-- Does a copy have no sync word: its operand names `zero` (R199)? -/
def isZero (a : Src) : Bool := a == .zero

/-- The ILLEGAL_OPERAND conditions of BCOPY (R182, R199). A destination register whose format was never written is refused, and an E2M1
destination with an odd e0 is not (DESIGN CHOICE: R199 and R200 say nothing of either; log 111). -/
def bcopyBad (o : XB) (src dst : List W64) (ls : List SeqLvl) : Bool :=
  shapeBad src || moveBits (shFmt dst) == 0 || ls.any (fun l => decide (shRank src ≤ l.d)) || (o.ring && isZero o.a)

/-- The ALIGN conditions of BCOPY (R182, R199). -/
def bcopyAlign (s : State) (o : XB) (src dst : List W64) : List Cause :=
  causeIf (shapeMisaligned src) (mkCause 8 .X .align (shBase src)) ++
  causeIf (let n := max (moveBits (shFmt dst) / 8) 1; shBase dst % n != 0 || dstRow dst % (n : Int) != 0)
    (mkCause 8 .X .align (shBase dst)) ++
  (if isZero o.a then [] else alignCauses .X (s.addr o.a) (if o.ring then 16 else 8))

/-- The destination of a copy is in fabric addresses. -/
def copyFabric (src dst : List W64) (ls : List SeqLvl) : Bool :=
  match copyDstReach src dst ls with
  | some (lo, hi) => fabricRange lo hi
  | none => false

/-- The place of the word at issue in its stream. -/
def State.place (pre s : State) : Place := ⟨s.seq, hdrScope pre.bundle.hdr⟩

/-- The pieces of a copy's destination. Fabric addresses need fabric scope, even for a copy that emits nothing (R199). -/
def bcopyDstFates (s : State) (src dst : List W64) (ls : List SeqLvl) : List (Nat × AddrFate) :=
  match copyDstReach src dst ls with
  | some (lo, hi) =>
    if fabricRange lo hi && hdrScope s.bundle.hdr == 4 then [] else s.reachFates s.cur plainClasses .w (some (lo, hi))
  | none => match areaOf (shBase dst) with
    | .fabric _ => if hdrScope s.bundle.hdr = 4 then [] else [(shBase dst, .bad .permission)]
    | _ => []

/-- The pieces BCOPY names: source, destination, sync word and ring entry (R174, R176). -/
def bcopyFates (s : State) (o : XB) : List (Nat × AddrFate) :=
  let (src, dst, ls) := copyParts s o
  if bcopyBad o src dst ls then []
  else
    s.reachFates s.cur { scratch := true, accum := copyVerbatim src dst ls, dram := true, cxl := true } .r (copySrcReach src ls) ++
    bcopyDstFates s src dst ls ++
    (if isZero o.a then [] else scratchFates s (s.addr o.a) (if o.ring then 32 else 8))

/-- The tile rows of this core that a copy writes (R32). -/
def copyRows (s : State) (src dst : List W64) (ls : List SeqLvl) : List Nat :=
  match areaOf (shBase dst) with
  | .tile c _ _ =>
    if c != s.coreNo.toNat then []
    else ((List.range (levelsTotal ls)).flatMap (fun n =>
      let off := (ls.zip (levelsIdx ls n)).foldl (fun (a : Int) (p : SeqLvl × Nat) => a + (p.2 : Int) * p.1.w) 0
      (List.range (shE1 src)).flatMap (fun (b : Nat) =>
        let at' := ((shBase dst : Int) + off + (b : Int) * dstRow dst).toNat
        (blocksOf at' ((shE0 src * moveBits (shFmt dst) + 7) / 8)).filterMap (fun blk => match areaOf blk with
          | .tile _ t r => some (64 * t + r)
          | _ => none)))).eraseDups
  | _ => []

/-- A ring entry of a complete copy and its removal (R201). -/
def State.endCopy (s : State) (c : Copy) : State :=
  let s := match c.sync with
    | some a => if c.ring then
        s.unitRing c.sid (a + 16) (if c.fault.isSome then 1 else 0) ((c.fault.map TrapCode.num).getD 0) c.posted
      else s
    | none => s
  { s with copies := s.copies.filter (fun x => x.id != c.id), rowOps := s.rowOps.filter (fun o => o.acc != some c.id) }

/-- Start a copy; one that emits nothing completes at once (R199). It works behind the stores its scope waits for, and after earlier
sync-word writes (R192). -/
def startCopy (o : XB) (pre s : State) : State :=
  let (src, dst, ls) := copyParts pre o
  let t := pre.me.task
  let id := s.seq
  let c : Copy :=
    { id, sid := pre.cur, src, dst, levels := ls, sync := if isZero o.a then none else some (pre.addr o.a), ring := o.ring,
      fabric := copyFabric src dst ls, total := levelsTotal ls, done := [], posted := 0, fault := none,
      next := s.now + 1 + Config.unitDelay s.free, asid := t.asid, gslot := t.gslot, member := t.member,
      scope := hdrScope pre.bundle.hdr, flying := [] }
  let s := s.drawn.seqd
  if levelsTotal ls = 0 then s.endCopy c
  else
    let row (k : Nat) : RowOp := ⟨pre.cur, k, 0, 0, .keep, false, false, 0, id, some id, true⟩
    { s with copies := s.copies ++ [c], rowOps := s.rowOps ++ (copyRows pre src dst ls).map row }

/-- BCOPY (R199). -/
def semBcopy (o : XB) : WordSem :=
  let k := 4 + 2 * o.pair.toNat
  let w := xferWord (.bcopy o) o.g [o.a] (fun s => bcopyFates s o)
    (fun s => let (src, dst, ls) := copyParts s o
      causeIf (bcopyBad o src dst ls) (mkCause 7 .X .illegalOperand) ++
      (if bcopyBad o src dst ls then [] else bcopyAlign s o src dst))
    (startCopy o)
  { w with
    swaps := if o.swap then [k, k + 1] else []
    suppress := true
    stalls := fun s => w.stalls s || decide (64 ≤ (s.copies.filter (fun c => c.sid == s.cur)).length) }

/-! ### Stream ports (R203, R204) -/

/-- A port of the stream at issue. -/
def State.portOf (s : State) (k : Nat) : Option Port := s.me.port k

/-- Set a port of a stream. -/
def State.setPort (s : State) (i : Sid) (k : Nat) (p : Option Port) : State :=
  s.modStr i (fun t => { t with ports := SMap.set none t.ports k p })

/-- STREAM_UNBOUND of a port. -/
def unbound (k : Nat) : Cause := mkCause 7 .X .streamUnbound 0 k

/-- Is the binding the row-buffer feed? -/
def isFeed (o : XP) : Bool := o.port == 7 && !o.out

/-- The ILLEGAL_OPERAND conditions of a feed (R204). -/
def feedBad (sh : List W64) : Bool :=
  planesOf (shFmt sh) == 0 || shOrg sh 0 % (movePer (shFmt sh) : Int) != 0 || shE1 sh % 16 != 0

/-- The lowest and highest byte a binding reaches: a port's walk, or the rows of a feed. -/
def bindReach (o : XP) (sh : List W64) : Option (Int × Int) :=
  if isFeed o then tileReach sh
  else if walkTotal sh = 0 then none
  else some (walkReach sh)

/-- SBIND (R203, R204). -/
def semSbind (o : XP) : WordSem :=
  let k := 4 + o.xsh.toNat
  let sh (s : State) := s.shapeAfter k o.swap
  let bad (s : State) : Bool := shapeBad (sh s) || (isFeed o && feedBad (sh s))
  let cls : Classes := if o.out then plainClasses else { scratch := true, dram := true, cxl := true }
  let w := xferWord (.sbind o) o.g [] (fun s => if bad s then [] else s.reachFates s.cur cls (if o.out then .w else .r) (bindReach o (sh s)))
    (fun s => causeIf ((s.portOf o.port.toNat).any (fun p => !p.closing)) (unbound o.port.toNat) ++ shapeCauses .X (sh s) (bad s))
    (fun pre s =>
      let at' := pre.place s
      let p : Port :=
        { kind := if o.out then .output else if isFeed o then .feed else .input, shape := sh pre, pos := 0, entries := [],
          next := s.now + 1 + Config.unitDelay s.free, sae := 0, fed := [], closing := false, flying := false,
          seq := at'.seq, scope := at'.scope }
      s.drawn.seqd.setPort s.cur o.port.toNat (some p))
  { w with
    swaps := if o.swap then [k] else []
    causes := fun s => (if isFeed o then s.domsCauses .X [domDxt, domDxa] else []) ++ w.causes s
    stalls := fun s => w.stalls s || (isFeed o && s.domStall domDxa) || (s.portOf o.port.toNat).any (·.closing) }

/-- SUNB (R203, R204). An in-port loses its entries; an out-port drains; a feed that is filling ends full. -/
def semSunb (o : XPU) : WordSem :=
  let k := o.port.toNat
  xferWord (.sunb o) o.g [] noFates
    (fun s => causeIf (!(s.portOf k).any (fun p => !p.closing)) (unbound k))
    (fun pre s => match pre.portOf k with
      | some p =>
        let drains := (p.kind == .output && !p.fed.isEmpty) || (p.kind == .feed && s.shadow.st == .filling && s.shadow.readyAt == 0)
        s.setPort s.cur k (if drains then some { p with closing := true } else none)
      | none => s)

/-! ### Scatter-accumulate (R205, R206) -/

/-- Is a port of a stream bound `in`? -/
def Stream.boundIn (t : Stream) (k : Nat) : Bool := (t.port k).any (fun p => p.kind == .input && !p.closing)

/-- Note that the SAE takes `n` more entries from a port. -/
def State.saeOwes (s : State) (k n : Nat) : State :=
  match s.portOf k with
  | some p => s.setPort s.cur k (some { p with sae := p.sae + n })
  | none => s

/-- Submit to the SAE. -/
def State.saeSubmit (s : State) (x : SaeSub) : State :=
  s.drawn.seqd.modMe (fun t => { t with sae := { t.sae with
    subs := t.sae.subs ++ [x], next := max t.sae.next (s.now + 1 + Config.unitDelay s.free) } })

/-- SAEGO (R205). -/
def semSaego (o : XA) : WordSem :=
  { xferWord (.saego o) o.g [o.a, o.b] noFates
      (fun s => (if s.me.boundIn o.ip.toNat then [] else [unbound o.ip.toNat]) ++
        (if s.me.boundIn o.vp.toNat then [] else [unbound o.vp.toNat]) ++
        causeIf ((s.read o.b) >>> 32 != 0) (mkCause 7 .X .illegalOperand) ++ alignCauses .X (s.addr o.a) 4)
      (fun pre s =>
        let n := (pre.read o.b).toNat
        if n = 0 then s
        else ((s.saeOwes o.ip.toNat n).saeOwes o.vp.toNat n).saeSubmit (.updates o.ip.toNat o.vp.toNat (pre.addr o.a) n (pre.place s))) with
    nonIdem := true }

/-- SAEF (R206). -/
def semSaef (o : XF) : WordSem :=
  { xferWord (.saef o) o.g [o.a] (fun s => if isZero o.a then [] else scratchFates s (s.addr o.a) 8)
      (fun s => if isZero o.a then [] else alignCauses .X (s.addr o.a) 8)
      (fun pre s => s.saeSubmit (.close (if isZero o.a then none else some (pre.addr o.a)) (pre.place s))) with
    suppress := true }

/-! ### Sync-word writes and fabric words (R192, R207, R208) -/

/-- SYNCI (R192). -/
def semSynci (o : XQ) : WordSem :=
  { xferWord (.synci o) o.g [o.a, o.b] (fun s => s.fates s.cur { scratch := true } .w (s.addr o.a) 8)
      (fun s => causeIf ((s.read o.b) >>> 24 != 0) (mkCause 7 .X .illegalOperand) ++ alignCauses .X (s.addr o.a) 8)
      (fun _ s => s) with
    suppress := true
    ops := fun s => [(.synci (s.addr o.a) (s.read o.b).toNat, .none)] }

/-- The pieces of a descriptor: this core's scratchpad only (R174, R207). -/
def descFates (s : State) (a : Nat) : List (Nat × AddrFate) :=
  match areaOf a with
  | .scratch c _ => if c = s.coreNo.toNat then scratchFates s a 32 else [(a, .bad (if s.windowOpen s.cur c then .permission else .windowAccess))]
  | _ => scratchFates s a 32

/-- Can the descriptor be read? One in a block stored with an error gives no values. -/
def descOk (s : State) (a : Nat) : Bool := a % 32 == 0 && (descFates s a).all (fun p => p.2 == .fine) && !s.isBad (blockOf a)

/-- Does the session own a traffic class (R326)? -/
def State.ownsClass (s : State) (cls : Nat) : Bool := (s.sessionOf s.cur).any (fun x => x.classes.contains cls)

/-- `k`, `m` and the retransmission bit of a class (R304). -/
def State.rate (s : State) (cls : Nat) : Nat × Nat × Bool :=
  let r := (SMap.get 1 s.fabRates cls).toNat
  (max (field r 0 5) 1, field r 8 4, r.testBit 16)

/-- Is a SEND descriptor outside its limits (R207, R305, R316)? -/
def sendBad (s : State) (cls a : Nat) : Bool :=
  let dest := s.load a 8
  let len := s.load (a + 16) 4
  let dl := s.load (a + 24) 8
  let (k, _, _) := s.rate cls
  field dest 55 9 != 1 || dest % 64 != 0 || s.load (a + 8) 8 % 64 != 0 || len == 0 || decide (65536 < len) ||
  decide (4096 * k < len) || s.load (a + 22) 2 != 0 || decide (dl < s.fabric.period + 1) ||
  decide (s.fabric.period + 65536 < dl)

/-- Read classes of a message's source. -/
def sourceClasses : Classes := { scratch := true, dram := true, cxl := true }

/-- The PERMISSION of a word whose traffic class its session does not own, or whose scope is not fabric: it stands among the causes of its
addresses, behind WINDOW_ACCESS and TRANSLATION and before DOMAIN_NOT_OWNED of a bank (R270, R326, R339). -/
def refusedIf (bad : Bool) (a : Nat) : List (Nat × AddrFate) := if bad then [(a, .bad .permission)] else []

/-- The pieces of a SEND: its descriptor, its source where the descriptor can be read, and what its class and scope forbid. -/
def sendFates (s : State) (cls a : Nat) : List (Nat × AddrFate) :=
  descFates s a ++
  (if descOk s a && !sendBad s cls a then s.fates s.cur sourceClasses .r (s.load (a + 8) 8) (s.load (a + 16) 4) else []) ++
  refusedIf (!s.ownsClass cls || hdrScope s.bundle.hdr != 4) a

/-! ### The sender's links (R309, R311) -/

/-- The path set of a class and a destination: `n` paths that share no link and avoid the links known to be down when the set was
installed; a path that the set lacks has no link (R309). -/
def Fabric.pathSet (f : Fabric) (cls dest n : Nat) : List (List Nat) :=
  (List.range n).foldl (fun ps i =>
    let ls := Config.pathLinks f.paths cls dest i
    ps ++ [if ls.any (fun l => f.shunned.contains l || ps.any (fun p => p.contains l)) then [] else ls]) []

/-- The path of a fragment of a message (R309). -/
def Fabric.pathOf (f : Fabric) (x : Sent) (idx : Nat) : List Nat := (f.pathSet x.cls x.dest (x.k + x.m)).getD idx []

/-- Has a fragment a path, and does it cross no link that is down? -/
def Fabric.pathUp (f : Fabric) (x : Sent) (idx : Nat) : Bool :=
  !(f.pathOf x idx).isEmpty && (f.pathOf x idx).all (fun l => !f.linksDown.contains l)

/-- Queue fragments of a message on the first links of their paths; one whose path crosses a link that is down is not sent. -/
def Fabric.enqueue (f : Fabric) (now : Nat) (x : Sent) (retx : Bool) (idxs : List Nat) : Fabric :=
  { f with queue := f.queue ++ (idxs.filter (f.pathUp x)).map (fun j => ⟨x.id, j, retx, now⟩) }

/-- A message is kept by its sender and its fragments are queued (R305, R311). -/
def Fabric.post (f : Fabric) (now : Nat) (x : Sent) : Fabric :=
  Fabric.enqueue { f with sent := f.sent ++ [x], seqs := SMap.set 0 f.seqs x.cls ((x.seq + 1) % 2 ^ 32) } now x false (List.range (x.k + x.m))

/-- The next message sequence number of a class. -/
def State.nextSeq (s : State) (cls : Nat) : Nat := SMap.get 0 s.fabric.seqs cls

/-- Post a message (R270, R305, R311): its fragments are queued at issue; its source is read at a free cycle, once every earlier access
of its stream has performed, and no fragment leaves before. -/
def postSend (o : XM) (pre s : State) : State :=
  let a := pre.addr o.a
  let cls := o.cls.toNat
  let t := pre.me.task
  let (k, m, retx) := pre.rate cls
  let q := s.nextSeq cls
  let x : Sent :=
    { id := s.seq, sid := pre.cur, asid := t.asid, gslot := t.gslot, member := t.member, cls, seq := q,
      dest := field (pre.load a 8) 40 15, offset := field (pre.load a 8) 0 40, tag := pre.load (a + 20) 2,
      len := pre.load (a + 16) 4, deadline := pre.load (a + 24) 8, k, m, retx, src := pre.load (a + 8) 8,
      readAt := s.now + 1 + Config.performDelay s.free, read := false, frags := [], copy := none, live := true,
      asked := false }
  let s := s.drawn.seqd
  { s with fabric := s.fabric.post s.now x }

/-- SEND (R207, R270, R326). It reads its descriptor at issue, when the stream's earlier local accesses have performed (R178). -/
def semSend (o : XM) : WordSem :=
  let w := xferWord (.send o) o.g [o.a] (fun s => sendFates s o.cls.toNat (s.addr o.a))
    (fun s => causeIf (descOk s (s.addr o.a) && sendBad s o.cls.toNat (s.addr o.a)) (mkCause 7 .X .illegalOperand) ++
      alignCauses .X (s.addr o.a) 32)
    (postSend o)
  { w with
    nonIdem := true
    stalls := fun s => w.stalls s || s.onPath s.cur .localPath
    causes := fun s => w.causes s ++ storedCauses s .X (s.addr o.a) }

/-- Is a RECV descriptor outside its limits (R207)? -/
def recvBad (s : State) (a : Nat) : Bool :=
  let len := s.load (a + 16) 4
  decide (2 ^ 15 ≤ s.load a 8) || len == 0 || decide (65536 < len) || s.load (a + 22) 2 != 0 || s.load (a + 24) 8 != 0

/-- The pieces of a RECV: its descriptor, its sync word, and what its class forbids. -/
def recvFates (s : State) (cls a : Nat) : List (Nat × AddrFate) :=
  descFates s a ++ (if descOk s a && !recvBad s a then scratchFates s (s.load (a + 8) 8) 8 else []) ++ refusedIf (!s.ownsClass cls) a

/-- A kept loss that a RECV matches (R318). -/
def keptLoss (s : State) (o : XM) : Option Cause :=
  let a := s.addr o.a
  ((s.sessionOf s.cur).bind (fun x => x.losses.find? (fun (src, cls, tag, _) =>
    src == s.load a 8 && cls == o.cls.toNat && tag == s.load (a + 20) 2))).map (fun (src, cls, tag, seq) =>
    { rank := 11, slot := Slot.X.idx, code := .fabricLoss, addr := seq, aux := src + cls * 2 ^ 16 + tag * 2 ^ 32 })

/-- A RECV of issue order `n` releases a message's length, after the SYNCIs before it (R192, R207). -/
def State.lengthReleased (s : State) (i : Sid) (n sync len : Nat) : State :=
  if s.synciBehind i n then s.modStr i (fun t => { t with owed := t.owed ++ [(n, sync, len)] }) else s.unitSync i sync len

/-- Post a RECV: a message already decoded releases its length at once, one in reception is matched, else it waits in
posting order (R207, R271). -/
def postRecv (o : XM) (pre s : State) : State :=
  let a := pre.addr o.a
  let cls := o.cls.toNat
  let src := pre.load a 8
  let tag := pre.load (a + 20) 2
  let sync := pre.load (a + 8) 8
  match (pre.sessionOf pre.cur).bind (fun x => x.decoded.find? (fun (c, k, t, _, _) => c == src && k == cls && t == tag)) with
  | some (c, k, t, q, len) =>
    let s : State := { s with fabric := { s.fabric with
      doneMsgs := s.fabric.doneMsgs.map (fun m => if m.1 = c ∧ m.2.1 = k ∧ m.2.2.1 = q then (c, k, q, true) else m) } }
    State.lengthReleased (s.modSession pre.me.task.asid (fun x => { x with decoded := x.decoded.erase (c, k, t, q, len) })).seqd s.cur
      s.seq sync len
  | none =>
    let taken (q : Nat) : Bool := (s.prim.recvs ++ s.sec.recvs ++ s.saved.flatMap (·.stream.recvs)).any (fun r => r.source == src && r.cls == cls && r.seq == some q)
    let hit := (s.fabric.rx.find? (fun r => r.source == src && r.cls == cls && r.tag == tag &&
      r.asid == pre.me.task.asid.toNat && !taken r.seq)).map (·.seq)
    let r : Recv := ⟨s.seq, cls, src, tag, sync, hit⟩
    s.seqd.modMe (fun t => { t with recvs := t.recvs ++ [r] })

/-- RECV (R207, R318, R326). -/
def semRecv (o : XM) : WordSem :=
  let w := xferWord (.recv o) o.g [o.a] (fun s => recvFates s o.cls.toNat (s.addr o.a))
    (fun s =>
      let a := s.addr o.a
      causeIf (descOk s a && recvBad s a) (mkCause 7 .X .illegalOperand) ++ alignCauses .X a 32 ++
      (if descOk s a && !recvBad s a then alignCauses .X (s.load (a + 8) 8) 8 else []))
    (postRecv o)
  { w with
    nonIdem := true
    stalls := fun s => w.stalls s || s.onPath s.cur .localPath
    causes := fun s => w.causes s ++ storedCauses s .X (s.addr o.a)
    precise := fun s => keptLoss s o }

/-- FSLOT (R208): the wait ends when the count begins slot `n`. -/
def semFslot (o : XT) : WordSem :=
  { xferWord (.fslot o) o.g [] noFates (fun _ => []) (fun _ s => s) with
    dueWait := true
    begins := fun s => s.modMe (fun t => { t with fslot := some o.slot.toNat })
    waits := fun s => s.me.fslot.isSome }

/-! ### Meanings: each word alone in its bundle (R45, R381) -/

/-- LNCNT (R198). -/
def execLncnt (o : XN) (s : State) : Host.Outcome State Fault Refusal := runWord (semLncnt o) s

/-- LNSTR (R198). -/
def execLnstr (o : XS) (s : State) : Host.Outcome State Fault Refusal := runWord (semLnstr o) s

/-- BCOPY (R199). -/
def execBcopy (o : XB) (s : State) : Host.Outcome State Fault Refusal := runWord (semBcopy o) s

/-- SBIND (R203). -/
def execSbind (o : XP) (s : State) : Host.Outcome State Fault Refusal := runWord (semSbind o) s

/-- SUNB (R203). -/
def execSunb (o : XPU) (s : State) : Host.Outcome State Fault Refusal := runWord (semSunb o) s

/-- SAEGO (R205). -/
def execSaego (o : XA) (s : State) : Host.Outcome State Fault Refusal := runWord (semSaego o) s

/-- SAEF (R206). -/
def execSaef (o : XF) (s : State) : Host.Outcome State Fault Refusal := runWord (semSaef o) s

/-- SEND (R207). -/
def execSend (o : XM) (s : State) : Host.Outcome State Fault Refusal := runWord (semSend o) s

/-- RECV (R207). -/
def execRecv (o : XM) (s : State) : Host.Outcome State Fault Refusal := runWord (semRecv o) s

/-- SYNCI (R192). -/
def execSynci (o : XQ) (s : State) : Host.Outcome State Fault Refusal := runWord (semSynci o) s

/-- FSLOT (R208). -/
def execFslot (o : XT) (s : State) : Host.Outcome State Fault Refusal := runWord (semFslot o) s

end Sys2Proof.Machine
end

