-- ==== Sys2Proof/Machine/Code.lean ====
section
/-! DEFINITION. Sys2Proof/Machine/Code.lean: the erasure code of fabric messages: fragments, parity and decoding (R305, R307,
R308). -/

namespace Sys2Proof.Machine

/-- Multiplication by x in GF(2^8) (R307). -/
def gfX (a : Nat) : Nat := if a < 128 then 2 * a else (2 * a) ^^^ 0x11D

/-- Multiplication by the low `n` bits of `b`. -/
def gfMulN : Nat → Nat → Nat → Nat
  | 0, _, _ => 0
  | n + 1, a, b => (if b % 2 = 1 then a else 0) ^^^ gfMulN n (gfX a) (b / 2)

/-- Multiplication in GF(2^8). -/
def gfMul (a b : Nat) : Nat := gfMulN 8 a b

/-- `a` to the power `2^n - 2`. -/
def gfPow : Nat → Nat → Nat
  | 0, _ => 1
  | n + 1, a => let b := gfMul a a; gfMul b (gfPow n b)

/-- The inverse: the 254th power. -/
def gfInv (a : Nat) : Nat := gfPow 7 a

/-- The coefficient c(j, i) of R307. -/
def coef (j i : Nat) : Nat := gfInv ((16 + j) ^^^ i)

/-- Fragment payload bytes F of a message of `len` bytes over `k` fragments. -/
def fragBytes (len k : Nat) : Nat := ((len + k - 1) / k + 63) / 64 * 64
/-- Block-header bytes G of a fragment. -/
def headBytes (f : Nat) : Nat := 64 * ((f + 2047) / 2048)

/-- `n` entries of a list, padded. -/
def padTo (n z : Nat) (xs : List Nat) : List Nat := (List.range n).map (fun i => xs.getD i z)

/-- The data fragments of a message: its bytes and its blocks' headers (R305). -/
def dataFrags (k len : Nat) (bytes heads : List Nat) : List (List Nat) :=
  let f := fragBytes len k
  (List.range k).map (fun i =>
    padTo f 0 ((bytes.take len).drop (i * f)) ++
    padTo (headBytes f) 0 (((List.range (f / 64)).map (fun b =>
      let n := i * (f / 64) + b
      if 64 * n < len then heads.getD n 0 else 0)).flatMap (fun h => [h % 256, h / 256])))

/-- The sum of two rows of bytes with a factor. -/
def addScaled (c : Nat) (xs ys : List Nat) : List Nat := (xs.zip ys).map (fun (x, y) => x ^^^ gfMul c y)

/-- Parity fragment `j` (R307). -/
def parityFrag (j : Nat) (ds : List (List Nat)) : List Nat :=
  ds.zipIdx.foldl (fun acc (d, i) => addScaled (coef j i) acc d) ((ds.headD []).map (fun _ => 0))

/-- All `k + m` fragments of a message. -/
def allFrags (k m len : Nat) (bytes heads : List Nat) : List (List Nat) :=
  let ds := dataFrags k len bytes heads
  ds ++ (List.range m).map (fun j => parityFrag j ds)

/-- The row of the code matrix for a fragment index. -/
def codeRow (k idx : Nat) : List Nat :=
  (List.range k).map (fun i => if idx < k then (if i = idx then 1 else 0) else coef (idx - k) i)

/-- One elimination step: solved rows and rows still to solve, for column `c`. -/
def solveStep (st : List (List Nat × List Nat) × List (List Nat × List Nat)) (c : Nat) :
    List (List Nat × List Nat) × List (List Nat × List Nat) :=
  match st.2.find? (fun r => r.1.getD c 0 != 0) with
  | none => st
  | some r =>
    let v := gfInv (r.1.getD c 0)
    let p : List Nat × List Nat := (r.1.map (gfMul v), r.2.map (gfMul v))
    let sub (x : List Nat × List Nat) : List Nat × List Nat :=
      (addScaled (x.1.getD c 0) x.1 p.1, addScaled (x.1.getD c 0) x.2 p.2)
    (st.1.map sub ++ [p], (st.2.erase r).map sub)

/-- The data fragments rebuilt from `k` fragments, each with its index (R308). -/
def solveFrags (k : Nat) (frags : List (Nat × List Nat)) : List (List Nat) :=
  (((List.range k).foldl solveStep ([], frags.map (fun (i, d) => (codeRow k i, d)))).1).map (·.2)

/-- Message bytes and block headers from the data fragments. -/
def joinFrags (len f : Nat) (ds : List (List Nat)) : List Nat × List Nat :=
  ((ds.flatMap (·.take f)).take len,
   ds.flatMap (fun d => (List.range (f / 64)).map (fun b => d.getD (f + 2 * b) 0 + 256 * d.getD (f + 2 * b + 1) 0)))

end Sys2Proof.Machine
end

