-- ==== Sys2Proof/Machine/Units.lean ====
section
/-! DEFINITION. Sys2Proof/Machine/Units.lean: the units that work behind the program: copies, stream ports, the row-buffer
feed and the scatter-accumulate engine, and the release of a member (R200 to R206, R246, R251, R258, R319). -/

namespace Sys2Proof.Machine

/-- The domain bit of the bank an address lies in. -/
def bankBit (a : Nat) : Nat := match areaOf a with | .scratch _ b => domDb b | _ => 0

/-- The tag identity of a unit's work: ASID, gang slot, member. -/
structure Ident where
  asid   : BitVec 12
  gslot  : BitVec 4
  member : BitVec 10
  deriving DecidableEq, Repr

/-- The identity of a stream. -/
def State.ident (s : State) (i : Sid) : Ident := let t := (s.str i).task; ⟨t.asid, t.gslot, t.member⟩

/-- The tag fault of an access to a block. -/
def State.unitTag (s : State) (d : Ident) (blk : Nat) (k : TagKind) : Option XFault :=
  (s.tagCause d.asid d.gslot d.member 0 [(blk, k)]).map (fun c => ⟨c.code, c.addr, c.aux⟩)

/-- The late fault of reading a block that `v` has laid out: stored error, ownership, the format that `need` finds missing, race
(R177, R202). -/
def State.readFault (s v : State) (d : Ident) (need : BitVec 16 → Option Nat) (blk : Nat) : Option XFault :=
  if s.isBad (s.phys d.asid blk) then some ⟨.uncorrectable, blk, 0⟩
  else if s.peerFails blk then some ⟨.domainNotOwned, blk, bankBit blk⟩
  else match need (v.hdrOf blk) with
    | some f => some ⟨.format, blk, (v.hdrOf blk).toNat + f * 2 ^ 16⟩
    | none => s.unitTag d blk .read

/-- The late fault of writing a block: a stored error that its tag check reads, ownership, race (R358). -/
def State.writeFault (s : State) (d : Ident) (blk : Nat) : Option XFault :=
  if isChecked blk && s.isBad (s.phys d.asid blk) then some ⟨.uncorrectable, blk, 0⟩
  else if s.peerFails blk then some ⟨.domainNotOwned, blk, bankBit blk⟩ else s.unitTag d blk .write

/-- Does a fault leave the block without usable data? A race does not (R202). -/
def XFault.poisons (f : XFault) : Bool := f.code != .modelRace

/-- The tag transitions of a unit's accesses. -/
def State.unitTags (s : State) (d : Ident) (k : TagKind) (blks : List Nat) : State :=
  s.applyTags d.asid d.gslot d.member (blks.map (·, k))

/-! ### Writing blocks for a unit -/

/-- Insert a row write before the placeholder of a copy, or at the end. -/
def insertRowOp (id : Nat) (o : RowOp) : List RowOp → List RowOp
  | [] => [o]
  | p :: ps => if p.row = o.row ∧ p.acc = some id then o :: p :: ps else p :: insertRowOp id o ps

/-- Take the blocks that a unit of stream `i` has written back to where they stand: a tile row of this core lands when the writes
before it have, with the bits that `mask` gives. -/
def State.unitUnview (s : State) (d : Ident) (i : Sid) (id : Nat) (mask : Nat → BitVec 512) (v : State) (bs : List Nat) : State :=
  (s.unview d.asid (insertRowOp id) (fun b k p h => some ⟨i, k, mask b, p, .fixed h, true, true, 0, s.seq, none, true⟩) v bs).seqd

/-- The blocks an element write touches. -/
def ElemWrite.blocks (e : ElemWrite) : List Nat := blocksOf (e.bit / 8) ((e.bit % 8 + e.w + 7) / 8)

/-- Element writes of a unit, with the header of every block they touch. -/
def State.unitWrites (s : State) (ws : List ElemWrite) : State :=
  let s := s.applyWrites ws
  ws.foldl (fun s e => (e.blocks.drop 1).foldl (fun s b => s.setHdr b e.hdr) s) s

/-! ### Copies (R199 to R202) -/

/-- The index vector of block `n` of a copy, and the origin and destination it gives. -/
def copyOrigin (c : Copy) (n d : Nat) : Int :=
  (c.levels.zip (levelsIdx c.levels n)).foldl (fun (a : Int) (p : SeqLvl × Nat) =>
    if p.1.d = d then a + (p.2 : Int) * p.1.u else a) (shOrg c.src d)

/-- The destination base of block `n`. -/
def copyBase (c : Copy) (n : Nat) : Int :=
  (c.levels.zip (levelsIdx c.levels n)).foldl (fun (a : Int) (p : SeqLvl × Nat) => a + (p.2 : Int) * p.1.w) (shBase c.dst)

/-- The index of element (a, b) of block `n`. -/
def copyElem (c : Copy) (n a b : Nat) : List Int :=
  (List.range 8).map (fun d => copyOrigin c n d + (if d = 0 then (a : Int) else if d = 1 then (b : Int) else 0))

/-- The destination bit of element (a, b) of block `n`. -/
def copyDest (c : Copy) (n a b : Nat) : Nat :=
  (((copyBase c n + (b : Int) * dstRow c.dst) * 8 + ((a * moveBits (shFmt c.dst) : Nat) : Int)) % (2 ^ 67 : Nat)).toNat

/-- One piece of a block: an element, or in a verbatim copy a whole destination block; with its source's bit address. -/
structure CopyPiece where
  dst : Nat
  src : Option Nat
  deriving DecidableEq, Repr

/-- The pieces of block `n`. -/
def copyPieces (c : Copy) (verb : Bool) (n : Nat) : List CopyPiece :=
  let step := if verb then movePer (shFmt c.src) else 1
  (List.range (shE1 c.src)).flatMap (fun b => (List.range (shE0 c.src / step)).map (fun a =>
    ⟨copyDest c n (step * a) b, elemPos c.src (copyElem c n (step * a) b)⟩))

/-- The element write of a piece of a converting copy (R200, RNE). -/
def State.copyWrite (v : State) (c : Copy) (p : CopyPiece) : ElemWrite :=
  let sf := shFmt c.src
  let df := shFmt c.dst
  let (h, x) := match p.src with
    | some q => (if sf = 1 then mkHdr 1 else v.hdrOf (blockOf (q / 8)), v.memBits q (moveBits sf))
    | none => (mkHdr sf, shPad c.src)
  ⟨p.dst, moveBits df, convElem h sf x df 0 0, if df = 2 ∧ elemNan h sf x then 0xFF20 else mkHdr df⟩

/-- Write one piece of a verbatim copy, as `v` reads its source. -/
def State.copyBlockWrite (v : State) (c : Copy) (s : State) (p : CopyPiece) : State :=
  match p.src with
  | some q => (s.store (p.dst / 8) (toBytes 64 (v.load (q / 8) 64))).setHdr (p.dst / 8) (v.hdrOf (q / 8))
  | none =>
    let f := shFmt c.src
    (s.store (p.dst / 8) (toBytes 64 (packElems (moveBits f) (List.replicate (movePer f) (shPad c.src))))).setHdr
      (p.dst / 8) (mkHdr (shFmt c.dst))

/-- The blocks a piece writes. -/
def CopyPiece.writes (c : Copy) (verb : Bool) (p : CopyPiece) : List Nat :=
  if verb then [p.dst / 8] else ElemWrite.blocks ⟨p.dst, moveBits (shFmt c.dst), 0, 0⟩

/-- The source block of a piece. -/
def CopyPiece.reads (p : CopyPiece) : List Nat := match p.src with | some q => [blockOf (q / 8)] | none => []

/-- Write the pieces of a block into memory as `v` reads their sources; blocks that draw from a poisoned source become
NONE and zero (R202). -/
def State.copyPut (s v : State) (c : Copy) (verb : Bool) (ps : List CopyPiece) (poison : List Nat) : State :=
  let (bad, good) := ps.partition (fun p => p.reads.any poison.contains)
  let s := if verb then good.foldl (State.copyBlockWrite v c) s else s.unitWrites (good.map (v.copyWrite c))
  ((bad.flatMap (·.writes c verb)).eraseDups).foldl (fun s b => (s.store b (List.replicate 64 0)).setHdr b 0) s

/-- Bytes a block posts (R200). -/
def copyPost (c : Copy) : Nat := shE0 c.src * shE1 c.src * moveBits (shFmt c.dst) / 8

/-- The messages of one block of a fabric-scope copy, from memory that holds its destination (R319): each row is cut into
pieces of at most 4096 × k bytes. -/
def State.copyMessages (v : State) (c : Copy) (n k m : Nat) (retx : Bool) (deadline : Nat) : List Sent :=
  let row := (shE0 c.src * moveBits (shFmt c.dst) + 7) / 8
  let lim := min 65536 (4096 * k)
  (List.range (shE1 c.src)).flatMap (fun b =>
    let a := copyDest c n 0 b / 8
    (List.range ((row + lim - 1) / lim)).map (fun j =>
      let at' := a + j * lim
      let len := min lim (row - j * lim)
      let heads := (List.range ((len + 63) / 64)).map (fun x => (v.hdrOf (blockOf (at' + 64 * x))).toNat)
      let frags := allFrags k m len ((v.bytes at' len).map (·.toNat)) heads
      { id := 0, sid := c.sid, asid := c.asid, gslot := c.gslot, member := c.member, cls := 0, seq := 0,
        dest := field a 40 15, offset := field at' 0 40, tag := 0, len, deadline, k, m, retx, src := 0, readAt := 0,
        read := true, frags := frags.map (·.map (BitVec.ofNat 8)), copy := some c.id, live := true, asked := false }))

/-- Queue messages, numbered in order. -/
def State.queueMessages (s : State) (ms : List Sent) : State :=
  ms.foldl (fun s x =>
    { s.seqd with fabric := s.fabric.post s.now { x with id := s.seq, seq := s.nextSeq x.cls } }) s

/-- Change a copy. -/
def State.modCopy (s : State) (id : Nat) (f : Copy → Copy) : State :=
  { s with copies := s.copies.map (fun c => if c.id = id then f c else c) }

/-- Post bytes of a copy to its sync word, and its ring entry when it is complete (R201). -/
def State.copyPosted (s : State) (id bytes : Nat) : State :=
  let s := s.modCopy id (fun c => { c with posted := c.posted + bytes })
  match s.copies.find? (fun c => c.id == id) with
  | none => s
  | some c =>
    let s := match c.sync with | some a => s.unitSync c.sid a bytes | none => s
    if c.done.length = c.total ∧ ¬ s.fabric.sent.any (fun x => x.copy == some id) then s.endCopy c else s

/-- The format that a copy finds missing in a source block: a verbatim copy interprets no header (R183, R211, R217). -/
def copyNeeds (verb : Bool) (fmt : Nat) (h : BitVec 16) : Option Nat := if verb || convReads fmt h then none else some fmt

/-- The tile rows of this core among some blocks. -/
def State.tileRowsOf (s : State) (bs : List Nat) : List Nat :=
  bs.filterMap (fun b => match areaOf b with
    | .tile c t r => if c = s.coreNo.toNat then some (64 * t + r) else none
    | _ => none)

/-- The blocks that block `n` of a copy writes. -/
def copyWrites (c : Copy) (n : Nat) : List Nat :=
  let verb := copyVerbatim c.src c.dst c.levels
  ((copyPieces c verb n).flatMap (·.writes c verb)).eraseDups

/-- The rows of a copy that no remaining block writes are pending for it no longer (R32). -/
def State.freeRows (s : State) (id : Nat) : State :=
  match s.copies.find? (fun c => c.id == id) with
  | none => s
  | some c =>
    if !s.rowOps.any (fun o => o.acc == some id) then s
    else
      let left := s.tileRowsOf (((List.range c.total).filter (fun n => !c.done.contains n)).flatMap (copyWrites c))
      { s with rowOps := s.rowOps.filter (fun o => o.acc != some id || left.contains o.row) }

/-- One block of a copy: its source is read, its destination written, its bytes posted (R200 to R202). -/
def State.copyBlock (s : State) (c : Copy) (n : Nat) : State :=
  let d : Ident := ⟨c.asid, c.gslot, c.member⟩
  let verb := copyVerbatim c.src c.dst c.levels
  let ps := copyPieces c verb n
  let rd := (ps.flatMap (·.reads)).eraseDups
  let v := s.view c.asid rd
  let rf := rd.filterMap (fun b => (s.readFault v d (copyNeeds verb (shFmt c.src)) b).map (fun f => (b, f)))
  let poison := (rf.filter (fun p => p.2.poisons)).map (·.1)
  let s := ({ s with free := v.free } : State).unitTags d .read rd
  let note (s : State) (fs : List XFault) : State :=
    ((s.transferFaults c.sid fs).modCopy c.id (fun c => { c with
      done := n :: c.done, flying := c.flying.filter (fun p => p.1 != n),
      fault := c.fault.orElse (fun _ => fs.head?.map (·.code)) })).freeRows c.id
  if c.fabric then
    let w := s.copyPut v c verb ps poison
    let (k, m, rt) := s.rate 0
    note (s.queueMessages (w.copyMessages c n k m rt (s.fabric.period + 2))) (rf.map (·.2))
  else
    let wr := copyWrites c n
    let wf := wr.filterMap (fun b => (s.writeFault d b).map (fun f => (b, f)))
    let shut := (wf.filter (fun p => p.2.poisons)).map (·.1)
    let s := s.unitTags d .write (wr.filter (fun b => !shut.contains b))
    let open' := ps.filter (fun p => !(p.writes c verb).any shut.contains)
    let mask (b : Nat) : BitVec 512 :=
      if verb || ps.any (fun p => p.reads.any poison.contains && (p.writes c verb).contains b) then BitVec.allOnes 512
      else writeMask b (ps.map (fun p => ⟨p.dst, moveBits (shFmt c.dst), 0, 0⟩))
    let s := s.unitUnview d c.sid c.id mask ((s.view c.asid wr).copyPut v c verb open' poison)
      (wr.filter (fun b => !shut.contains b))
    (note s (rf.map (·.2) ++ wf.map (·.2))).copyPosted c.id (copyPost c)

/-- The least time of a block of a copy: its read and its write latency (R179, R200), those of a TLD of its rows (DESIGN CHOICE: R200 names
no class of R179; log 110). -/
def State.copyLatency (s : State) (c : Copy) (n : Nat) : Nat :=
  let far (bs : List Nat) : Nat := (bs.map (s.nominal c.sid true (shE1 c.src))).foldl max 0
  far (((copyPieces c (copyVerbatim c.src c.dst c.levels) n).flatMap (·.reads)).eraseDups) +
  (if c.fabric then 0 else far (copyWrites c n))

/-- The blocks of a copy that are not begun. -/
def Copy.left (c : Copy) : List Nat :=
  (List.range c.total).filter (fun n => !c.done.contains n && !c.flying.any (fun p => p.1 == n))

/-- Is a copy started: has it begun a block (R201)? -/
def Copy.started (c : Copy) : Bool := !c.done.isEmpty || !c.flying.isEmpty

/-- A block of a copy that may post now. -/
def State.copyDue (s : State) (c : Copy) : Option Nat := (c.flying.find? (fun p => decide (p.2 ≤ s.now))).map (·.1)

/-- May a copy begin a block? The stores it follows have performed, a request entry is free, and a copy not yet started does not
start while its stream is pre-empted (R181, R199, R345). -/
def State.copyBegins (s : State) (c : Copy) : Bool :=
  decide (c.next ≤ s.now) && !c.left.isEmpty && !s.workBehind c.sid ⟨c.id, c.scope⟩ && s.entriesFree 1 &&
  (c.started || !(s.str c.sid).stopped)

/-- A copy begins one of its remaining blocks, whichever; it posts at a free cycle, no earlier than its latencies allow (R200). -/
def State.copyBegin (s : State) (c : Copy) : State :=
  match c.left[Config.blockChoice s.free % c.left.length]? with
  | some n => s.drawn.modCopy c.id (fun c => { c with
      flying := c.flying ++ [(n, s.now + s.copyLatency c n + 1 + Config.unitDelay s.free)], next := s.now + 1 })
  | none => s

/-- A copy does one thing: a block in flight is done, or one begins. -/
def State.copyStep (s : State) (c : Copy) : State :=
  match s.copyDue c with
  | some n => s.copyBlock c n
  | none => if s.copyBegins c then s.copyBegin c else s

/-! ### Stream ports (R203) -/

/-- The index of the `n`-th element of a port's walk. -/
def walkIdx (sh : List W64) (n : Nat) : List Int :=
  ((List.range 8).foldl (fun (st : List Int × Nat) d =>
    let k := if d < shRank sh then ((shExt sh d : Int) - shOrg sh d).toNat else 1
    (st.1 ++ [shOrg sh d + ((st.2 % max k 1 : Nat) : Int)], st.2 / max k 1)) ([], n)).1

/-- An entry of an in-port from an element's stored bits (R203). -/
def entryBits (fmt x : Nat) : W64 :=
  match fmt with
  | 8 => (BitVec.ofNat 8 x).signExtend 64
  | 10 => (BitVec.ofNat 16 x).signExtend 64
  | 11 => (BitVec.ofNat 32 x).signExtend 64
  | _ => BitVec.ofNat 64 x

/-- What a read of an in-port entry of a block raises: its header, its bank, its stored error. -/
def portCause (f : XFault) : Cause :=
  match f.code with
  | .uncorrectable => { rank := 9, slot := 0, code := .uncorrectable, addr := f.addr, sub := 0x61 }
  | c => { rank := 10, slot := 0, code := c, addr := f.addr, aux := f.aux }

/-- The format that an in-port finds missing in a block: its own, at scale 127 (R203, R211). -/
def portNeeds (fmt : Nat) (h : BitVec 16) : Option Nat := if hInterp h && hFmt h == fmt && hScale h == 127 then none else some fmt

/-- The place of a port's binding. -/
def Port.place (p : Port) : Place := ⟨p.seq, p.scope⟩

/-- May a port begin a block: its stream's earlier stores have performed, and its request entries are free (R181, R255)? -/
def State.portBegins (s : State) (i : Sid) (p : Port) : Bool := !s.workBehind i p.place && s.entriesFree p.blocks

/-- A port's block leaves for memory: it is back at a free cycle after its latency (R179, R200). -/
def State.portFlies (s : State) (i : Sid) (k : Nat) (p : Port) (a : Nat) : State :=
  s.drawn.setPort i k (some { p with flying := true, next := s.now + s.nominal i false 1 a + Config.unitDelay s.free })

/-- The mark of a port's tag check at a place of its walk (R250). -/
def portMark (k pos b : Nat) : Nat × Nat × Nat := (pos, 256 + k, b)

/-- A race that the port of a stream meets at a block, but for one in a check that has passed there since the checkpoint (R250; log 96). -/
def Stream.newRace (t : Stream) (k pos b : Nat) (f : Option XFault) : Option XFault :=
  f.filter (fun x => x.code != .modelRace || !t.passed.contains (portMark k pos b))

/-- The tag check of a port has passed (R250). -/
def State.portPassed (s : State) (i : Sid) (k pos b : Nat) : State :=
  s.modStr i (fun t => { t with passed := portMark k pos b :: t.passed })

/-- The next element of a port's walk, where it lies in the tensor: its bit address. -/
def Port.element (p : Port) : Option Nat := elemPos p.shape (walkIdx p.shape p.pos)

/-- The element an in-port has fetched becomes its newest entry (R203). -/
def State.prefetched (s : State) (i : Sid) (k : Nat) (p : Port) : State :=
  let d := s.ident i
  let f := shFmt p.shape
  let put (s : State) (e : PEntry) : State :=
    s.drawn.setPort i k (some { p with
      pos := p.pos + 1, entries := p.entries ++ [e], next := s.now + 1 + Config.unitDelay s.free, flying := false })
  match p.element with
  | none => put s ⟨entryBits f (shPad p.shape), none⟩
  | some q =>
    let b := blockOf (q / 8)
    let v := s.view d.asid [b]
    let s' := ({ s with free := v.free } : State).unitTags d .read [b]
    let e := entryBits f (v.memBits q (moveBits f))
    match (s.str i).newRace k p.pos b (s.readFault v d (portNeeds f) b) with
    | some x => if x.poisons then put s' ⟨e, some (portCause x)⟩ else put (s'.transferFault i x) ⟨e, none⟩
    | none => (put s' ⟨e, none⟩).portPassed i k p.pos b

/-- An in-port does one thing: its block goes out, or its element arrives; a pad element needs no block. -/
def State.prefetch (s : State) (i : Sid) (k : Nat) (p : Port) : State :=
  match p.flying, p.element with
  | false, some q => if s.portBegins i p then s.portFlies i k p (q / 8) else s
  | _, _ => s.prefetched i k p

/-- An out-port's oldest fed entry is written; past the end of its walk it is discarded with a transfer fault. -/
def State.portWritten (s : State) (i : Sid) (k : Nat) (p : Port) (x : W64) : State :=
  let d := s.ident i
  let f := shFmt p.shape
  let rest := p.fed.drop 1
  let p' : Port := { p with pos := p.pos + 1, fed := rest, next := s.now + 1 + Config.unitDelay s.free, flying := false }
  let s := s.drawn.setPort i k (if p.closing && rest.isEmpty then none else some p')
  if walkTotal p.shape ≤ p.pos then s.transferFault i ⟨.permission, shBase p.shape, 0⟩
  else match p.element with
    | none => s
    | some q =>
      let w : ElemWrite := ⟨q, moveBits f, x.toNat % 2 ^ moveBits f, mkHdr f⟩
      let b := blockOf (q / 8)
      let fault := (s.str i).newRace k p.pos b (s.writeFault d b)
      let s := match fault with | some y => s.transferFault i y | none => s.portPassed i k p.pos b
      if fault.any (·.poisons) then s
      else
        let s := s.unitTags d .write w.blocks
        s.unitUnview d i 0 (fun b => writeMask b [w]) ((s.view d.asid w.blocks).unitWrites [w]) w.blocks

/-- An out-port does one thing: its block goes out, or its oldest entry is written. -/
def State.portWrite (s : State) (i : Sid) (k : Nat) (p : Port) (x : W64) : State :=
  match p.flying, (if walkTotal p.shape ≤ p.pos then none else p.element) with
  | false, some q => if s.portBegins i p then s.portFlies i k p (q / 8) else s
  | _, _ => s.portWritten i k p x

/-! ### The row-buffer feed (R204) -/

/-- The 16 blocks of the next fill: tile rows from the position on; none is pad. -/
def feedBlocks (p : Port) : List (Option Nat) :=
  (List.range 16).map (fun j => (elemPos p.shape (tileIdx p.shape 0 (p.pos + j))).map (fun q => blockOf (q / 8)))

/-- The rows of a fill arrive: the half is full. A tag check that has passed finds no race when the fill is made again (R250; log 96). -/
def State.feedArrive (s : State) (i : Sid) (p : Port) : State :=
  let d := s.ident i
  let f := shFmt p.shape
  let bs := feedBlocks p
  let v := s.view d.asid (bs.filterMap id)
  let found (b : Nat) : Option XFault := (s.str i).newRace 7 p.pos b (s.readFault v d (copyNeeds false f) b)
  let faults := (bs.filterMap id).filterMap found
  let clear := (bs.filterMap id).filter (fun b => (found b).isNone)
  let s := clear.foldl (fun s b => s.portPassed i 7 p.pos b) (({ s with free := v.free } : State).unitTags d .read (bs.filterMap id))
  let rows := bs.map (fun b => match b with
    | some b => (BitVec.ofNat 512 (v.load b 64), v.hdrOf b)
    | none => (BitVec.ofNat 512 (packElems (moveBits f) (List.replicate (movePer f) (shPad p.shape))), mkHdr f))
  let bad := match faults.find? (·.poisons) with
    | some x => some { portCause x with slot := Slot.M.idx }
    | none => (matFormatCauses (rows.map (·.2))).head?
  let s := s.transferFaults i (faults.filter (fun x => !x.poisons))
  let p' : Port := { p with pos := p.pos + 16, next := s.now + 1 + Config.unitDelay s.free, flying := false }
  let s := s.drawn.setPort i 7 (if p.closing then none else some p')
  let s := s.journal i (.rowBuf s.active s.shadow s.pass)
  { s with shadow := { st := .full, rows, fmt := hFmt ((rows.headD (0, 0)).2), counter := 0, prof := 0, readyAt := 0, bad } }

/-- The feed begins a fill of the empty shadow half, or its rows arrive. -/
def State.feedStep (s : State) (i : Sid) (p : Port) : State :=
  if s.shadow.st = .filling ∧ s.shadow.readyAt = 0 then s.feedArrive i p
  else if s.shadow.st = .empty ∧ p.pos < shE1 p.shape ∧ ¬ p.closing ∧ s.portBegins i p = true then
    let s := s.journal i (.rowBuf s.active s.shadow s.pass)
    { s.drawn with shadow := { Half.empty with st := .filling } }.setPort i 7
      (some { p with flying := true, next := s.now + s.nominal i true 16 (((feedBlocks p).filterMap id).headD 0) + Config.unitDelay s.free })
  else s

/-! ### The scatter-accumulate engine (R205, R206) -/

/-- What taking an entry from a port answers. -/
inductive Take where
  | wait
  | gone
  | got (e : PEntry)
  deriving DecidableEq, Repr

/-- The entry the SAE would take from a port. -/
def Stream.takeFrom (t : Stream) (k : Nat) : Take :=
  match t.port k with
  | some p =>
    if p.kind ≠ .input then .gone
    else match p.entries with
      | e :: _ => .got e
      | [] => if walkTotal p.shape ≤ p.pos then .gone else .wait
  | none => .gone

/-- Take the head of a port for the SAE. -/
def Stream.tookFrom (t : Stream) (k : Nat) : Stream :=
  { t with ports := SMap.set none t.ports k ((t.port k).map (fun p => { p with entries := p.entries.drop 1, sae := p.sae - 1 })) }

/-- Replace the head submission. -/
def Stream.saeHead (t : Stream) (x : Option SaeSub) : Stream :=
  { t with sae := { t.sae with subs := (match x with | some y => [y] | none => []) ++ t.sae.subs.drop 1 } }

/-- Add an update to the open window; the 64th closes it. -/
def Stream.saeAdd (t : Stream) (u : Nat × W32) (at' : Place) : Stream :=
  let o := t.sae.opened ++ [u]
  if 64 ≤ o.length then { t with sae := { t.sae with opened := [], items := t.sae.items ++ [.window o at'], last := at' } }
  else { t with sae := { t.sae with opened := o, last := at' } }

/-- Close the open window, and note the sync word to count after it. -/
def Stream.saeClose (t : Stream) (sync : Option Nat) (at' : Place) : Stream :=
  { t with sae := { t.sae with
    opened := []
    items := t.sae.items ++ (if t.sae.opened.isEmpty then [] else [.window t.sae.opened t.sae.last]) ++
      (match sync with | some a => [.flush a at'] | none => []) } }

/-- One step of collecting updates; none where the SAE waits for entries. Entries missing for good end a submission with a
transfer fault, as does an entry that reads bad for its own update. -/
def State.saeTake (s : State) (i : Sid) : Option State :=
  let t := s.str i
  match t.sae.subs with
  | [] => none
  | .close sync at' :: _ => some (s.setStr i ((t.saeHead none).saeClose sync at'))
  | .updates ip vp base n at' :: _ =>
    let gone (k : Nat) : Option State :=
      let clear (t : Stream) (k : Nat) : Stream :=
        { t with ports := SMap.set none t.ports k ((t.port k).map (fun p => { p with sae := p.sae - n })) }
      some ((s.setStr i (clear (clear (t.saeHead none) ip) vp)).transferFault i ⟨.streamUnbound, base, k⟩)
    match t.takeFrom ip with
    | .wait => none
    | .gone => gone ip
    | .got e =>
      let t1 := t.tookFrom ip
      match t1.takeFrom vp with
      | .wait => none
      | .gone => gone vp
      | .got v =>
        let t2 := (t1.tookFrom vp).saeHead (if n ≤ 1 then none else some (.updates ip vp base (n - 1) at'))
        match e.bad.orElse (fun _ => v.bad) with
        | some c => some ((s.setStr i t2).transferFault i ⟨c.code, c.addr, c.aux⟩)
        | none => some (s.setStr i (t2.saeAdd ((base + 4 * e.val.toNat) % 2 ^ 64, v.val.setWidth 32) at'))

/-- Collect every update whose entries have arrived. -/
def State.saeCollect : Nat → State → Sid → State
  | 0, s, _ => s
  | n + 1, s, i => match s.saeTake i with
    | some s => State.saeCollect n s i
    | none => s

/-- The number of steps that collecting can take. -/
def Stream.saeWork (t : Stream) : Nat :=
  t.sae.subs.length + (t.ports.foldl (fun a p => a + (p.2.map (fun q => q.entries.length)).getD 0) 0) + 1

/-- The fault of an update at an address: address, stored error, bank, header, race (R205). -/
def State.saeFault (s v : State) (i : Sid) (a : Nat) : Option XFault :=
  let b := blockOf a
  match s.addrFate i plainClasses .w a with
  | .bad c => some ⟨c, a, 0⟩
  | .fine =>
    if s.isBad (s.phys (s.asidOf i) b) then some ⟨.uncorrectable, b, 0⟩
    else if s.peerFails b then some ⟨.domainNotOwned, b, bankBit b⟩
    else if v.hdrOf b != 0x7F70 && v.hdrOf b != 0 then some ⟨.format, b, (v.hdrOf b).toNat + 7 * 2 ^ 16⟩
    else s.unitTag (s.ident i) b .atomic
  | _ => some ⟨.domainNotOwned, a, bankBit a⟩

/-- One merged group of a window: one rounded addition, or a transfer fault. A NONE block counts as zeros (R205, R217). -/
def State.saeGroup (s : State) (i : Sid) (a : Nat) (vs : List W32) : State :=
  let b := blockOf a
  let d := s.ident i
  let v := s.view d.asid [b]
  match s.saeFault v i a with
  | some f => ({ s with free := v.free } : State).transferFault i f
  | none =>
    let mask : BitVec 512 := if v.hdrOf b = 0 then BitVec.allOnes 512 else writeMask b [⟨8 * a, 32, 0, 0⟩]
    let s := s.unitTags d .atomic [b]
    let v := (s.view d.asid [b]).asZeros b 0x7F70
    let r := toF32 (exactSum (f32 (v.load a 4) :: vs.map (fun x => f32 x.toNat)))
    s.unitUnview d i 0 (fun _ => mask) (v.store a (toBytes 4 r)) [b]

/-- Apply the oldest closed window or count the oldest SAEF. -/
def State.saeApply (s : State) (i : Sid) : State :=
  let t := s.str i
  match t.sae.items with
  | [] => s
  | x :: xs =>
    let s := s.setStr i { t with sae := { t.sae with items := xs, flying := false } }
    match x with
    | .flush a _ => s.unitSync i a 1
    | .window ups _ =>
      ((ups.map (·.1)).eraseDups).foldl (fun s a => s.saeGroup i a ((ups.filter (fun u => u.1 == a)).map (·.2))) s

/-- The place of an item: the latest submission it holds. -/
def SaeItem.place : SaeItem → Place
  | .window _ p => p
  | .flush _ p => p

/-- May the SAE begin its oldest item: its stream's earlier stores and sync-word writes have performed, and its request entries are
free (R181, R192, R255)? -/
def State.saeBegins (s : State) (i : Sid) : Bool :=
  match (s.str i).sae.items with
  | x :: _ => !s.workBehind i x.place && s.entriesFree x.entries
  | [] => false

/-- One act of the SAE: it collects what has arrived, then begins its oldest item, or applies the one in flight. -/
def State.saeStep (s : State) (i : Sid) : State :=
  let s := State.saeCollect (s.str i).saeWork s i
  let s := if (s.str i).sae.flying then s.saeApply i
    else if s.saeBegins i then s.modStr i (fun t => { t with sae := { t.sae with flying := true } })
    else s
  s.drawn.modStr i (fun t => { t with sae := { t.sae with next := s.now + 1 + Config.unitDelay s.free } })

/-- Has the SAE something to do? -/
def State.saeReady (s : State) (i : Sid) : Bool := (s.str i).sae.flying || s.saeBegins i || (s.saeTake i).isSome

/-! ### Sends read their source (R270) -/

/-- A SEND reads its source: Read tags, pending transfer faults, poisoned blocks as NONE and zero; its fragments are built
(R305). -/
def State.readSend (s : State) (x : Sent) : State :=
  let d : Ident := ⟨x.asid, x.gslot, x.member⟩
  let bs := blocksOf x.src x.len
  let v := s.view x.asid bs
  let fs := bs.filterMap (fun b => (s.readFault v d (fun _ => none) b).map (fun f => (b, f)))
  let bad := (fs.filter (fun p => p.2.poisons)).map (·.1)
  let byte (a : Nat) : Nat := if bad.contains (blockOf a) then 0 else (v.byte a).toNat
  let heads := bs.map (fun b => if bad.contains b then 0 else (v.hdrOf b).toNat)
  let frags := (allFrags x.k x.m x.len ((List.range x.len).map (fun j => byte (x.src + j))) heads).map (·.map (BitVec.ofNat 8))
  let s := (({ s with free := v.free } : State).unitTags d .read bs).transferFaults x.sid (fs.map (·.2))
  let built (y : Sent) : Sent := if y.id = x.id then { y with read := true, frags } else y
  { s with fabric := { s.fabric with sent := s.fabric.sent.map built } }

/-! ### The release of a member (R100, R288, R342, R352) -/

/-- What a stream's units have begun is finished at once, at a time of the model's choice (R201, R202, R205). -/
def State.drainUnits (s : State) (i : Sid) : State :=
  let s := (s.accs.filter (fun a => a.sid == i && !a.done && !(match a.op with
    | .tld .. => true | .tlda .. => true | .ld .. => true | .ldh .. => true | .tagr .. => true | _ => false))).foldl (fun s a => s.performAccess a) s
  let s := { s with accs := s.accs.filter (fun a => a.sid != i), copies := s.copies.filter (fun c => c.sid != i || c.started) }
  let s := (s.copies.filter (fun c => c.sid == i)).foldl (fun s c =>
    ((List.range c.total).filter (fun n => !c.done.contains n)).foldl (fun s n => s.copyBlock c n) s) s
  let s := (s.fabric.sent.filter (fun x => x.sid == i && !x.read)).foldl State.readSend s
  let keep := s.copies.filter (fun c => c.sid != i)
  let sent := s.fabric.sent.map (fun x => if keep.any (fun c => x.copy == some c.id) then x else { x with copy := none })
  let s : State := { s with copies := keep, fabric := { s.fabric with sent } }
  let s := [0, 1, 2, 3, 4, 5, 6, 7].foldl (fun s k => match (s.str i).port k with
    | some p => if p.kind = .output then p.fed.foldl (fun s x => match (s.str i).port k with
        | some q => s.portWritten i k q x
        | none => s) s else s
    | none => s) s
  (s.str i).sae.items.foldl (fun s _ => s.saeApply i) s

/-- Release what a member holds: what its units began ends, its domains sleep, its tiles are free, the stream runs no
task. -/
def State.releaseMember (s : State) (i : Sid) : State :=
  let s := (s.drainUnits i).sleepAll i
  let s : State := { s with fabric := { s.fabric with
    sent := s.fabric.sent.map (fun x => if x.sid = i then { x with live := false } else x) } }
  { s with rowOps := s.rowOps.filter (fun o => o.sid != i), maskOps := s.maskOps.filter (fun o => o.sid != i),
           xvOps := s.xvOps.filter (fun o => o.sid != i), busy := s.busy.filter (fun b => b.sid != i), saved := s.saved.filter (fun c => c.sid != i) }.setStr i Stream.idle

/-- The plan step that a stream's task came from, for its event. -/
def Task.step (t : Task) : PlanStep := ⟨t.queue, t.stepNo, t.asid, [0, 0, 0, 0, 0, 0, 0, t.event], []⟩

/-- Discard a gang's context on this core with a status (R288, R342, R352). -/
def State.discard (s : State) (i : Sid) (st : EvStatus) (fault : Nat) : State :=
  let t := (s.str i).task
  let count := t.ended + (if 1 < t.members.toNat then Config.peersEnded s.free else 0)
  let s := (s.drawn.releaseMember i).endStep t.step st fault count
  s.endPhase t.asid t.gslot.toNat

end Sys2Proof.Machine
end

