-- ==== Sys2Proof/Machine/Events.lean ====
section
/-! DEFINITION. Sys2Proof/Machine/Events.lean: the events of the core and of the units behind the program: landings, arrivals,
accesses at their banks, replays and rewinds, checkpoints, barriers, domains, copies, ports, the SAE and refresh. -/

namespace Sys2Proof.Machine

/-- An event's outcome is a next state. -/
abbrev Out := Host.Outcome State Fault Refusal

/-! ### Landing (R25, R31, R32, R130) -/

/-- Land the row writes that are due, in issue order on each row; `held` are rows with an earlier write still in flight. -/
def landRows (s : State) (held : List Nat) : List RowOp → State × List RowOp
  | [] => (s, [])
  | o :: os =>
    if o.ready && decide (o.due ≤ s.now) && !held.contains o.row then
      landRows (s.landRow o) held os
    else
      let r := landRows s (o.row :: held) os
      (r.1, o :: r.2)

/-- Land the mask writes that are due, in issue order on each mask. -/
def landMasks (s : State) (held : List Nat) : List MaskOp → State × List MaskOp
  | [] => (s, [])
  | o :: os =>
    if decide (o.due ≤ s.now) && !held.contains o.m then
      let s := s.journalSeq o.sid o.seq (.mask o.m (SMap.get 0 s.masks o.m))
      landMasks { s with masks := SMap.set 0 s.masks o.m o.val } held os
    else
      let r := landMasks s (o.m :: held) os
      (r.1, o :: r.2)

/-- Land the VDOT results that are due, in issue order (R148). -/
def landXvs (s : State) : State :=
  let (due, left) := s.xvOps.partition (fun o => decide (o.due ≤ s.now))
  due.foldl (fun s o =>
    let s := s.journalSeq o.sid o.seq (.xv o.xv (SMap.get Acc.clear s.xvs o.xv))
    { s with xvs := SMap.set Acc.clear s.xvs o.xv o.val }) { s with xvOps := left }

/-- Land a stream's scalar results that are due, in issue order. -/
def State.landScalars (s : State) (i : Sid) : State :=
  let due := (s.str i).flights.filter (fun f => decide (f.due ≤ s.now))
  let s := s.modStr i (fun t => { t with flights := t.flights.filter (fun f => !decide (f.due ≤ s.now)) })
  due.foldl (fun s f => s.landFlight i f) s

/-- A filling half whose rows are due is full (R159). -/
def State.landHalf (s : State) : State :=
  if s.shadow.st = .filling ∧ s.shadow.readyAt ≠ 0 ∧ s.shadow.readyAt ≤ s.now then
    { s with shadow := { s.shadow with st := .full, readyAt := 0 } }
  else s

/-- Everything that lands in this cycle lands. -/
def State.landAll (s : State) : State :=
  let s := (s.landScalars .prim).landScalars .sec
  let (s, ro) := landRows s [] s.rowOps
  let s := { s with rowOps := ro }
  let (s, mo) := landMasks s [] s.maskOps
  let s := landXvs { s with maskOps := mo, busy := s.busy.filter (fun b => !decide (b.due ≤ s.now)) }
  s.landHalf

/-- Can a row write land? -/
def rowLandable (now : Nat) (held : List Nat) : List RowOp → Bool
  | [] => false
  | o :: os => (o.ready && decide (o.due ≤ now) && !held.contains o.row) || rowLandable now (o.row :: held) os

/-- Is something to land in this cycle? -/
def State.landDue (s : State) : Bool :=
  s.prim.flights.any (fun f => decide (f.due ≤ s.now)) || s.sec.flights.any (fun f => decide (f.due ≤ s.now)) ||
  rowLandable s.now [] s.rowOps || s.maskOps.any (fun o => decide (o.due ≤ s.now)) ||
  s.xvOps.any (fun o => decide (o.due ≤ s.now)) || s.busy.any (fun b => decide (b.due ≤ s.now)) ||
  (s.shadow.st == .filling && s.shadow.readyAt != 0 && decide (s.shadow.readyAt ≤ s.now))

/-- LAND (R25). -/
def execLand (s : State) : Out := .next s.landAll

/-! ### Accesses (R178, R180, R380) -/

/-- An access of this machine. -/
def State.access (s : State) (id : Nat) : Option Access := s.accs.find? (fun a => a.id == id)

/-- ITEM_ARRIVAL (R180): the item of an access that has performed arrives. -/
def execItemArrival (id : Nat) (s : State) : Out :=
  match s.access id with
  | some a => .next (if a.done then s.arriveAccess a else s)
  | none => .next s

/-- May an access perform now: its cycle has come and nothing earlier that orders it is left (R178, R253, R254)? A push reaches its
mailbox then, and lands one cycle later at the earliest, so that a pop of the same cycle goes first (R22); with no room it waits,
after the cycle in which it arrived (R23). -/
def State.accReady (s : State) (a : Access) : Bool :=
  !a.done && decide (a.perform ≤ s.now) && !s.opBehind a.sid a.seq a.scope a.op &&
  (!a.op.isPush || (decide (a.perform < s.now) && (a.arrive == 0 || !s.pushWaits a.op)))

/-- A push that finds its mailbox full keeps its place among the arrivals there (R22, R23). -/
def State.noteArrival (s : State) (a : Access) : State :=
  { s with accs := s.accs.map (fun x => if x.id = a.id then { x with arrive := s.now } else x) }

/-- An access that is ready performs, or begins to wait at a full mailbox. -/
def State.doAccess (s : State) (a : Access) : State :=
  if !a.checked && s.pushWaits a.op then s.noteArrival a else s.performAccess a

/-- May a SEND read its source: its time has come and every earlier access of its stream has performed (R270)? -/
def State.sendReady (s : State) (x : Sent) : Bool :=
  !x.read && decide (x.readAt ≤ s.now) && !s.accs.any (fun a => a.sid == x.sid && !a.done && decide (a.seq < x.id))

/-! ### Accesses of other cores (R39, R175, R243 to R248, R259, R350) -/

/-- The operation that another core's access is at a bank; none for what no L word of this core does. -/
def peerMemOp : PeerOp → Option MemOp
  | .read a => some (.ld a.toNat 6)
  | .write a bs => some (.st a.toNat (bs.take (8 - a.toNat % 8)))
  | .header a h => some (.sth a.toNat h)
  | .voadd a v => some (.voadd a.toNat v)
  | .voadd64 a v => some (.voadd64 a.toNat v)
  | .vocas a x y => some (.vocas a.toNat x y)
  | .vosax y x v => some (.vosax y.toNat x.toNat v)
  | .publ a => some (.publ (blockOf a.toNat) 64)
  | .hand a m => some (.hand (blockOf a.toNat) 64 m)
  | .sync a n => some (.synca a.toNat n.toNat)
  | .synci a n => some (.synci a.toNat n.toNat)
  | .block .. => none
  | .ring .. => none

/-- The blocks that another core's access touches. -/
def peerBlocks (o : PeerOp) : List Nat :=
  match o with
  | .block a .. => [blockOf a.toNat]
  | .ring a .. => [blockOf a.toNat]
  | o => ((peerMemOp o).map MemOp.blocks).getD []

/-- Its tag checks: a post and a count into a sync word have none (R246). -/
def peerTags (o : PeerOp) : List (Nat × TagKind) :=
  match o with
  | .block a .. => [(blockOf a.toNat, .write)]
  | o => ((peerMemOp o).map MemOp.tags).getD []

/-- Does a race leave its write standing, as that of a copy or a port (R251)? -/
def peerRacing : PeerOp → Bool
  | .block _ _ _ _ u => u
  | _ => false

/-- The effect of another core's access on memory laid out for it. -/
def State.peerEffect (v : State) (o : PeerOp) : State :=
  match o with
  | .block a p m h _ =>
    let b := blockOf a.toNat
    (v.store b (toBytes 64 ((BitVec.ofNat 512 (v.load b 64) &&& ~~~m) ||| (p &&& m)).toNat)).setHdr b h
  | .ring a st f n => v.ringPost a.toNat st.toNat f.toNat n.toNat
  | o => match peerMemOp o with
    | some op => (v.memEffect .prim op).1
    | none => v

/-- The row write that it leaves on a tile row of this core. -/
def peerRowOp (o : PeerOp) (seq b k : Nat) (p : BitVec 512) (h : BitVec 16) : Option RowOp :=
  match o with
  | .block _ _ m h' _ => some ⟨.prim, k, m, p, .fixed h', true, true, 0, seq, none, true⟩
  | o => ((peerMemOp o).bind (fun op => op.rowOp .prim seq b k p h)).map (fun r => { r with unit := true })

/-- A remote write lands before the engine results of its cycle, and after the stores to the row that have performed (R131, R242). -/
def remotePlace (o : RowOp) : List RowOp → List RowOp
  | [] => [o]
  | p :: ps =>
    if (p :: ps).any (fun q => q.row == o.row && q.ready && q.due == 0) then p :: remotePlace o ps else o :: p :: ps

/-- The rows of the tile registers that a stream's task holds. -/
def Stream.holdsRow (t : Stream) (i : Sid) (k : Nat) : Bool :=
  decide (64 * physTile i t.task.tiles 0 ≤ k) && decide (k < 64 * physTile i t.task.tiles 0 + 64 * t.task.tiles)

/-- May another core's access reach a block: a bank of this core must be awake and its task on the core, a tile row that is written
belong to no context that is away, unless the other stream's task holds it now (R175, R350; log 68)? -/
def State.peerReach (s : State) (writes : Bool) (b : Nat) : Bool :=
  match areaOf b with
  | .scratch c k =>
    c != s.coreNo.toNat || (s.domAwake (domDb k) && !((s.dom (domDb k)).owner.any (fun i => (s.str i).away)))
  | .tile c t r =>
    let holds (i : Sid) : Bool := (s.str i).status != .idle && (s.str i).holdsRow i (64 * t + r)
    let out (i : Sid) : Bool := holds i && (s.str i).away
    let on (i : Sid) : Bool := holds i && !(s.str i).away
    c != s.coreNo.toNat || !writes || !((out .prim && !on .sec) || (out .sec && !on .prim))
  | .dram .. => true
  | .cxl => true
  | _ => false

/-- The alignment and, of sync words and ring entries, the place that its own core requires of it (R97, R174, R191). -/
def peerFine (o : PeerOp) : Bool :=
  let bank (a : Nat) : Bool := match areaOf a with | .scratch .. => true | _ => false
  match o with
  | .sync a _ => bank a.toNat && a.toNat % 8 == 0
  | .synci a _ => bank a.toNat && a.toNat % 8 == 0
  | .ring a .. => bank a.toNat && a.toNat % 16 == 0
  | .voadd a _ => a.toNat % 4 == 0
  | .voadd64 a _ => a.toNat % 8 == 0
  | .vocas a .. => a.toNat % 8 == 0
  | .vosax y x _ => y.toNat % 64 == 0 && x.toNat % 64 == 0
  | _ => true

/-- Does the session of another core's access grant it a block, as its own core has checked (R176, R326)? -/
def State.peerGranted (s : State) (p : Peer) (need : Right) (b : Nat) : Bool :=
  match s.sessions.find? (fun x => x.asid == p.asid) with
  | none => false
  | some x => match areaOf b with
    | .dram .. => (x.page b).any need.granted
    | .cxl => (x.page b).any need.granted
    | .scratch c _ => x.hasCore c
    | .tile c .. => x.hasCore c
    | _ => false

/-- Does another core's access pass its late checks here (R177)? -/
def State.peerPasses (s : State) (p : Peer) (o : PeerOp) : Bool :=
  let bs := peerBlocks o
  let v := s.view p.asid bs
  let reads (b : Nat) : Bool := match peerMemOp o with | some op => op.consumes b | none => isChecked b
  let writes := match o with | .read _ => false | _ => true
  let need : Right := match o with | .read _ => .r | .publ _ => .r | .hand .. => .r | _ => .w
  peerFine o && bs.all (s.peerGranted p need) && bs.all (s.peerReach writes) &&
  !(bs.any (fun b => reads b && s.isBad (s.phys p.asid b))) &&
  !(bs.any (fun b => ((peerMemOp o).bind (fun op => op.formatFails b (v.hdrOf b))).isSome)) &&
  (peerRacing o || (s.tagCause p.asid p.gslot p.member 0 (peerTags o)).isNone)

/-- Another core's access performs here: its tags and its effect, or nothing where it fails a late check, which is raised at its own
core. Its session, gang slot and member are the tag identity. -/
def State.peerAct (s : State) (p : Peer) (o : PeerOp) : State :=
  if s.peerPasses p o then
    let bs := peerBlocks o
    let s := s.applyTags p.asid p.gslot p.member (peerTags o)
    (s.unview p.asid remotePlace (peerRowOp o s.seq) ((s.view p.asid bs).peerEffect o) bs).seqd
  else s

/-- ACCESS_PERFORMS (R380): an access of this core, the source read of a SEND (R270), or another core's access to memory
that this model holds. -/
def execAccessPerforms (r : AccessRef) (s : State) : Out :=
  match r with
  | .own id => match s.access id with
    | some a => .next (if s.accReady a then s.doAccess a else s)
    | none => match s.fabric.sent.find? (fun x => x.id == id && !x.read) with
      | some x => .next (if s.sendReady x then s.readSend x else s)
      | none => .next s
  | .peer p o => .next (s.peerAct p o)

/-- Does a push of this core that arrived by a cycle still wait at a mailbox? It goes before a later arrival (R23). -/
def State.ownWaits (s : State) (i : Sid) (q : Nat) (by' : Nat) : Bool :=
  s.accs.any (fun a => !a.done && a.arrive != 0 && decide (a.arrive ≤ by') && (match a.op with
    | .push c k x _ => c == s.coreNo.toNat && k == q && x == (i == .sec)
    | _ => false))

/-- REMOTE_PUSH_LANDS (R22, R23): into a declared mailbox that has room; a full one keeps the push waiting in the mesh, in its place
among the arrivals; with no mailbox it fails at its sender. -/
def execRemotePushLands (i : Sid) (q : BitVec 5) (v : W64) (s : State) : Out :=
  let sec := i == .sec
  if !s.mailOpen sec q.toNat then .next s
  else if s.mailFull sec q.toNat then .next { s with inbox := s.inbox ++ [(s.now, .remotePushLands i q v)] }
  else .next (s.modStr i (fun t =>
    { t.setQueue q.toNat (t.queue q.toNat ++ [v]) with mailLog := t.mailLog ++ [(q.toNat, v)] }))

/-! ### Replays, rewinds and checkpoints (R87, R177, R356) -/

/-- Have a stream's out-ports drained? -/
def State.portsDrained (s : State) (i : Sid) : Bool :=
  (s.str i).ports.all (fun p => match p.2 with | some q => q.kind != .output || q.fed.isEmpty | none => true)

/-- Is a stream's going back due: its error is known and everything in flight is over? -/
def State.backDue (s : State) (i : Sid) : Bool :=
  (s.str i).status == .running && (s.str i).error.isSome && s.quiet i && s.portsDrained i

/-- LATE_CHECK_REPLAY (R177): the stream goes back to its segment entry and replays up to the failing word. -/
def execLateCheckReplay (i : Sid) (s : State) : Out :=
  match (s.str i).error with
  | some c => .next (if c.rank ≠ 9 ∧ s.backDue i then s.goBack i else s)
  | none => .next s

/-- A rewind is noted. The fourth for one cause within 1 s makes a probe sweep of the core due: one probe for each engine slot, of the
signature that the draw `n` gives (R360; log 93). -/
def Service.noteRewind (v : Service) (cause now n : Nat) : Service :=
  let recent := (cause, now) :: v.rewinds.filter (fun x => decide (now < x.2 + 1200000000))
  { v with rewinds := recent, sweep := if 4 ≤ recent.countP (fun x => x.1 == cause) then
      (List.range 8).map (fun k => (k, Config.sweepSignature n k)) else v.sweep }

/-- REWIND (R356): the stream goes back. The third error of a segment has trapped where it was detected (R358). -/
def execRewind (i : Sid) (s : State) : Out :=
  let t := s.str i
  match t.error with
  | some c =>
    if c.rank = 9 ∧ s.backDue i then
      let s := (s.goBack i).modStr i (fun t => { t with retries := t.retries + 1 })
      let s := s.coreEvent i 0x0100 c.code.num t.segId.toNat (t.retries + 1)
      .next { s.drawn with service := s.service.noteRewind c.code.num s.now s.free }
    else .next s
  | none => .next s

/-- Is a checkpoint due (R87, R88)? -/
def State.ckptReady (s : State) (i : Sid) : Bool := (s.str i).ckptDue.isSome && s.segReady i

/-- SEGMENT_CHECKPOINT (R87). -/
def execSegmentCheckpoint (i : Sid) (s : State) : Out := .next (if s.ckptReady i then s.takeCkpt i else s)

/-! ### Barriers and rendezvous (R90 to R92, R344) -/

/-- The C word of the bundle at issue of a stream, as a record holds it. -/
def State.ctlWord (s : State) (i : Sid) : Nat :=
  let pc := (s.str i).sc.pc.toNat
  (((slotWords (s.packet i pc) (pc % 16)).find? (fun p => p.1 == .C)).map (·.2.toNat)).getD 0

/-- Every waiting participant of a mismatch raises ILLEGAL_OPERAND (R92). -/
def State.mismatch (s : State) (i : Sid) : State :=
  s.takeTrap i { rank := 7, slot := Slot.C.idx, code := .illegalOperand, aux := s.ctlWord i }

/-- Has a stream an error to go back for: known, or arrived by now? It then waits at no BAR or RDV (R359). -/
def State.erring (s : State) (i : Sid) : Bool :=
  (s.str i).error.isSome || (s.str i).consumed.isSome ||
  s.accs.any (fun a => a.sid == i && a.err.isSome && decide (a.arrive ≤ s.now))

/-- Is a stream at its BAR or RDV, reached or waiting for its release, as R92 takes it from the end of its stalls on? -/
def Stream.atMeeting (t : Stream) : Bool :=
  match t.wait with
  | some (.bar _) => true
  | some (.rdv _ _) => true
  | some .arriving => true
  | _ => false

/-- BARRIER_COMPLETE (R91): the phase advances and the members leave; a mismatch traps them, from the end of their stalls on (R80,
R92); a pending pre-emption keeps them waiting (R344), and one with an error is not waiting (R359). The barrier of a gang on other cores only advances its phase (R252). -/
def execBarrierComplete (b : BarRef) (mismatch : Bool) (s : State) : Out :=
  match b with
  | .here i =>
    let t := s.str i
    if t.preempt || s.erring i then .next s
    else if mismatch then .next (if t.atMeeting then s.mismatch i else s)
    else match t.wait with
      | some (.bar _) => .next ((s.advanceBarrier i).modStr i (fun t => { t with wait := some .released }))
      | _ => .next s
  | .away q n =>
    match s.gangs.find? (fun g => g.step.queue == q.toNat && g.step.num == n && !s.onCore g) with
    | some g => .next (if mismatch then s else s.advancePhase g.step.asid g.slot)
    | none => .next s

/-- RENDEZVOUS_COMPLETE (R90, R92, R344, R359). -/
def execRendezvousComplete (i : Sid) (mismatch : Bool) (s : State) : Out :=
  let t := s.str i
  if t.preempt || s.erring i then .next s
  else if mismatch then .next (if t.atMeeting then s.mismatch i else s)
  else match t.wait with
    | some (.rdv _ _) => .next (s.modStr i (fun t => { t with wait := some .released }))
    | _ => .next s

/-- WRAP_SWEEP_DONE (R252): the members go on, and a slot whose gang has ended is free again. -/
def execWrapSweepDone (g : BitVec 4) (s : State) : Out :=
  let due (x : Session) : Bool := x.sweeps.any (fun p => p.1 == g.toNat && decide (p.2 ≤ s.now))
  let live (x : Session) : Bool := [s.prim, s.sec].any (fun t => t.status != .idle && t.task.asid == x.asid && t.task.gslot == g) ||
    s.gangs.any (fun a => a.step.asid == x.asid && a.slot == g.toNat)
  .next ((s.sessions.filter due).foldl (fun s x =>
    s.modSession x.asid (fun y =>
      { y with sweeps := y.sweeps.filter (fun p => p.1 != g.toNat),
               taken := if live x then y.taken else y.taken.filter (fun z => z != g.toNat) })) s)

/-! ### Domains (R291, R292) -/

/-- A waking domain of this core whose latency has run is awake, and the queue's head is admitted in that cycle; a wake of more than
1 µs is noted (R93, R291, R292). -/
def State.domAwakes (s : State) (d : Nat) : State :=
  let v := s.dom d
  if v.st = .waking ∧ v.due ≤ s.now then
    let s := s.setDom d { v with st := .awake }
    let s := if v.since + 1200 < s.now then s.coreEvent (v.owner.getD .prim) 0x0101 d (s.now - v.since) 0 else s
    State.admitWakes 2 s
  else s

/-- A wake of the other core of the pair stops counting when its latency has run; its later wakes join the queue (R292). -/
def State.peerAwakes (s : State) (d : Nat) : State :=
  match s.power.partner.find? (fun p => p.1 == d && decide (p.2 ≤ s.now)) with
  | some p => State.admitWakes 2 { s with power := { s.power with partner := s.power.partner.erase p } }
  | none => s.joinPeers

/-- DOMAIN_AWAKE (R291, R292): of this core, or of the other core of its series pair. -/
def execDomainAwake (d : DomRef) (s : State) : Out :=
  .next (match d with
    | .own d => s.domAwakes d.toNat
    | .pair d => s.peerAwakes d.toNat)

/-! ### Units (R200 to R206) -/

/-- Has a copy something to do: a block in flight that is done, or one to begin (R200)? -/
def State.copyReady (s : State) (c : Copy) : Bool := (s.copyDue c).isSome || s.copyBegins c

/-- COPY_BLOCK_POST (R201). -/
def execCopyBlockPost (id : Nat) (s : State) : Out :=
  match s.copies.find? (fun c => c.id == id) with
  | some c => .next (s.copyStep c)
  | none => .next s

/-- Entries an in-port holds (R20). -/
def portDepth : Nat := 8

/-- May an in-port fetch: its element arrives, is pad, or its block can leave (R203)? -/
def State.fetchReady (s : State) (i : Sid) (p : Port) : Bool :=
  p.kind == .input && !p.closing && decide (p.next ≤ s.now) && decide (p.entries.length < portDepth) &&
  decide (p.pos < walkTotal p.shape) && (p.flying || p.element.isNone || s.portBegins i p)

/-- PORT_PREFETCH (R203). -/
def execPortPrefetch (i : Sid) (k : BitVec 3) (s : State) : Out :=
  match (s.str i).port k.toNat with
  | some p => .next (if s.fetchReady i p then s.prefetch i k.toNat p else s)
  | none => .next s

/-- May an out-port write: its block is there, it has none to write, or its block can leave (R203)? -/
def State.drainReady (s : State) (i : Sid) (p : Port) : Bool :=
  p.kind == .output && !p.fed.isEmpty && decide (p.next ≤ s.now) &&
  (p.flying || decide (walkTotal p.shape ≤ p.pos) || p.element.isNone || s.portBegins i p)

/-- OUT_PORT_WRITE (R203). -/
def execOutPortWrite (i : Sid) (k : BitVec 3) (s : State) : Out :=
  match (s.str i).port k.toNat with
  | some p => match p.fed with
    | x :: _ => .next (if s.drainReady i p then s.portWrite i k.toNat p x else s)
    | [] => .next s
  | none => .next s

/-- May the row-buffer feed act? -/
def State.feedDue (s : State) (i : Sid) (p : Port) : Bool :=
  p.kind == .feed && decide (p.next ≤ s.now) &&
  ((s.shadow.st == .filling && s.shadow.readyAt == 0) ||
   (s.shadow.st == .empty && decide (p.pos < shE1 p.shape) && !p.closing && s.portBegins i p))

/-- ROW_BUFFER_FEED_FILL (R204). -/
def execRowBufferFeedFill (i : Sid) (s : State) : Out :=
  match (s.str i).port 7 with
  | some p => .next (if s.feedDue i p then s.feedStep i p else s)
  | none => .next s

/-- SAE_WINDOW_APPLY (R205, R206). -/
def execSaeWindowApply (i : Sid) (s : State) : Out :=
  .next (if (s.str i).sae.next ≤ s.now ∧ s.saeReady i = true then s.saeStep i else s)

/-! ### Retired units and failed parts (R309, R362, R365) -/

/-- Is no core usable, or no Ultra Ethernet port? Ports 0 to 3 are Ultra Ethernet, 4 and 5 CXL (log 92). -/
def Service.spent (v : Service) : Bool :=
  (List.range 512).all (fun c => v.retired.contains (1, c)) || (List.range 4).all (fun p => v.retired.contains (4, p))

/-- The health of a service that has lost a unit (R365). -/
def Service.lessened (v : Service) : Health :=
  if v.spent then .failed else if v.health = .healthy then .degraded else v.health

/-- A link is down: fragments whose paths cross it are lost (R309). -/
def Fabric.loseLink (f : Fabric) (link : Nat) : Fabric :=
  let f := { f with linksDown := link :: f.linksDown }
  { f with queue := f.queue.filter (fun q => f.sent.any (fun x => x.id == q.msg && f.pathUp x q.idx)) }

/-- A unit, its kind and index as event 0x010F gives them, is retired: 1 core, 2 column, 3 link, 4 port, 5 page (R362). A device with no
core or no Ultra Ethernet port left is FAILED and keeps every core asleep (R365). -/
def State.retire (s : State) (u : Nat × Nat) : State :=
  let v : Service := { s.service with retired := u :: s.service.retired }
  let s := s.bbEvent 0x010F (if u.1 = 1 then u.2 else 0xFFFF) 0 u.1 u.2 0
  { s with
    service := { v with health := v.lessened }
    halfWidth := s.halfWidth || u == (2, s.coreNo.toNat % 128)
    fabric := if u.1 = 3 then s.fabric.loseLink u.2 else s.fabric
    doms := if v.spent then [] else s.doms
    wakeQ := if v.spent then [] else s.wakeQ }

/-- The connections of the device (R379). -/
inductive Iface where
  | management
  | ultra (port : Nat)
  | cxl (port : Nat)
  | villafel
  deriving DecidableEq, Repr

/-- Are the device's links up: trained at stage 2 of its start, and neither in tethered mode nor FAILED (R365, R368, R370)? -/
def Service.linked (v : Service) : Bool :=
  !v.inReset && decide (3 ≤ v.stage) && v.health != .tethered && v.health != .failed

/-- Is a connection up? In tethered mode only the management port and Ultra Ethernet port 0 are, on a FAILED device only the management
port; a retired port is down (R362, R365, R370, R379). -/
def Service.isUp (v : Service) : Iface → Bool
  | .management => !v.inReset
  | .ultra p => decide (p < 4) && !v.retired.contains (4, p) && (v.linked || (!v.inReset && v.health == .tethered && p == 0))
  | .cxl p => decide (p < 2) && !v.retired.contains (4, 4 + p) && v.linked
  | .villafel => v.linked

/-- The device becomes FAILED; every core stays asleep (R362, R365). -/
def State.failDevice (s : State) : State := { s with service := { s.service with health := .failed }, doms := [], wakeQ := [] }

/-! ### Refresh and columns (R194, R195, R364) -/

/-- The cycle a refresh group falls due (R195). -/
def RefGroup.due (g : RefGroup) : Nat := g.last + (if g.hot then 600000 else 1200000)

/-- The stream whose task holds refresh duty for a slice. -/
def State.dutyOf (s : State) (slice : Nat) : Option Sid :=
  if slice = coreL s.coreNo.toNat ∧ s.prim.task.refresh = true ∧ s.prim.status ≠ .idle then some .prim else none

/-- REFRESH_DUE (R195, R363): the controller refreshes the group, and the task that holds the duty takes one REFRESH_LATE,
for the group that fell due first. -/
def execRefreshDue (slice : BitVec 2) (group : BitVec 6) (s : State) : Out :=
  match s.dutyOf slice.toNat with
  | some i =>
    if (s.refGroup slice.toNat group.toNat).due ≤ s.now then
      let s := (s.touchGroup slice.toNat group.toNat).coreEvent i 0x0111 slice.toNat group.toNat 0
      .next (s.modStr i (fun t => { t with refreshDue := t.refreshDue.orElse (fun _ => some (slice.toNat, group.toNat)) }))
    else .next s
  | none => .next s

/-- CONTROLLER_REFRESH (R195): the controller refreshes a group of a slice without a duty holder. -/
def execControllerRefresh (slice : BitVec 2) (group : BitVec 6) (s : State) : Out :=
  .next (if (s.dutyOf slice.toNat).isNone then s.touchGroup slice.toNat group.toNat else s)

/-- COLUMN_DEGRADED (R13, R364): a column goes to half width at the next repetition of the slot table; the device is
degraded. -/
def execColumnDegraded (col : BitVec 7) (s : State) : Out :=
  if s.now % 8 ≠ 0 then .next { s with inbox := s.inbox ++ [(s.now + (8 - s.now % 8), .columnDegraded col)] }
  else
    .next ((s.bbEvent 0x0059 0xFFFF 0 0 col.toNat 0).retire (2, col.toNat))

end Sys2Proof.Machine
end

