-- ==== Sys2Proof/Machine/Energy.lean ====
section
/-! DEFINITION. Sys2Proof/Machine/Energy.lean: the events of the power envelope: charge balance and bridle, ramp limiter and
ballast, thermal observer and trip, telemetry samples, power firmware (R292 to R301, R320, R321). Powers are in units of
0.01 W. -/

namespace Sys2Proof.Machine

/-- Change the power unit. -/
def State.modPower (s : State) (f : Power → Power) : State := { s with power := f s.power }

/-! ### The bridle (R294) -/

/-- The zone of this core (R298). -/
def State.zone (s : State) : Nat := coreY s.coreNo.toNat

/-- The highest level among the sources of the bridle. In a fabric domain the throttle stands for the ramp limiter and the
thermal fallback (R320). -/
def State.bridleLevel (s : State) : Nat :=
  let p := s.power
  let slow := if s.fabric.member then s.fabric.throttle else max p.rampBridle (p.zones.getD s.zone 0)
  max (max p.balBridle slow) (max (if p.pairOver then 7 else 0) (if p.tripped then 8 else 0))

/-! ### Charge balance (R293) -/

/-- Is this core the lower of its series pair (R11)? -/
def State.lower (s : State) : Bool := coreL s.coreNo.toNat % 2 == 0

/-- The thresholds of R293: 0.6 W, 1.2 W, 1.35 W. -/
def balAbsorb : Nat := 60
def balOff : Nat := 120
def balBridleAt : Nat := 135

/-- The ballast segments of the two cores of a pair, this core's first (R293, R296). -/
def pairSegments (core : Nat) : Nat × Nat :=
  let l := coreL core
  (128 * l + core % 128, 128 * (if l % 2 = 0 then l + 1 else l - 1) + core % 128)

/-- The monitor's action for the powers `mine` and `other` of the pair, whose segments are `seg`. A trip keeps ballast off (R299). -/
def Power.balance (p : Power) (seg : Nat × Nat) (mine other : Nat) : Power :=
  let d := if mine < other then other - mine else mine - other
  let heavy := decide (other < mine)
  let lighter := if heavy then seg.2 else seg.1
  let on : List Nat := if p.tripped then [] else if p.pairSegs.contains lighter then p.pairSegs else p.pairSegs ++ [lighter]
  if d ≤ balAbsorb then
    let b := p.balBridle - 1
    let c := p.balPeer - 1
    { p with balBridle := b, balPeer := c, deferred := none, pairSegs := if b = 0 ∧ c = 0 then [] else p.pairSegs }
  else if balBridleAt < d then
    { p with pairSegs := on, balBridle := if heavy then min 7 (p.balBridle + 1) else p.balBridle,
             balPeer := if heavy then p.balPeer else min 7 (p.balPeer + 1), deferred := some heavy }
  else if d ≤ balOff ∧ p.pairSegs ≠ [] ∧ p.balBridle = 0 ∧ p.balPeer = 0 then { p with pairSegs := [], deferred := none }
  else { p with pairSegs := on, deferred := none }

/-- The other core of the pair may have lost its wakes, and issues wakes in the window that begins (R291, R292). -/
def State.peerWindow (s : State) : State :=
  let n := s.free
  let s : State := if Config.partnerDrops n then
      { s with wakeQ := s.wakeQ.filter (·.mine), power := { s.power with partner := [] } } else s
  s.modPower (fun p => { p with ahead := (List.range 8).flatMap (fun k =>
    ((Config.partnerWakes n).filter (fun w => w.1 == k && decide (w.2 < 23))).map (fun w => (s.now / 8 * 8 + k, w.2))) })

/-- BALANCE_WINDOW (R292 to R294, R301): at the start of an 8-cycle window, the monitor acts on the powers of the window
before, the pair's current limit is compared, and the bridle takes the level its sources give. -/
def execBalanceWindow (s : State) : Out :=
  let mine := Config.corePower s.free
  let other := Config.partnerPower s.free
  let s := (s.peerWindow.drawn).modPower (fun p => { p.balance (pairSegments s.coreNo.toNat) mine other with
    pairOver := decide (p.pairLimit < mine + other)
    otherSegs := if p.tripped then [] else (Config.otherSegments s.free).eraseDups.filter (fun k =>
      decide (k < 512) && k != (pairSegments s.coreNo.toNat).1 && k != (pairSegments s.coreNo.toNat).2)
    nextWindow := (s.now / 8 + 1) * 8 })
  let s := s.modPower (fun p => { p with level := s.bridleLevel })
  .next (State.admitWakes 2 s)

/-! ### Ramp limiter (R295, R296, R299, R321) -/

/-- The rise and fall limits per step, in units of 0.01 W (R36). -/
def State.rampRise (s : State) : Nat := (s.pwrRamp.extractLsb' 0 16).toNat
def State.rampFall (s : State) : Nat := (s.pwrRamp.extractLsb' 16 16).toNat

/-- Ballast of one segment, and of all the device's segments (R296). -/
def segPower : Nat := 75
def ballastMax : Nat := 38400

/-- The segments that R293 has switched on. -/
def Power.balanced (p : Power) : List Nat := p.pairSegs ++ p.otherSegs

/-- The segments that are on, for the limiter or under R293; one that is on for both counts once. -/
def Power.segsOn (p : Power) : List Nat := (List.range 512).filter (fun k => p.ballast.contains k || p.balanced.contains k)

/-- The power the switched-on segments draw. -/
def Power.burn (p : Power) : Nat := segPower * p.segsOn.length

/-- The limiter's segments for a number of segments in all: over columns in column order, the lower layers first, beside those that
R293 has switched on, which count toward the number (R296; log 79). -/
def Power.spread (p : Power) (n : Nat) : List Nat :=
  ((List.range 512).filter (fun k => !p.balanced.contains k)).take (n - p.balanced.length)

/-- One step of the limiter for a demand D, without a hold. -/
def Power.rampStep (p : Power) (rise fall d : Nat) : Power :=
  let r := if p.ref < d then min d (p.ref + rise) else if p.tripped then d else max d (p.ref - fall)
  let b := if r < d then min 7 (p.rampBridle + 1)
    else if 1000 * d < 995 * r ∨ p.rampBridle = 0 then p.rampBridle - 1 else p.rampBridle
  { p with ref := r, rampBridle := b, target := r - d }

/-- One step while the fabric hold lasts (R321); a trip suspends the fall limit (R299). -/
def Power.holdStep (p : Power) (fall d : Nat) : Power :=
  let r := if ballastMax < p.ref - d then max (d + ballastMax) (if p.tripped then 0 else p.ref - fall) else p.ref
  { p with ref := r, target := r - d }

/-- Filler gangs stand on free secondary streams while the target exceeds what ballast can give (R296). -/
def State.placeFiller (s : State) : State :=
  if s.power.target ≤ ballastMax then { s with filler := none }
  else if s.sec.status = .idle ∧ s.filler = none ∧ Config.fillerHere s.free = true then { s with filler := some 0 }
  else s

/-- Switch on the segments of the target; a fall that neither ballast nor filler power can fill restarts R (R296). -/
def State.setBallast (s : State) (d : Nat) : State :=
  if s.power.tripped then s.modPower (fun p => { p with ballast := [] })
  else
    let s := if ballastMax + Config.fillerPower s.free < s.power.target ∧ ¬ s.fabric.hold then
        (s.bbEvent 0x010B 0xFFFF 0 (s.power.ref / 10) (d / 10) 0).modPower (fun p =>
          { p with ref := d + p.burn, target := p.burn })
      else s
    s.modPower (fun p => { p with ballast := p.spread (min 512 ((p.target + segPower - 1) / segPower)) })

/-- RAMP_STEP (R295). -/
def execRampStep (s : State) : Out :=
  let d := Config.modulePower s.free - s.power.burn
  let s := s.modPower (fun p =>
    { (if s.fabric.hold then p.holdStep s.rampFall d else p.rampStep s.rampRise s.rampFall d) with
      nextRamp := p.nextRamp + 12000 })
  .next (s.placeFiller.setBallast d).drawn

/-! ### Thermal observer and trip (R298, R299) -/

/-- A zone's bridle after a prediction. -/
def zoneBridle (temp level : Nat) : Nat := if 98 ≤ temp then min 7 (level + 1) else if temp < 95 then level - 1 else level

/-- The observer's step for one zone: prediction, valve and bridle, with their black-box entries. -/
def State.observeZone (s : State) (draw z : Nat) : State :=
  let temp := Config.zoneTemp draw z
  let valve := min 100 (Config.zoneValve draw z)
  let old := s.power.zones.getD z 0
  let lvl := zoneBridle temp old
  let was := s.power.valves.getD z 0
  let s := if lvl ≠ old then s.bbEvent 0x0107 0xFFFF 0 z lvl 0 else s
  let s := if valve + 10 < was ∨ was + 10 < valve then s.bbEvent 0x0108 0xFFFF 0 z valve 0 else s
  s.modPower (fun p => { p with temps := p.temps.set z temp, valves := p.valves.set z valve, zones := p.zones.set z lvl })

/-- What the firmware does each millisecond: zones, pump request, and the pair's current limit (R298, R301). -/
def State.firmwareStep (s : State) : State :=
  let n := s.free
  ([0, 1, 2, 3, 4, 5, 6, 7].foldl (fun t z => t.observeZone n z) s).modPower (fun p => { p with
    pump := Config.pumpSpeed n, pairLimit := (Config.pairLimit n).getD p.pairLimit })

/-! ### The zone valves of PVF40-P (R377, R378) -/

/-- The static address of a zone's valve target on the I3C sideband. -/
def valveTarget (z : Nat) : Nat := 0x30 + z

/-- A write on the sideband takes at most an eighth of a millisecond, so that every target is written at least once per 1 ms. -/
def valveWriteMax : Nat := 149999

/-- The 5 ms without a write after which a valve on the board opens fully (R377). -/
def boardLimit : Nat := 6000000

/-- The write that stands first begins, where one does: it completes a free time on. -/
def State.beginWrite (s : State) : State :=
  (s.modPower (fun p => { p with i3cAt := s.now + 1 + Config.unitDelay s.free % valveWriteMax })).drawn

/-- Write an opening to each valve target: a write in progress completes first, and those that have not begun give way (R377, R378). -/
def State.writeValves (s : State) (openings : List Nat) : State :=
  if Config.boardValves = false then s
  else
    let idle := s.power.i3c.isEmpty
    let s := s.modPower (fun p => { p with i3c := p.i3c.take 1 ++ openings.zipIdx.map (fun (v, z) => (valveTarget z, v)) })
    if idle then s.beginWrite else s

/-- The write in progress completes: the board valve at its target has the opening. -/
def State.endWrite (s : State) : State :=
  match s.power.i3c with
  | [] => s
  | (t, v) :: rest =>
    let s := s.modPower (fun p => { p with i3c := rest, board := p.board.set (t - 0x30) (v, s.now + boardLimit) })
    if rest.isEmpty then s else s.beginWrite

/-- Is a write complete in this cycle? -/
def State.writeDone (s : State) : Bool := !s.power.i3c.isEmpty && decide (s.power.i3cAt ≤ s.now)

/-- The opening of a zone's valve on the board: a value above 100 counts as 100, and 5 ms without a write open it fully (R377). -/
def State.boardOpening (s : State) (z : Nat) : Nat :=
  let (v, c) := s.power.board.getD z (0, 0)
  if c ≤ s.now then 100 else min 100 v

/-- THERMAL_OBSERVER_STEP (R298, R301, R377): a valve write completes; else the observer's step. Without firmware the bridles, the valves and
the requests stand; the milliseconds without a signal of the firmware are counted. -/
def execThermalObserverStep (s : State) : Out :=
  if s.writeDone then .next s.endWrite
  else
    let s' := s.modPower (fun p => { p with
      nextZone := p.nextZone + 1200000, silent := if Config.firmwareSignals s.free then 0 else p.silent + 1 })
    .next (if s.power.firmware then (s'.firmwareStep.drawn).writeValves s'.firmwareStep.power.valves else s'.drawn)

/-- THERMAL_TRIP (R299): a sensor reads 105 °C or more. One that reads 100 °C or more keeps a trip from clearing. -/
def execThermalTrip (sensor temp : Nat) (s : State) : Out :=
  if temp < 100 then .next s
  else
    let s := s.modPower (fun p => { p with hot := sensor :: p.hot.filter (fun k => k != sensor) })
    if 105 ≤ temp ∧ s.power.tripped = false then
      .next ((s.bbEvent 0x0109 0xFFFF 0 sensor temp 0).modPower (fun p =>
        { p with tripped := true, ballast := [], pairSegs := [], otherSegs := [] }))
    else .next s

/-- THERMAL_TRIP_CLEAR (R299): a sensor reads below 100 °C; when every one does, the trip clears and R restarts from the measured
demand. -/
def execThermalTripClear (sensor temp : Nat) (s : State) : Out :=
  if 100 ≤ temp then .next s
  else
    let s := s.modPower (fun p => { p with hot := p.hot.filter (fun k => k != sensor) })
    if s.power.tripped = true ∧ s.power.hot = [] then
      let d := Config.modulePower s.free - s.power.burn
      let s := (s.drawn.bbEvent 0x010A 0xFFFF 0 sensor temp 0).modPower (fun p => { p with tripped := false, ref := d })
      .next (State.admitWakes 2 s)
    else .next s

/-! ### Samples and firmware (R300, R301) -/

/-- The 32 bytes of a power sample (R300); powers come in units of 0.01 W and stand in units of 0.1 W. -/
def sampleBytes (stamp power burn ref : Nat) (temps valves : List Nat) : BitVec 256 :=
  let bytes (n : Nat) (xs : List Nat) : List Byte := (List.range n).map (fun k => BitVec.ofNat 8 (xs.getD k 0))
  BitVec.ofNat 256 (ofBytes (toBytes 6 (stamp / 10 ^ 9) ++ toBytes 4 (stamp % 10 ^ 9) ++ toBytes 2 (power / 10) ++
    toBytes 2 (burn / 10) ++ toBytes 2 (ref / 10) ++ bytes 8 temps ++ bytes 8 valves))

/-- POWER_SAMPLE (R300): the last 65,536 samples are kept. -/
def execPowerSample (s : State) : Out :=
  let p := s.power
  let x := sampleBytes (Config.ptpTime s.now) (Config.modulePower s.free) p.burn p.ref p.temps p.valves
  .next (s.drawn.modPower (fun p => { p with samples := (x :: p.samples).take 65536, nextSample := p.nextSample + 120000 }))

/-- The sample that Redfish serves: the latest (R300). -/
def State.redfishSample (s : State) : Option (BitVec 256) := s.power.samples.head?

/-- Milliseconds of silence after which the firmware counts as absent (R301). -/
def silentMax : Nat := 5

/-- Every valve fully open. -/
def allOpen : List Nat := [100, 100, 100, 100, 100, 100, 100, 100]

/-- The power firmware counts as absent: every valve opens, and is written 100 once; everything else stands (R301, R378). -/
def State.firmwareGone (s : State) : State :=
  if s.power.firmware then
    ((s.bbEvent 0x010C 0xFFFF 0 0 0 0).modPower (fun p => { p with
      firmware := false, silent := max silentMax p.silent, valves := allOpen })).writeValves allOpen
  else s

/-- POWER_FIRMWARE_ABSENT (R301): an update has begun, or no signal has come for 5 ms. -/
def execPowerFirmwareAbsent (s : State) : Out := .next s.firmwareGone

/-- POWER_FIRMWARE_PRESENT (R301): the firmware signals. -/
def execPowerFirmwarePresent (s : State) : Out :=
  let s' := s.modPower (fun p => { p with silent := 0 })
  if s.power.firmware then .next s'
  else .next ((s'.bbEvent 0x010D 0xFFFF 0 0 0 0).modPower (fun p => { p with firmware := true }))

end Sys2Proof.Machine
end

