-- ==== Sys2Proof/Machine/Villafel.lean ====
section
/-! DEFINITION. Sys2Proof/Machine/Villafel.lean: the events of the fabric: slots, status points and holds, fragments and
decoding, deadlines, retransmission, acknowledgements and links (R303 to R321, R382). -/

namespace Sys2Proof.Machine

/-- Change the fabric unit. -/
def State.modFabric (s : State) (f : Fabric → Fabric) : State := { s with fabric := f s.fabric }

/-! ### Slots and periods (R310 to R313, R320, R382) -/

/-- Flits of a fragment: its header, its payload, its block headers (R306). -/
def Sent.flits (x : Sent) : Nat := let f := fragBytes x.len x.k; 1 + f / 64 + headBytes f / 64

/-- The first link of a fragment's path. -/
def Fabric.firstLink (f : Fabric) (x : Sent) (idx : Nat) : Nat := (f.pathOf x idx).headD 0

/-- One pass over the queue, oldest first: `key` names the budget that a fragment takes from, `cap` the flits it holds; a fragment that
does not fit, or whose source is not read yet, holds back those behind it under its key. The flits used and what stays queued. -/
def Fabric.sendPass (f : Fabric) (key : Sent → Nat → Nat) (cap : Nat → Nat) (may : QFrag → Bool) (st : SMap Nat × List QFrag) :
    SMap Nat × List QFrag :=
  let r := st.2.foldl (fun (a : SMap Nat × List Nat × List QFrag) q =>
    match f.sent.find? (fun x => x.id == q.msg) with
    | none => a
    | some x =>
      let k := key x q.idx
      let n := SMap.get 0 a.1 k + x.flits
      if !may q then (a.1, a.2.1, a.2.2 ++ [q])
      else if a.2.1.contains k || !x.read || decide (cap k < n) then (a.1, k :: a.2.1, a.2.2 ++ [q])
      else (SMap.set 0 a.1 k n, a.2.1, a.2.2)) (st.1, [], [])
  (r.1, r.2.2)

/-- What the links of this device send in a slot: in a data slot fragments of the granted classes within the grants; in a slack slot, or
a held slot, resent fragments that were queued before it, then any others (R311, R312, R316). -/
def State.sendSlot (s : State) : State :=
  let f := s.fabric
  if f.cut then s
  else
    let st : SMap Nat × List QFrag := ([], f.queue)
    let st := if f.hold || f.slot % 8 == 7 then
        let pass := f.sendPass (fun x j => f.firstLink x j) (Config.slackRoom s.free)
        pass (fun q => !q.retx) (pass (fun q => q.retx && decide (q.at' < f.slotAt)) st)
      else f.sendPass (fun x j => 8 * f.firstLink x j + x.cls) (fun k => Config.grants s.free (k / 8) (k % 8)) (fun q => !q.retx) st
    s.drawn.modFabric (fun f => { f with queue := st.2 })

/-- The throttle that the ramp limiter and the zones demand (R320). -/
def State.throttleDemand (s : State) : Nat := max s.power.rampBridle (s.power.zones.foldl max 0)

/-- The throttle at a period boundary: it rises at once, and falls when its level has stood for 16 periods (R320). -/
def State.throttleStep (s : State) : State :=
  let d := s.throttleDemand
  s.modFabric (fun f =>
    if f.throttle < d then { f with throttle := d, dwell := 0 }
    else if d < f.throttle ∧ 16 ≤ f.dwell + 1 then { f with throttle := d, dwell := 0 }
    else { f with dwell := f.dwell + 1 })

/-- The period in which a sender frees its fragments: D, or D + 1 where a retransmission is allowed (R316). -/
def Sent.freeAt (x : Sent) : Nat := x.deadline + (if x.retx then 1 else 0)

/-- The period in which a sender forgets a message: a copy's waits one more period for its acknowledgement, which comes in a slack slot
(DESIGN CHOICE: R319 does not say when its sender takes it for lost; log 63). -/
def Sent.endAt (x : Sent) : Nat := x.freeAt + (if x.copy.isSome then 1 else 0)

/-- A message leaves those that its sender keeps. -/
def State.forget (s : State) (x : Sent) : State :=
  s.modFabric (fun f => { f with sent := f.sent.filter (fun y => y.id != x.id) })

/-- A message of a copy is lost: it is forgotten, its bytes post, the copy's fault is FABRIC_LOSS at the block it was for, from this device (R319,
R341). -/
def State.loseCopyMessage (s : State) (x : Sent) : State :=
  let s := s.forget x
  match x.copy with
  | none => s
  | some id =>
    let s := s.transferFault x.sid ⟨.fabricLoss, 2 ^ 55 + x.dest * 2 ^ 40 + x.offset, s.fabric.device + x.cls * 2 ^ 16 + x.tag * 2 ^ 32⟩
    let s := s.modCopy id (fun c => { c with fault := c.fault.orElse (fun _ => some .fabricLoss) })
    s.copyPosted id x.len

/-- Path sets that avoid the links that are down may be installed at a period boundary; a queued fragment that has no path then is lost
(R309, R310; log 63). -/
def Fabric.install (f : Fabric) (draw : Nat) : Fabric :=
  if f.shunned ≠ f.linksDown ∧ Config.pathsInstalled draw = true then
    let g := { f with paths := draw + 1, shunned := f.linksDown }
    { g with queue := g.queue.filter (fun q => g.sent.any (fun x => x.id == q.msg && g.pathUp x q.idx)) }
  else f

/-- What a period boundary does: the throttle, path sets, and the messages whose last deadline has passed. -/
def State.periodStart (s : State) : State :=
  let s := if s.fabric.member then s.throttleStep else s
  let free (x : Sent) : Bool := x.read && decide (x.freeAt ≤ s.fabric.period)
  let gone (x : Sent) : Bool := x.read && decide (x.endAt ≤ s.fabric.period)
  let lost := s.fabric.sent.filter gone
  let s := s.drawn.modFabric (fun f => Fabric.install { f with
    sent := f.sent.map (fun x => if free x then { x with frags := [] } else x), queue := f.queue.filter (fun q => f.sent.any (fun x => x.id == q.msg && !free x)) } s.free)
  lost.foldl State.loseCopyMessage s

/-- The fragment indices of a message that have not arrived: it has k + m of them (R305, R316). -/
def Reception.missing (r : Reception) : BitVec 24 :=
  (List.range (min 24 (r.k + r.m))).foldl (fun m j => if r.frags.any (fun p => p.1 == j) then m else m ||| BitVec.ofNat 24 (2 ^ j)) 0

/-- The retransmission requests and the acknowledgements that wait are sent in a slack slot (R316, R319). -/
def Fabric.sendRequests (f : Fabric) : Fabric :=
  let out := f.rx.filter (fun r => r.want && !r.asked)
  { f with requests := out.map (fun r => (r.source, r.cls, r.seq, r.missing)) ++ f.requests
           acks := f.acksDue ++ f.acks
           acksDue := []
           rx := f.rx.map (fun r => if r.want then { r with asked := true } else r) }

/-- An FSLOT wait for a slot ends in the slot's first cycle (R208). -/
def Stream.slotBegins (n : Nat) (t : Stream) : Stream := if t.fslot = some n then { t with fslot := none } else t

/-- A slot begins: the FSLOT waits for it end; a slack slot has a status point 1.5 µs in, and carries the requests and acknowledgements
that wait. -/
def State.slotStart (s : State) : State :=
  let s := (s.modStr .prim (Stream.slotBegins s.fabric.slot)).modStr .sec (Stream.slotBegins s.fabric.slot)
  let slack := s.fabric.slot % 8 == 7
  let s := s.modFabric (fun f => { (if slack then f.sendRequests else f) with
    slotAt := s.now, nextPoint := if f.member && slack then some (s.now + 1800) else none })
  (if s.fabric.slot = 0 then s.periodStart else s).sendSlot

/-- The next slot of the count. -/
def Fabric.advance (f : Fabric) : Fabric :=
  if f.slot = 63 then { f with slot := 0, period := f.period + 1 } else { f with slot := f.slot + 1 }

/-- The count at a slot boundary: the next slot, or the domain's count at the period boundary at which its schedule takes effect on
this device (R310, R382). -/
def Fabric.count (f : Fabric) (period : Nat) : Fabric :=
  match f.joining with
  | some 0 => { f with
      member := true, cut := false, device := Config.deviceNo % 2 ^ 15, slot := 0, period, joining := none, hold := false,
      overrun := false, mine := false }
  | some (n + 1) => { f.advance with joining := some n }
  | none => f.advance

/-- The cycle of the next boundary. -/
def State.nextBoundary (s : State) : Nat := s.now + 2399 + Config.slotDrift s.free % 3

/-- The end of a hold: the slot that the count reads begins. -/
def State.endHold (s : State) (held : Nat) : State :=
  let s := s.bbEvent 0x0104 0xFFFF 0 s.fabric.period held 0
  (s.modFabric (fun f => { f with hold := false, heldSlots := 0, overrun := false, mine := false })).slotStart

/-- A held slot begins: its status point, and its fragments. -/
def State.heldStart (s : State) (n : Nat) : State :=
  (s.modFabric (fun f => { f with hold := true, heldSlots := n, slotAt := s.now, nextPoint := some (s.now + 1800) })).sendSlot

/-- FABRIC_SLOT (R310, R312, R382): a slot or a held slot ends. -/
def execFabricSlot (s : State) : Out :=
  let f := s.fabric
  let s := (s.sendSlot.modFabric (fun f => { f with nextSlot := s.nextBoundary })).drawn
  if f.hold then
    if f.overrun then .next (s.heldStart (f.heldSlots + 1))
    else .next (s.endHold (f.heldSlots + 1))
  else if f.member && f.overrun && f.slot % 8 == 7 then .next ((s.modFabric Fabric.advance).heldStart 0)
  else .next ((s.drawn.modFabric (fun f => f.count (Config.domainPeriod s.free))).slotStart)

/-- Does a link still hold a fragment queued before this slack slot began: one of this core, or by a free value one of another core or in
transit (R312)? -/
def State.overruns (s : State) : Bool :=
  s.fabric.queue.any (fun q => decide (q.at' < s.fabric.slotAt)) || Config.deviceOverruns s.free

/-- FABRIC_STATUS_POINT (R312). -/
def execFabricStatusPoint (s : State) : Out :=
  let o := s.overruns
  let peer := Config.peerOverrun s.free
  .next (s.drawn.modFabric (fun f => { f with mine := o, overrun := o || peer, nextPoint := none }))

/-- Has a stream a SEND that is not fully sent (R313)? -/
def State.sending (s : State) (i : Sid) : Bool :=
  s.fabric.sent.any (fun x => x.sid == i && x.live && x.copy.isNone && s.fabric.queue.any (fun q => q.msg == x.id))

/-- A device that still overruns is cut: its queued fragments are discarded, and the streams that were sending take
FABRIC_HOLD_TIMEOUT (R313). -/
def State.cutDevice (s : State) : State :=
  let p := s.fabric.period
  let mark (s : State) (i : Sid) : State :=
    if s.sending i then s.modStr i (fun t => { t with holdTmo := t.holdTmo.orElse (fun _ => some p) }) else s
  (mark (mark s .prim) .sec).modFabric (fun f => { f with cut := true, member := false, queue := [] })

/-- HOLD_TIMEOUT (R313): the hold ends at its 1000th held slot. -/
def execHoldTimeout (s : State) : Out :=
  if s.fabric.hold ∧ 999 ≤ s.fabric.heldSlots then
    let mine := s.fabric.mine
    let s := (s.modFabric (fun f => { f with nextSlot := s.nextBoundary })).drawn
    let s := if mine then s.cutDevice else s
    .next (s.endHold 1000)
  else .next s

/-- The device is to join a domain: at a period boundary of the domain, a free number of slots on (R310, R382). -/
def State.joinDomain (s : State) : State :=
  s.drawn.modFabric (fun f => { f with joining := some (Config.joinSlots s.free) })

/-- REJOIN (R313). -/
def execRejoin (s : State) : Out := .next (if s.fabric.cut && s.fabric.joining.isNone then s.joinDomain else s)

/-! ### Fragments (R305, R306, R308, R314 to R318) -/

/-- The bytes a fragment's CRC covers (R306). -/
def fragmentBytes (f : Fragment) : List Byte :=
  toBytes 2 f.source.toNat ++ toBytes 2 f.dest.toNat ++ toBytes 2 f.asid.toNat ++ [f.cls, BitVec.ofNat 8 f.index,
    BitVec.ofNat 8 f.k, BitVec.ofNat 8 f.m] ++ toBytes 2 f.tag.toNat ++ toBytes 4 f.seq.toNat ++ toBytes 4 f.len ++
  toBytes 4 f.fbytes ++ toBytes 8 f.deadline ++ toBytes 8 f.offset.toNat ++ List.replicate 20 0 ++ f.payload ++ f.heads

/-- Does a fragment's CRC hold? -/
def fragmentCrc (f : Fragment) : Bool :=
  f.zeros && (let bs := fragmentBytes f; crc32c bs.length (ofBytes bs) == f.crc.toNat)

/-- Does a fragment's header keep every row of R306? -/
def fragmentHeader (f : Fragment) : Bool :=
  !f.source.getLsbD 15 && !f.dest.getLsbD 15 && f.asid.extractLsb' 12 4 == 0 && f.cls.extractLsb' 3 4 == 0 &&
  decide (f.index < f.k + f.m) && decide (1 ≤ f.k) && decide (f.k ≤ 16) && decide (f.m ≤ 8) && decide (1 ≤ f.len) &&
  decide (f.len ≤ 65536) && f.fbytes == fragBytes f.len f.k && decide (f.fbytes ≤ 4096) &&
  f.offset.extractLsb' 40 24 == 0 && f.zeros && f.payload.length == f.fbytes && f.heads.length == headBytes f.fbytes

/-- The class of a fragment, and whether it is retransmitted. -/
def fragClass (f : Fragment) : Nat := (f.cls.extractLsb' 0 3).toNat
def fragRetx (f : Fragment) : Bool := f.cls.getLsbD 7

/-- The session a fragment names, where its destination translates to DRAM that the session may write (R314). -/
def State.fragSession (s : State) (f : Fragment) : Option Session :=
  let a := f.offset.toNat
  match s.sessions.find? (fun x => x.asid.toNat == f.asid.toNat) with
  | none => none
  | some x =>
    if f.dest.toNat = s.fabric.device &&
        ((blocksOf a f.len).all (fun b => (match areaOf b with | .dram .. => true | _ => false) &&
          (x.page b).any (fun e => e.getLsbD 2))) then some x else none

/-- Does a message key belong to a record of a source, a class and a sequence? -/
def sameMsg (src cls seq : Nat) (r : Reception) : Bool := r.source == src && r.cls == cls && r.seq == seq

/-- The streams that can hold a RECV: those that run here, and those saved. -/
def State.recvMatched (s : State) (src cls seq : Nat) : Bool :=
  (s.prim.recvs ++ s.sec.recvs ++ s.saved.flatMap (·.stream.recvs)).any (fun r =>
    r.source == src && r.cls == cls && r.seq == some seq)

/-- Count a fragment disposed en passant (R317). -/
def State.enPassant (s : State) (matched : Bool) : State :=
  if matched then { s with fabLate := s.fabLate + 1 } else s.modFabric (fun f => { f with late := f.late + 1 })

/-- Mark the earliest posted RECV of a message's class, source and tag, in the message's session, as matched (R207). -/
def State.matchRecv (s : State) (r : Reception) : State :=
  let fits (t : Stream) (x : Recv) : Bool :=
    t.task.asid.toNat == r.asid && x.source == r.source && x.cls == r.cls && x.tag == r.tag && x.seq.isNone
  let all := (s.prim.recvs.filter (fits s.prim)) ++ (s.sec.recvs.filter (fits s.sec)) ++
    s.saved.flatMap (fun c => c.stream.recvs.filter (fits c.stream))
  match all with
  | [] => s
  | x :: xs =>
    let n := (xs.map (·.num)).foldl min x.num
    let mark (t : Stream) : Stream :=
      { t with recvs := t.recvs.map (fun y => if y.num = n then { y with seq := some r.seq } else y) }
    { (s.modStr .prim mark).modStr .sec mark with saved := s.saved.map (fun c => { c with stream := mark c.stream }) }

/-- The RECV matched to a message leaves its stream; what it had. -/
def Stream.takeRecv (t : Stream) (r : Reception) : Stream × Option Recv :=
  let hit (x : Recv) : Bool := x.source == r.source && x.cls == r.cls && x.seq == some r.seq
  ({ t with recvs := t.recvs.filter (fun x => !hit x) }, t.recvs.find? hit)

/-- A decoded message is written: payload, carried headers, FRESH tags (R271). -/
def State.writeMessage (s : State) (r : Reception) : State :=
  let g := headBytes r.fbytes
  let ds := solveFrags r.k (r.frags.map (fun (i, d) => (i, (d.take (r.fbytes + g)).map (·.toNat))))
  let (bytes, heads) := joinFrags r.len r.fbytes ds
  let at' := s.phys (BitVec.ofNat 12 r.asid)
  let s := bytes.zipIdx.foldl (fun s (x, j) => s.setByte (at' (r.offset + j)) (BitVec.ofNat 8 x)) s
  (blocksOf r.offset r.len).zipIdx.foldl (fun s (b, j) => s.setLane (at' b) (BitVec.ofNat 64 (heads.getD j 0 % 2 ^ 16))) s

/-- The RECV of a decoded message gets its length; without one the message is kept as decoded (R207, R271, R349). -/
def State.deliver (s : State) (r : Reception) : State :=
  let (p, a) := s.prim.takeRecv r
  let (q, b) := s.sec.takeRecv r
  match a, b with
  | some x, _ => ({ s with prim := p } : State).lengthReleased .prim x.num x.sync r.len
  | none, some x => ({ s with sec := q } : State).lengthReleased .sec x.num x.sync r.len
  | none, none =>
    if s.recvMatched r.source r.cls r.seq then
      { s with saved := s.saved.map (fun c => match c.stream.takeRecv r with
        | (t, some x) => { c with stream := t, posts := c.posts ++ [(x.sync, r.len)] }
        | (_, none) => c) }
    else s.modSession (BitVec.ofNat 12 r.asid) (fun x =>
      { x with decoded := x.decoded ++ [(r.source, r.cls, r.tag, r.seq, r.len)] })

/-- A decoded message of class 0, which may be a fabric-scope copy's, is to be acknowledged in a slack slot (R319; DEDUCED: a fragment does
not say whether a copy or a SEND has sent it; log 102). -/
def State.acknowledge (s : State) (r : Reception) : State :=
  if r.cls = 0 then s.modFabric (fun f => { f with acksDue := f.acksDue ++ [(r.source, r.cls, r.seq)] }) else s

/-- A message is done: its buffer is free. -/
def State.endMessage (s : State) (r : Reception) : State :=
  let m := s.recvMatched r.source r.cls r.seq
  s.modFabric (fun f => { f with
    rx := f.rx.filter (fun y => !sameMsg r.source r.cls r.seq y), doneMsgs := (r.source, r.cls, r.seq, m) :: f.doneMsgs })

/-- A fragment is added to its message; the k-th decodes it (R308). -/
def State.addFragment (s : State) (r : Reception) (idx : Nat) (data : List Byte) : State :=
  if r.frags.any (fun p => p.1 == idx) then s
  else
    let r := { r with frags := r.frags ++ [(idx, data)] }
    if r.frags.length = r.k then (((s.endMessage r).writeMessage r).deliver r).acknowledge r
    else s.modFabric (fun f => { f with rx := f.rx.map (fun y => if sameMsg r.source r.cls r.seq y then r else y) })

/-- Decode buffers in use (R315). -/
def Fabric.buffers (f : Fabric) : Nat := (f.rx.filter (·.buf)).length

/-- The reception that a fragment opens, with a decode buffer or without. -/
def State.opens (s : State) (f : Fragment) (buf : Bool) : Reception :=
  { source := f.source.toNat, cls := fragClass f, seq := f.seq.toNat, asid := f.asid.toNat, tag := f.tag.toNat, len := f.len,
    fbytes := f.fbytes, k := f.k, m := f.m, deadline := f.deadline, offset := f.offset.toNat, retx := (s.rate (fragClass f)).2.2,
    want := false, asked := false, buf, frags := [] }

/-- A fragment for this device that a session refuses is discarded; its message is one in reception all the same, and is lost at its
deadline if it cannot be decoded (R314, R318; log 80). -/
def State.refusedFragment (s : State) (f : Fragment) : State :=
  let known := s.fabric.rx.any (sameMsg f.source.toNat (fragClass f) f.seq.toNat) ||
    s.fabric.doneMsgs.any (fun m => m.1 == f.source.toNat && m.2.1 == fragClass f && m.2.2.1 == f.seq.toNat)
  if known || f.dest.toNat != s.fabric.device || !s.sessions.any (fun x => x.asid.toNat == f.asid.toNat) then s
  else
    let r := s.opens f false
    (s.modFabric (fun g => { g with rx := g.rx ++ [r] })).matchRecv r

/-- A RECV matched to a message is not matched any more. -/
def Stream.unmatch (src cls seq : Nat) (t : Stream) : Stream :=
  { t with recvs := t.recvs.map (fun x => if x.source = src ∧ x.cls = cls ∧ x.seq = some seq then { x with seq := none } else x) }

/-- The first valid fragment of a message that only refused fragments have named: its session, its destination, its tag and its lengths are
the valid one's, so that nothing of the refused ones is used; the retransmission it has asked for stands (R314, R316, R331; log 80). -/
def State.reopen (s : State) (r : Reception) (f : Fragment) : State :=
  let n := { s.opens f true with want := r.want, asked := r.asked, deadline := f.deadline + (if r.want then 1 else 0) }
  let free := Stream.unmatch r.source r.cls r.seq
  let s := (s.modStr .prim free).modStr .sec free
  let s : State := { s with saved := s.saved.map (fun c => { c with stream := free c.stream }) }
  ((s.modFabric (fun g => { g with rx := g.rx.map (fun y => if sameMsg r.source r.cls r.seq y then n else y) })).matchRecv n).addFragment n
    f.index (f.payload ++ f.heads)

/-- A valid fragment of a message not yet done: it takes a decode buffer if it is the message's first, and joins the others. -/
def State.validFragment (s : State) (f : Fragment) (full : State) : State :=
  let src := f.source.toNat
  let cls := fragClass f
  let seq := f.seq.toNat
  match s.fabric.rx.find? (sameMsg src cls seq) with
  | some r =>
    if r.asked && !fragRetx f then s.enPassant (s.recvMatched src cls seq)
    else if !r.buf && decide (256 ≤ s.fabric.buffers) then full
    else if r.buf then s.addFragment r f.index (f.payload ++ f.heads)
    else s.reopen r f
  | none =>
    if 256 ≤ s.fabric.buffers then full
    else
      let r := s.opens f true
      ((s.modFabric (fun g => { g with rx := g.rx ++ [r] })).matchRecv r).addFragment r f.index (f.payload ++ f.heads)

/-- FRAGMENT_ARRIVAL (R306, R314, R315, R317). With the Villafel links down nothing arrives (R370). -/
def execFragmentArrival (f : Fragment) (s : State) : Out :=
  let src := f.source.toNat
  let cls := fragClass f
  let seq := f.seq.toNat
  let drop (why : Nat) : State := s.bbEvent 0x0105 0xFFFF f.asid.toNat src why seq
  if !s.service.isUp .villafel then .next s
  else if !fragmentHeader f then .next (drop (if !f.zeros || fragmentCrc f then 1 else 4))
  else if !fragmentCrc f then .next (drop 4)
  else if (s.fragSession f).isNone then .next ((drop 2).refusedFragment f)
  else match s.fabric.doneMsgs.find? (fun m => m.1 == src && m.2.1 == cls && m.2.2.1 == seq) with
    | some m => .next (s.enPassant m.2.2.2)
    | none => .next (s.validFragment f (drop 3))

/-! ### Deadlines and losses (R316, R318) -/

/-- A kept loss: at most 256 per session, the oldest dropped with an entry. -/
def State.keepLoss (s : State) (r : Reception) : State :=
  let asid := BitVec.ofNat 12 r.asid
  match s.sessions.find? (fun x => x.asid == asid) with
  | none => s
  | some x =>
    let old := if 256 ≤ x.losses.length then x.losses.head? else none
    let s := match old with
      | some (src, _, _, seq) => s.bbEvent 0x0106 0xFFFF r.asid src seq 0
      | none => s
    s.modSession asid (fun y => { y with
      losses := (if old.isSome then y.losses.drop 1 else y.losses) ++ [(r.source, r.cls, r.tag, r.seq)] })

/-- A message is lost: its matched RECV's stream takes FABRIC_LOSS, or the loss is kept. -/
def State.loseMessage (s : State) (r : Reception) : State :=
  let m := s.recvMatched r.source r.cls r.seq
  let s := s.endMessage r
  if !m then s.keepLoss r
  else
    let hit (t : Stream) : Stream := match t.takeRecv r with
      | (t', some _) => { t' with losses := t'.losses ++ [(r.source, r.cls, r.tag, r.seq)] }
      | (_, none) => t
    { (s.modStr .prim hit).modStr .sec hit with saved := s.saved.map (fun c => { c with stream := hit c.stream }) }

/-- DEADLINE_EXPIRY (R316, R318): one retransmission request where the class allows it, to be sent in the first slack slot of the
period, else the message is lost. -/
def execDeadlineExpiry (cls : BitVec 3) (source : BitVec 15) (seq : BitVec 32) (s : State) : Out :=
  match s.fabric.rx.find? (sameMsg source.toNat cls.toNat seq.toNat) with
  | none => .next s
  | some r =>
    if s.fabric.period < r.deadline then .next s
    else if r.retx && !r.want then
      .next (s.modFabric (fun f => { f with
        rx := f.rx.map (fun y => if sameMsg r.source r.cls r.seq y then { y with want := true, deadline := y.deadline + 1 } else y) }))
    else .next (s.loseMessage r)

/-- RETRANSMISSION_REQUEST (R316): the missing fragments are queued again, with R = 1; there is at most one request per message. -/
def execRetransmissionRequest (cls : BitVec 3) (seq : BitVec 32) (missing : BitVec 24) (s : State) : Out :=
  match s.fabric.sent.find? (fun x => x.cls == cls.toNat && x.seq == seq.toNat && x.retx && x.read && !x.asked && !x.frags.isEmpty &&
    s.service.isUp .villafel) with
  | none => .next s
  | some x =>
    .next (s.modFabric (fun f => Fabric.enqueue { f with
      sent := f.sent.map (fun y => if y.id = x.id then { y with asked := true } else y) } s.now x true
      ((List.range (x.k + x.m)).filter (fun j => missing.getLsbD j))))

/-- FABRIC_ACK (R319): the message of a copy with a sequence number of class 0 was decoded at its destination; its bytes post. -/
def execFabricAck (copy : Nat) (seq : BitVec 32) (s : State) : Out :=
  match s.fabric.sent.find? (fun x => x.copy == some copy && x.seq == seq.toNat && s.service.isUp .villafel) with
  | some x => .next ((s.forget x).copyPosted copy x.len)
  | none => .next s

/-- LINK_DOWN (R309, R362, R365): a link or a port is retired, fragments on a link's paths are lost; an uncorrectable error in the
service's own memory, or any other part that fails, makes the device FAILED (log 103). -/
def execLinkDown (part : Part) (s : State) : Out :=
  match part with
  | .link n => .next (s.retire (3, n))
  | .port n => .next (s.retire (4, n))
  | .serviceMemory => .next s.failDevice
  | .other => .next s.failDevice

end Sys2Proof.Machine
end

