-- ==== Sys2Proof/Machine/Context.lean ====
section
/-! DEFINITION. Sys2Proof/Machine/Context.lean: the contexts of pre-empted members: what a save keeps, its segments as bytes in the
save area, their checks at a restore, and the contents coming back (R297, R345 to R350). -/

namespace Sys2Proof.Machine

/-! ### What a save waits for, and what it keeps (R345, R347) -/

/-- Is the member's core quiet (R345)? A window that an SAEF closes is applied even where updates before it are still to collect. -/
def State.saveQuiet (s : State) (i : Sid) : Bool :=
  s.quiet i && s.portsDrained i && (s.str i).sae.items.isEmpty &&
  !(s.str i).sae.subs.any (fun x => match x with | .close .. => true | _ => false) && !s.copies.any (fun c => c.sid == i && c.started) &&
  !s.fabric.sent.any (fun x => x.sid == i && x.live && !x.read) &&
  !(s.str i).ports.any (fun p => p.2.any (fun q => q.kind == .feed && q.flying))

/-- The entries of a map with keys in a range. -/
def sliceMap {α : Type} (m : SMap α) (lo n : Nat) : SMap α := m.filter (fun p => decide (lo ≤ p.1) && decide (p.1 < lo + n))

/-- An in-port as it is saved: at its first entry not yet read (R345). -/
def Port.saved (p : Port) : Port :=
  if p.kind = .input then { p with pos := p.pos - p.entries.length, entries := [], flying := false } else p

/-- Has a stream a domain awake? -/
def State.hasAwake (s : State) (i : Sid) (d : Nat) : Bool := s.domAwake d && (s.dom d).owner == some i

/-- The banks a stream has awake. -/
def State.awakeBanks (s : State) (i : Sid) : List Nat := (List.range 16).filter (fun b => s.hasAwake i (domDb b))

/-- The context of a stream as its segments hold it (R347). -/
def State.context (s : State) (i : Sid) : SavedCtx :=
  let t := s.str i
  let lo := 64 * physTile i t.task.tiles 0
  let banks := s.awakeBanks i
  let inBank (a : Nat) : Bool := banks.any (fun b =>
    decide (bankBase s.coreNo.toNat b ≤ a) && decide (a < bankBase s.coreNo.toNat b + 0x2_0000))
  let dv := s.hasAwake i domDv
  let dxa := s.hasAwake i domDxa
  let panel (p : Nat) : Bool := s.hasAwake i (domDm p)
  { sid := i
    doms := (List.range 23).filterMap (fun d => if (s.dom d).owner = some i then some (d, s.dom d) else none)
    stream := { t with
      ports := (t.ports.map (fun p => (p.1, p.2.map Port.saved)))
      la := [], lb := [], presented := false, lateAt := none }
    rows := sliceMap s.tiles lo (64 * t.task.tiles)
    masks := if dv then s.masks else []
    xvs := if dv then s.xvs else []
    prows := s.prows.filter (fun p => panel (p.1 / 512))
    pfmts := s.pfmts.filter (fun p => panel p.1)
    rowBuf := if dxa then (s.active, s.shadow, s.pass) else (Half.empty, Half.empty, none)
    banks := if dxa then (s.bank0, s.bank1, s.work1) else ([], [], false)
    bytes := s.mem.filter (fun p => inBank p.1)
    lanes := s.lanes.filter (fun p => inBank p.1)
    copies := s.copies.filter (fun c => c.sid == i)
    forced := t.saveBy.isSome
    posts := [] }

/-! ### Contents as bytes (R347; the layout within a segment is the model's: log 83) -/

/-- Numbers as 64-bit words. -/
def wideBytes (xs : List Nat) : List Byte := xs.flatMap (toBytes 8)

/-- A list with its length before it. -/
def counted (xs : List Nat) : List Nat := xs.length :: xs

/-- A number present or absent. -/
def optWords : Option Nat → List Nat
  | some x => [1, x]
  | none => [0, 0]

/-- A signed number as a 64-bit word. -/
def intWord (x : Int) : Nat := (wrap64 x).toNat

/-- A sequencer level. -/
def SeqLvl.words (l : SeqLvl) : List Nat := [l.c, l.d, intWord l.u, intWord l.w]

/-- Scalar state: PC, queues with landed entries, rotation base, predicates, stacks, shape registers with their shadows, levels, task
control registers, safe-point count. -/
def Scalars.words (c : Scalars) : List Nat :=
  c.pc.toNat :: optWords (c.delay.map (·.toNat)) ++
  (List.range 32).flatMap (fun q => counted ((SMap.get [] c.queues q).map (·.toNat))) ++
  [c.rb.toNat, c.preds.toNat] ++ counted (c.link.map (·.toNat)) ++
  (c.loops.length :: c.loops.flatMap (fun l => [l.first.toNat, l.last.toNat, l.iters, l.j, l.count])) ++
  (c.shapes.length :: c.shapes.flatMap (fun p => [p.1, p.2.toNat])) ++
  (c.levels.length :: c.levels.flatMap (fun p => p.1 :: p.2.words)) ++
  [c.profile.toNat, c.vrnd.toNat, c.mrnd.toNat, c.seed.toNat, c.step.toNat, c.safeCount]

/-- A port binding: its kind, walk position, shape and scope. -/
def portWords : Option Port → List Nat
  | none => [0]
  | some p => [(match p.kind with | .input => 1 | .output => 2 | .feed => 3), p.pos, p.seq, p.scope, p.sae] ++
    counted (p.shape.map (·.toNat))

/-- The bindings of the eight ports. -/
def portsWords (ps : SMap (Option Port)) : List Nat := (List.range 8).flatMap (fun k => portWords (SMap.get none ps k))

/-- A row's payload and header. -/
def Row.bytes (r : Row) : List Byte := toBytes 64 r.payload.toNat ++ toBytes 2 r.h1.toNat

/-- An accumulator as its spill record (R235). -/
def Acc.bytes (a : Acc) : List Byte := toBytes 96 a.record

/-- A half of the row buffer: its state and plane counter, its format and profile, its rows. -/
def Half.bytes (h : Half) : List Byte :=
  wideBytes [(match h.st with | .empty => 0 | .filling => 1 | .full => 2), h.counter, h.fmt, h.prof, h.readyAt,
    (h.bad.map (fun c => c.code.num)).getD 0, h.rows.length] ++
  h.rows.flatMap (fun r => toBytes 64 r.1.toNat ++ toBytes 2 r.2.toNat)

/-- An open pass: its panel and row group, the sums of its K-blocks, and their flags (R163). -/
def passBytes : Option Pass → List Byte
  | none => wideBytes [0]
  | some p =>
    wideBytes (1 :: optWords (p.panel.map (·.1)) ++ optWords (p.panel.map (·.2)) ++ [p.sums.length, p.flags.length]) ++
    p.sums.flatMap (fun x => wideBytes [x.1] ++ toBytes 320 (BitVec.ofInt 2560 x.2).toNat) ++
    p.flags.flatMap (fun x => wideBytes [x.1, x.2.toNat])

/-- A journal entry. -/
def JEntry.bytes : JEntry → List Byte
  | .row i r => wideBytes [1, i] ++ r.bytes
  | .acc i a => wideBytes [2, i] ++ a.bytes
  | .mask i v => wideBytes [3, i, v.toNat]
  | .xv i a => wideBytes [4, i] ++ a.bytes
  | .panelRow i p => wideBytes [5, i] ++ toBytes 128 p.elems.toNat ++ toBytes 2 p.hdr.toNat
  | .panelFmt i f => wideBytes [6, i, f]
  | .rowBuf a b p => wideBytes [7] ++ a.bytes ++ b.bytes ++ passBytes p
  | .bank b => wideBytes [8, b.toNat]

/-- The segment checkpoint. -/
def ckptWords : Option Checkpoint → List Nat
  | none => [0]
  | some c => 1 :: c.sc.words ++ portsWords c.ports ++ [c.seq, c.commit.toNat, c.tix, c.ended, c.seg.toNat]

/-- A panel: its format, then one packed row for each k index with its header (R157). -/
def panelBytes (fmt : Nat) (rows : SMap PRow) (p : Nat) : List Byte :=
  let w := elemBits fmt
  wideBytes [fmt] ++ (if planesOf fmt = 0 then [] else (List.range (2048 / w)).flatMap (fun k =>
    let r := SMap.get PRow.none rows (512 * p + k)
    toBytes (8 * w) r.elems.toNat ++ toBytes 2 r.hdr.toNat))

/-- A copy that has not started, with its sync word and whether it posts to its ring entry. -/
def Copy.words (c : Copy) : List Nat :=
  counted (c.src.map (·.toNat)) ++ counted (c.dst.map (·.toNat)) ++ (c.levels.length :: c.levels.flatMap SeqLvl.words) ++
  optWords c.sync ++ [c.ring.toNat, c.fabric.toNat, c.scope]

/-- A submission still to collect. -/
def SaeSub.words : SaeSub → List Nat
  | .updates ip vp base left _ => [1, ip, vp, base, left]
  | .close sync _ => 2 :: optWords sync

/-- The wait in which a member has arrived at its barrier or rendezvous. -/
def waitWords : Option Wait → List Nat
  | some (.bar n) => [1, n, 0]
  | some (.rdv n id) => [2, n, id]
  | _ => [0, 0, 0]

/-- The number of a domain state. -/
def DomSt.num : DomSt → Nat
  | .asleep => 0 | .queued => 1 | .waking => 2 | .awake => 3

/-- What a member writes, by kind, in the order of R347. -/
def State.contents (s : State) (c : SavedCtx) : List (Nat × List Byte) :=
  let t := c.stream
  let core := s.coreNo.toNat
  let was (d : Nat) : Bool := c.doms.any (fun p => p.1 == d && p.2.st == .awake)
  let tile (k : Nat) : List Byte :=
    (List.range 64).flatMap (fun r => (SMap.get Row.start c.rows (64 * physTile c.sid t.task.tiles k + r)).bytes)
  let accs (m : SMap Acc) : List Byte := (List.range 1024).flatMap (fun k => (SMap.get Acc.clear m k).bytes)
  let bank (b : Nat) : List Byte :=
    let a := bankBase core b
    (List.range 0x2_0000).map (fun k => SMap.get 0 c.bytes (a + k)) ++
    wideBytes ((List.range 2048).map (fun k => (SMap.get 0 c.lanes (a + 64 * k)).toNat))
  [(0x01, wideBytes (c.doms.length :: c.doms.flatMap (fun p => [p.1, p.2.st.num]))),
   (0x02, wideBytes (t.sc.words ++ (match t.xfault with | some f => [1, f.code.num, f.addr, f.aux] | none => [0]))),
   (0x03, wideBytes (ckptWords t.ckpt) ++ wideBytes [t.journal.length] ++ t.journal.flatMap JEntry.bytes)] ++
  (List.range t.task.tiles).map (fun k => (0x04, tile k)) ++
  (if was domDv then [(0x05, wideBytes ((List.range 7).map (fun k => (SMap.get 0 c.masks (k + 1)).toNat)) ++
    (List.range 4).flatMap (fun k => (SMap.get Acc.clear c.xvs k).bytes))] else []) ++
  ((List.range 8).filter (fun p => was (domDm p))).map (fun p => (0x06, panelBytes (SMap.get 0 c.pfmts p) c.prows p)) ++
  (if was domDxa then [(0x07, c.rowBuf.1.bytes ++ c.rowBuf.2.1.bytes ++ passBytes c.rowBuf.2.2 ++ wideBytes [c.banks.2.2.toNat] ++
    accs (if c.banks.2.2 then c.banks.2.1 else c.banks.1) ++ accs (if c.banks.2.2 then c.banks.1 else c.banks.2.1))] else []) ++
  ((List.range 16).filter (fun b => was (domDb b))).map (fun b => (0x08, bank b)) ++
  (if was domDxt then
    [(0x09, wideBytes (c.copies.length :: c.copies.flatMap Copy.words ++ portsWords t.ports)),
     (0x0A, wideBytes (t.sae.opened.length :: t.sae.opened.flatMap (fun u => [u.1, u.2.toNat]) ++
       t.sae.subs.length :: t.sae.subs.flatMap SaeSub.words))] else []) ++
  (if t.task.member = 0 then
    [(0x0B, wideBytes (waitWords t.wait ++ [(s.phase t.task.asid t.task.gslot.toNat).toNat]))] else [])

/-! ### Segments (R346) -/

/-- Payload bytes of a segment at most. -/
def segMax : Nat := 4096

/-- Cut contents into payloads of segments. -/
def segPieces (xs : List Byte) : List (List Byte) :=
  (List.range ((xs.length + segMax - 1) / segMax)).map (fun k => (xs.drop (segMax * k)).take segMax)

/-- The kind of the End segment. -/
def segEnd : Nat := 0x0F

/-- The segments of some contents in order, the End segment last with the number of those before it (R347). -/
def segments (items : List (Nat × List Byte)) : List (Nat × List Byte) :=
  let segs := items.flatMap (fun x => (segPieces x.2).map (fun d => (x.1, d)))
  segs ++ [(segEnd, toBytes 4 segs.length)]

/-- Bytes 0 to 11 of a segment's header: sequence, kind, zero, length. -/
def segHead (seq kind len : Nat) : List Byte := toBytes 4 seq ++ toBytes 2 kind ++ toBytes 2 0 ++ toBytes 4 len

/-- The CRC of a segment: of bytes 0 to 11 and the payload. -/
def segCrc (head data : List Byte) : Nat := crc32c (head ++ data).length (ofBytes (head ++ data))

/-- A segment: its 16-byte header, then its payload. -/
def segBytes (seq kind : Nat) (data : List Byte) : List Byte :=
  let head := segHead seq kind data.length
  head ++ toBytes 4 (segCrc head data) ++ data

/-- The bytes of a save, one segment after the other. -/
def saveBytes (items : List (Nat × List Byte)) : List Byte :=
  (segments items).zipIdx.flatMap (fun x => segBytes x.2 x.1.1 x.1.2)

/-- The kinds of R347. -/
def segKnown (kind : Nat) : Bool := (decide (1 ≤ kind) && decide (kind ≤ 0x0B)) || kind == segEnd

/-- A slice's bytes, and where its save area begins: its last 8 MiB, 4 MiB for each stream (R348 gives no place; log 83). -/
def sliceSize : Nat := 0x1800_0000
def saveAt : Nat := 0x1780_0000
def saveSize : Nat := 0x40_0000

/-- The save area of a stream in the core's own vault slice (R348). -/
def State.saveArea (s : State) (i : Sid) : Nat :=
  let c := s.coreNo.toNat
  c % 128 * 0x8000_0000 + coreL c * sliceSize + saveAt + (match i with | .prim => 0 | .sec => saveSize)

/-- The segment at an address passes its checks: sequence, kind order, zero field, length, CRC, no stored error; its kind and length
(R346, R349, R358). -/
def State.segAt (s : State) (a seq last : Nat) : Option (Nat × Nat) :=
  let kind := s.load (a + 4) 2
  let len := s.load (a + 8) 4
  if s.load a 4 = seq ∧ segKnown kind = true ∧ last ≤ kind ∧ s.load (a + 6) 2 = 0 ∧ 1 ≤ len ∧ len ≤ segMax ∧
      (blocksOf a (16 + len)).any s.isBad = false ∧ s.load (a + 12) 4 = segCrc (s.bytes a 12) (s.bytes (a + 16) len) then some (kind, len)
  else none

/-- Does every segment from an address on pass, up to an End that names their number? -/
def State.segsPass (s : State) : Nat → Nat → Nat → Nat → Bool
  | 0, _, _, _ => false
  | fuel + 1, a, seq, last =>
    match s.segAt a seq last with
    | none => false
    | some (kind, len) =>
      if kind = segEnd then len == 4 && s.load (a + 16) 4 == seq else s.segsPass fuel (a + 16 + len) (seq + 1) kind

/-- The most segments that a save area holds. -/
def segFuel : Nat := 4096

/-- Do the segments in a stream's save area pass (R349)? -/
def State.savePasses (s : State) (i : Sid) : Bool := s.segsPass segFuel (s.saveArea i) 0 0

/-! ### Saving and restoring (R345, R348, R349) -/

/-- The stream slot of a member whose context is away: what the context took with it is gone from the core. -/
def Stream.leftBehind (t : Stream) : Stream :=
  { t with status := .saved, saveBy := none, preempt := false, la := [], lb := [], ports := [], recvs := [], owed := [],
           sae := { t.sae with subs := [], opened := [] } }

/-- The member's context is written to its save area, its domains sleep, and its copies wait with it (R345, R348). -/
def State.saveContext (s : State) (i : Sid) : State :=
  let c := s.context i
  let s : State := { s with mem := SMap.splice 0 s.mem (s.saveArea i) (saveBytes (s.contents c)) }
  let s := s.sleepAll i
  { s with saved := c :: s.saved, copies := s.copies.filter (fun x => x.sid != i)
           rowOps := s.rowOps.filter (fun o => !c.copies.any (fun x => o.acc == some x.id)) }.modStr i Stream.leftBehind

/-- The saved context of a stream. -/
def State.savedOf (s : State) (i : Sid) : Option SavedCtx := s.saved.find? (fun c => c.sid == i)

/-- The gang of a stream's task. -/
def State.gangOf (s : State) (i : Sid) : Option Gang :=
  s.gangs.find? (fun g => g.step.queue == (s.str i).task.queue && g.step.num == (s.str i).task.stepNo)

/-- Does a saved gang fit on its cores again (R286, R349)? -/
def State.fitsBack (s : State) (i : Sid) : Bool :=
  match s.gangOf i with
  | some g => s.gangFits g
  | none =>
    let o := (s.str (Sid.other i))
    let t := (s.str i).task
    o.status == .idle || o.status == .saved || beside (o.task.tiles, o.task.banks) (t.tiles, t.banks)

/-- A resuming member queues the domains of its saved wake set in bit order; one that the other stream's task still holds waits
(R297, R349; log 81). -/
def State.queueSaved (s : State) (i : Sid) (c : SavedCtx) : State :=
  c.doms.foldl (fun s p => if (s.dom p.1).st = .asleep then s.queueWake i p.1 else s) s

/-- A saved domain that has still to be queued. -/
def State.unqueued (s : State) (c : SavedCtx) : Bool := c.doms.any (fun p => (s.dom p.1).st == .asleep)

/-- Is every saved domain awake for its member? -/
def State.allBack (s : State) (i : Sid) (c : SavedCtx) : Bool := c.doms.all (fun p => s.hasAwake i p.1)

/-- Merge saved entries into a map. -/
def putAll {α : Type} [DecidableEq α] (d : α) (m : SMap α) (xs : SMap α) : SMap α := xs.foldl (fun m p => SMap.set d m p.1 p.2) m

/-- The stream of a member as it comes back: as it was saved, with what has become due meanwhile; the watchdog and the safe-point count
start afresh (R89, R349, R351, R352). -/
def SavedCtx.back (c : SavedCtx) (now : Stream) : Stream :=
  { c.stream with
    status := if c.stream.status = .finished then .finished else .running
    preempt := false, saveBy := none, atSafe := false, resumed := c.forced, still := 0, lastProg := none, unsampled := true
    refreshDue := c.stream.refreshDue.orElse (fun _ => now.refreshDue)
    holdTmo := c.stream.holdTmo.orElse (fun _ => now.holdTmo)
    xfault := c.stream.xfault.orElse (fun _ => now.xfault)
    overshoot := c.stream.overshoot.orElse (fun _ => now.overshoot)
    sc := { c.stream.sc with safeCount := 0 } }

/-- The rows that an unstarted copy keeps pending. -/
def State.copyHolds (s : State) (c : Copy) : List RowOp :=
  (s.tileRowsOf (((List.range c.total).flatMap (copyWrites c)).eraseDups)).map (fun k =>
    ⟨c.sid, k, 0, 0, .keep, false, false, 0, c.id, some c.id, true⟩)

/-- The contents come back, the copies and ports with them, and the sync words of RECVs whose messages were written meanwhile are
updated; the member's first bundle may issue (R349). -/
def State.finishRestore (s : State) (i : Sid) (c : SavedCtx) : State :=
  let lo := 64 * physTile i c.stream.task.tiles 0
  let was (d : Nat) : Bool := c.doms.any (fun p => p.1 == d && p.2.st == .awake)
  let s : State := { s with
    tiles := putAll Row.start (SMap.clear s.tiles lo (64 * c.stream.task.tiles)) c.rows
    masks := if was domDv then c.masks else s.masks
    xvs := if was domDv then c.xvs else s.xvs
    prows := putAll PRow.none s.prows c.prows
    pfmts := putAll 0 s.pfmts c.pfmts
    mem := putAll 0 s.mem c.bytes
    lanes := putAll 0 s.lanes c.lanes
    copies := s.copies ++ c.copies
    rowOps := s.rowOps ++ c.copies.flatMap s.copyHolds
    saved := s.saved.filter (fun x => x.sid != i) }
  let s : State := if was domDxa then
      { s with active := c.rowBuf.1, shadow := c.rowBuf.2.1, pass := c.rowBuf.2.2, bank0 := c.banks.1, bank1 := c.banks.2.1,
               work1 := c.banks.2.2 }
    else s
  c.posts.foldl (fun s p => s.syncOp p.1 p.2) (s.modStr i c.back)

/-- A restore whose segments fail: UNCORRECTABLE with sub 0, before any bundle of the gang issues (R341, R349). -/
def State.failRestore (s : State) (i : Sid) : State :=
  ({ s with saved := s.saved.filter (fun x => x.sid != i) } : State).takeTrap i
    { rank := 9, slot := 0xFF, code := .uncorrectable, addr := s.saveArea i, sub := 0 }

end Sys2Proof.Machine
end

