-- ==== Sys2Proof/Machine/Gangs.lean ====
section
/-! DEFINITION. Sys2Proof/Machine/Gangs.lean: the events of the scheduler and of recovery: trap handling, pre-emption, context
save and restore, watchdog, gang start and completion (R276, R287, R342 to R353). -/

namespace Sys2Proof.Machine

/-! ### After a trap (R342, R343) -/

/-- The code, the SOFTWARE immediate and the delay flag of a record (R340). -/
def recCode (r : BitVec 512) : Nat := (r.extractLsb' 0 8).toNat
def recAux (r : BitVec 512) : Nat := (r.extractLsb' 256 64).toNat

/-- Resume at the bundle that follows a TRAP bundle in execution order (R342). Where the TRAP bundle stood as a commit bundle, the bundle
that is resumed at is one (DESIGN CHOICE: the manual does not say whether it is; log 82). -/
def State.resumeAfter (s : State) (i : Sid) : State :=
  let c := (s.str i).sc
  match c.delay with
  | some t => s.resumeAt i t none
  | none =>
    let (c', back) := loopBoundary c.pc c.loops c
    (s.modStr i (fun t => { t with sc := c' })).resumeAt i (back.getD (BitVec.ofNat 64 (s.seqNext i c.pc.toNat))) none

/-- The page of DRAM that a record of UNCORRECTABLE makes the service retire: its address is in a block stored with an error (R358, R362;
log 94). -/
def State.brokenPage (s : State) (i : Sid) (r : BitVec 512) : Option Nat :=
  let a := (r.extractLsb' 192 64).toNat
  let b := s.phys (s.asidOf i) (blockOf a)
  match areaOf a with
  | .dram .. =>
    let page := b / 0x20_0000 * 0x20_0000
    if recCode r = TrapCode.uncorrectable.num ∧ s.isBad b = true ∧ (5, page) ∉ s.service.retired then some page else none
  | _ => none

/-- Retire the page that a record names, if it names one. -/
def State.retireBroken (s : State) (i : Sid) (r : BitVec 512) : State :=
  match s.brokenPage i r with
  | some p => s.retire (5, p)
  | none => s

/-- TRAP_HANDLING (R342): REFRESH_LATE resumes at its bundle, a SOFTWARE trap of the service's range after it, every other
code ends the gang; the page of a block stored with an error is retired (R362). -/
def execTrapHandling (i : Sid) (s : State) : Out :=
  let t := s.str i
  match t.record with
  | some r =>
    if t.status = .trapped ∧ t.actAt ≤ s.now then
      if recCode r = TrapCode.refreshLate.num then .next (s.resumeAt i t.sc.pc t.sc.delay)
      else if recCode r = TrapCode.software.num ∧ 0xFF00 ≤ recAux r then .next (s.resumeAfter i)
      else .next ((s.retireBroken i r).discard i .faulted (recCode r))
    else .next s
  | none => .next s

/-! ### Pre-emption (R344 to R350) -/

/-- PREEMPTION_REQUEST (R344): it reaches every member, one whose trap is being handled too. -/
def execPreemptionRequest (i : Sid) (s : State) : Out :=
  let t := s.str i
  .next (if t.status = .running ∨ t.status = .trapped ∨ t.status = .finished then s.modStr i (fun t => { t with preempt := true }) else s)

/-- Has a member stopped for a pre-emption (R344)? -/
def State.stopped (s : State) (i : Sid) : Bool := (s.str i).stopped

/-- CONTEXT_SAVE (R345 to R348): the context is written, its domains sleep. -/
def execContextSave (i : Sid) (s : State) : Out := .next (if s.stopped i && s.saveQuiet i then s.saveContext i else s)

/-- CONTEXT_RESTORE (R349): a saved member reads its segments and queues its wakes, and its contents come back when every domain is
awake; a segment that fails its check traps the gang. -/
def execContextRestore (i : Sid) (s : State) : Out :=
  match s.savedOf i with
  | none => .next s
  | some c =>
    if (s.str i).status = .saved ∧ s.fitsBack i = true then
      .next (if s.savePasses i then (s.modStr i (fun t => { t with status := .restoring })).queueSaved i c else s.failRestore i)
    else if (s.str i).status = .restoring then
      .next (if s.unqueued c then s.queueSaved i c else if s.allBack i c then s.finishRestore i c else s)
    else .next s

/-! ### The watchdog (R351, R352) -/

/-- Kill a gang (R352). -/
def State.kill (s : State) (i : Sid) : State := s.discard i .killed TrapCode.watchdog.num

/-- Is a stream's gang one whose progress the watchdog samples: it runs, and a member has issued a bundle since it started or resumed? One
that is held by a wait counts as issued here, though its progress counter stands (DEDUCED from R351, which excepts such a bundle from those
that the counter counts; log 101). -/
def Stream.sampled (t : Stream) (peers : Bool) : Bool :=
  (t.status == .running || t.status == .trapped || t.status == .finished) && (!t.unsampled || t.wait.isSome || peers)

/-- One stream's sample: the first after a start or a resume counts nothing; the hundredth without an advance forces a pre-emption, and
a gang that has not advanced since a forced one is killed (R351, R352). -/
def State.sample (s : State) (i : Sid) : State :=
  let t := s.str i
  let peers := decide (1 < t.task.members.toNat) && Config.peersAdvance s.free
  if !t.sampled peers then s.drawn
  else
    let first := t.lastProg.isNone
    let moved := !first && (t.lastProg != some t.progress || peers)
    let still := if first || moved then 0 else t.still + 1
    let s := s.drawn.modStr i (fun t => { t with
      lastProg := some t.progress, still, resumed := t.resumed && !moved && !peers, unsampled := false })
    if still = 100 then
      if t.resumed then s.kill i
      else s.modStr i (fun t => { t with preempt := true, saveBy := some (s.now + 12000000) })
    else s

/-- WATCHDOG_SAMPLE (R351): every grid cycle. -/
def execWatchdogSample (s : State) : Out := .next ({ ((s.sample .prim).sample .sec) with nextGrid := s.nextGrid + 1200000 })

/-- WATCHDOG_KILL (R352): a forced save that is not complete within 10 ms. -/
def execWatchdogKill (i : Sid) (s : State) : Out :=
  match (s.str i).saveBy with
  | some c => .next (if c ≤ s.now then s.kill i else s)
  | none => .next s

/-! ### Gangs (R276, R277, R281, R287) -/

/-- GANG_START (R276, R277, R281): a step of the queue ends without running, else its head starts, or displaces secondary gangs
first. -/
def execGangStart (q : BitVec 6) (s : State) : Out :=
  match (s.endingStep q.toNat).bind (fun p => (s.endsNow p).map (fun f => (p, f))) with
  | some (p, st, fault) => .next (s.endStep p st fault 0)
  | none => match s.headAct q.toNat with
    | .wait => .next s
    | .start g => .next (s.startStep g)
    | .displace g => .next (s.displace g)

/-- Tile tasks that a gang ends in all. -/
def Task.total (t : Task) : Nat := if t.members.toNat ≤ 1 then t.ended else t.ext.foldl (· * ·) 1

/-- The status with which a gang ends: DONE without a fault, KILLED by the watchdog, FAULTED by a member's trap, whatever its code (R287,
R342, R352). -/
def faultStatus (f : Nat) (killed : Bool) : EvStatus := if f = 0 then .done else if killed then .killed else .faulted

/-- GANG_COMPLETION (R287): every member has finished, or another member has ended the gang, with its trap or at the watchdog (R342,
R352). -/
def execGangCompletion (g : GangRef) (s : State) : Out :=
  match g with
  | .here i f killed =>
    let t := s.str i
    if f ≠ 0 then .next (if 1 < t.task.members.toNat ∧ t.status ≠ .idle then s.discard i (faultStatus f.toNat killed) f.toNat else s)
    else if t.status = .finished then
      let s := (s.setStr i Stream.idle).endStep t.task.step .done 0 t.task.total
      .next (s.endPhase t.task.asid t.task.gslot.toNat)
    else .next s
  | .away q n f killed =>
    match s.gangs.find? (fun g => g.step.queue == q.toNat && g.step.num == n && !s.onCore g) with
    | none => .next s
    | some g =>
      let count := if f = 0 then recTiles g.step.record else Config.peersEnded s.free
      .next ((s.drawn.endStep g.step (faultStatus f.toNat killed) f.toNat count).endPhase g.step.asid g.slot)

end Sys2Proof.Machine
end

