-- ==== Sys2Proof/Machine/Requests.lean ====
section
/-! DEFINITION. Sys2Proof/Machine/Requests.lean: the host requests and the operator's settings (R37, R78, R283, R288, R324 to
R337, R366, R370). A response gives its kind, id, ASID, status, detail and body. -/

namespace Sys2Proof.Machine

/-! ### Responses (R332, R333) -/

/-- Status values. -/
def stOk : Nat := 0
def stBadKind : Nat := 1
def stBadField : Nat := 2
def stNoSession : Nat := 3
def stRefused : Nat := 4
def stBusy : Nat := 5

/-- Send a response; in tethered mode every one reports the failing stage and its status code (R370). -/
def State.respond (s : State) (kind : Nat) (h : ReqHdr) (status detail : Nat) (body : List Nat := []) : State :=
  let report := if s.service.health = .tethered then [s.service.stage, s.service.failCode.getD 0] else []
  { s with responses := ⟨kind + 0x80, h.id, h.asid, status, detail, report ++ body⟩ :: s.responses }

/-- Is the resident service running, and reached over an Ultra Ethernet port, so that requests are answered (R365, R368, R370)? -/
def State.serving (s : State) : Bool :=
  (s.service.stage == 5 || s.service.health == .tethered) && (List.range 4).any (fun p => s.service.isUp (.ultra p))

/-- The kinds that tethered mode accepts: DIAG and FWUPDATE. -/
def tetheredKind (kind : Nat) : Bool := kind == 0x08 || kind == 0x09

/-- Does a header keep every row of R332? The ASID is 0 in CREATE, ATTEST and the tethered-mode kinds; flag [0] belongs to LOAD; where the
body comes as its bytes, `body` of them, the length names their number. -/
def headerFine (kind : Nat) (h : ReqHdr) (body : Option Nat) : Bool :=
  body.all (fun n => n == h.length) && h.zeros && h.flags.extractLsb' 1 7 == 0 && (kind == 0x02 || !h.flags.getLsbD 0) && decide (h.length ≤ 2 ^ 24) &&
  (h.asid == 0 || !(kind == 0x01 || kind == 0x07 || tetheredKind kind))

/-- Is a request accepted from its security association (R332, R370)? One of a session's only from the association named at its
creation, one in tethered mode only from the provisioned one. -/
def State.secured (s : State) (h : ReqHdr) : Bool :=
  if s.service.health = .tethered then h.assoc == s.service.tetherKey
  else s.sessions.all (fun x => x.asid != h.asid || x.assoc == h.assoc)

/-- What every request meets first (R332, R333, R370): a packet of another service is dropped and counted, one over another association
is not accepted and has no answer (DESIGN CHOICE: the manual does not say what it meets; log 85), a broken header is BADFIELD, and
tethered mode refuses other kinds, with the lowest detail that holds (`detail` is the request's own, 0 for none). -/
def State.request (s : State) (kind : Nat) (h : ReqHdr) (body : Option Nat) (detail : Nat) (f : State → State) : Out :=
  if !s.serving then .next s
  else if !h.rud then .next { s with service := { s.service with dropped := s.service.dropped + 1 } }
  else if !s.secured h then .next s
  else if !headerFine kind h body then .next (s.respond kind h stBadField 0)
  else if s.service.health = .tethered ∧ tetheredKind kind = false then
    .next (s.respond kind h stRefused (if detail = 0 then 0x0301 else detail))
  else .next (f s)

/-- The session of a request. -/
def State.reqSession (s : State) (h : ReqHdr) : Option Session := s.sessions.find? (fun x => x.asid == h.asid)

/-! ### CREATE (R324 to R328) -/

/-- The bytes a page-table entry maps. -/
def pageSize (e : W64) : Nat := if e.getLsbD 4 then 0x4000_0000 else 0x20_0000

/-- The vault and slice of a DRAM address. -/
def vaultSlice (a : Nat) : Option (Nat × Nat) := match areaOf a with | .dram v sl => some (v, sl) | _ => none

/-- Does a DRAM frame lie in a save area, which the service maps into no session (R348; log 83)? -/
def inSaveArea (frame : Nat) : Bool := decide (saveAt ≤ frame % 0x8000_0000 % sliceSize)

/-- May the service install a mapping (R327, R328)? An entry with V = 0 leaves its page unmapped. -/
def mappingFine (r : CreateReq) (m : Mapping) : Bool :=
  let e := m.entry
  let n := pageSize e
  let frame := (e.extractLsb' 21 27).toNat * 0x20_0000
  e.extractLsb' 48 16 == 0 && e.extractLsb' 5 16 == 0 && (!e.getLsbD 0 || (m.va % n == 0 && frame % n == 0 &&
  (match areaOf m.va with
   | .dram v sl =>
     vaultSlice frame == some (v, sl) && vaultSlice (m.va + n - 1) == some (v, sl) && !inSaveArea frame &&
     decide (r.xmin.toNat ≤ v % 16) && decide (v % 16 ≤ r.xmax.toNat) &&
     decide (r.ymin.toNat ≤ v / 16) && decide (v / 16 ≤ r.ymax.toNat)
   | .cxl => true
   | _ => false)))

/-- Are the mappings disjoint? -/
def mappingsApart : List Mapping → Bool
  | [] => true
  | m :: ms => ms.all (fun x => decide (m.va + pageSize m.entry ≤ x.va) || decide (x.va + pageSize x.entry ≤ m.va)) &&
    mappingsApart ms

/-- Does a rate value stand within R304? -/
def rateFine (v : W64) : Bool :=
  let k := (v.extractLsb' 0 5).toNat
  let m := (v.extractLsb' 8 4).toNat
  decide (1 ≤ k) && decide (k ≤ 16) && decide (m ≤ 8) && decide (k + m ≤ 24) && (v &&& ~~~ 0x10F1F#64) == 0

/-- Do two sessions' rectangles meet? -/
def meets (x : Session) (r : CreateReq) : Bool :=
  decide (x.xmin ≤ r.xmax.toNat) && decide (r.xmin.toNat ≤ x.xmax) && decide (x.ymin ≤ r.ymax.toNat) &&
  decide (r.ymin.toNat ≤ x.ymax)

/-- The mappings of CXL memory among some. -/
def cxlPages (ms : List Mapping) : List Mapping :=
  ms.filter (fun m => m.entry.getLsbD 0 && (match areaOf m.va with | .cxl => true | _ => false))

/-- Does a session map CXL memory? -/
def mapsCxl (ms : List Mapping) : Bool := !(cxlPages ms).isEmpty

/-- Do two mappings give the same frame (R324)? -/
def sameFrame (a b : Mapping) : Bool :=
  let x := frameAddr a.entry a.va
  let y := frameAddr b.entry b.va
  decide (x < y + pageSize b.entry) && decide (y < x + pageSize a.entry)

/-- The lowest ASID that can be given out (R324, R331). -/
def State.freeAsid (s : State) : Option Nat :=
  (List.range 4095).map (· + 1) |>.find? (fun n =>
    !s.sessions.any (fun x => x.asid.toNat == n) &&
    !s.service.freed.any (fun p => p.1 == n && decide (s.fabric.period < p.2)))

/-- Is a resource of a CREATE taken? CXL memory of another session counts (R324; log 66). -/
def State.createBusy (s : State) (r : CreateReq) : Bool :=
  s.sessions.any (fun x => meets x r || r.queues.any (fun q => x.queues.any (fun y => y.1 == q.1.toNat)) ||
    r.classes.any (fun c => x.classes.contains c.1.toNat) ||
    (cxlPages r.pages).any (fun m => (cxlPages x.pages).any (sameFrame m))) || s.freeAsid.isNone ||
  (mapsCxl r.pages && decide (16 ≤ (s.sessions.filter (fun x => mapsCxl x.pages)).length))

/-- The effect of an accepted CREATE: the session with its pages reading NONE, the privileged registers, the fabric
domain (R37, R303, R328). -/
def State.makeSession (s : State) (r : CreateReq) (n : Nat) : State :=
  let x : Session :=
    { asid := BitVec.ofNat 12 n, xmin := r.xmin.toNat, xmax := r.xmax.toNat, ymin := r.ymin.toNat, ymax := r.ymax.toNat,
      pages := r.pages, queues := r.queues.map (fun q => (q.1.toNat, q.2.toNat)), classes := r.classes.map (fun c => c.1.toNat),
      assoc := r.assoc, keys := r.keys, window := r.window.getD true, strict := r.strict.getD false, kernels := [], phases := [],
      taken := [], sweeps := [], losses := [], decoded := [] }
  let s := (r.pages.filter (fun m => m.entry.getLsbD 0)).foldl (fun s m => s.wipe (frameAddr m.entry m.va) (pageSize m.entry)) s
  let s : State := { s with
    sessions := s.sessions ++ [x]
    fabRates := r.classes.foldl (fun m c => SMap.set 1 m c.1.toNat c.2) s.fabRates
    window := if x.hasCore s.coreNo.toNat then x.window else s.window
    strict := if x.hasCore s.coreNo.toNat then x.strict else s.strict }
  if r.classes.isEmpty || s.fabric.member || s.fabric.cut || s.fabric.joining.isSome then s else s.joinDomain

/-- Does a mapping cover a retired page, which the service maps into no later session (R362; log 94)? -/
def State.onRetired (s : State) (m : Mapping) : Bool :=
  let frame := frameAddr m.entry m.va
  m.entry.getLsbD 0 && (match areaOf m.va with | .dram .. => true | _ => false) &&
  s.service.retired.any (fun u => u.1 == 5 && decide (frame ≤ u.2) && decide (u.2 < frame + pageSize m.entry))

/-- The REFUSED detail of a CREATE; 0 where it is granted. -/
def State.createRefusal (s : State) (r : CreateReq) : Nat :=
  if !(r.pages.all (fun m => mappingFine r m && !s.onRetired m) && mappingsApart r.pages) then 0x0201
  else if !(r.classes.all (fun c => rateFine c.2 && Config.rateCarried c.2.toNat)) then 0x0202
  else 0

/-- Do the fields of a CREATE stay within what R324 and R336 allow: a rectangle, and at most 8 keys? -/
def createFields (r : CreateReq) : Bool :=
  decide (r.xmin ≤ r.xmax) && decide (r.ymin ≤ r.ymax) && decide ((r.keys.getD []).length ≤ 8)

/-- CREATE (R333). -/
def execCreate (r : CreateReq) (s : State) : Out :=
  s.request 0x01 r.hdr none (s.createRefusal r) (fun s =>
    let no (st detail : Nat) : State := s.respond 0x01 r.hdr st detail
    if !createFields r then no stBadField 0
    else if s.createBusy r then no stBusy 0
    else if s.createRefusal r ≠ 0 then no stRefused (s.createRefusal r)
    else match s.freeAsid with
      | some n => (s.makeSession r n).respond 0x01 { r.hdr with asid := BitVec.ofNat 12 n } stOk 0 [n]
      | none => no stBusy 0)

/-! ### LOAD (R77, R78, R283, R336) -/

/-- Little-endian field of an object. -/
def objField (o : List Byte) (at' n : Nat) : Nat := ofBytes ((o.drop at').take n)

/-- A section entry: kind, base, size, offset. -/
structure Section where
  kind   : Nat
  base   : Nat
  size   : Nat
  offset : Nat
  deriving DecidableEq, Repr

/-- The section entries of an object. -/
def objSections (o : List Byte) : List Section :=
  (List.range (objField o 10 2)).map (fun i =>
    let a := 64 + 32 * i
    ⟨objField o a 4, objField o (a + 8) 8, objField o (a + 16) 8, objField o (a + 24) 8⟩)

/-- Does an object carry a signature trailer? -/
def objSigned (o : List Byte) : Bool := (objField o 12 4).testBit 0

/-- The bytes before the trailer. -/
def objLength (o : List Byte) : Nat := o.length - (if objSigned o then 4627 else 0)

/-- Do the header and the section table keep the rows of R78? A section table, or a section, that passes the object's end is BADFIELD too
(DESIGN CHOICE: the tables name no such limit; log 84). -/
def objFields (o : List Byte) : Bool :=
  let n := objField o 10 2
  objField o 0 4 == 0x014F5641 && decide (1 ≤ n) && decide (n ≤ 64) && decide (objField o 12 4 < 2) &&
  objField o 16 8 == objLength o && objField o 24 40 == 0 && decide (64 + 32 * n ≤ objLength o) &&
  (List.range n).all (fun i => objField o (64 + 32 * i + 4) 4 == 0) &&
  (objSections o).all (fun x => (x.kind == 1 || x.kind == 2) && decide (x.base < 2 ^ 56) && x.size % 64 == 0 &&
    decide (x.offset + x.size ≤ objLength o))

/-- Does a section lie in pages that the session maps with a right? A section of size 0 lies in no page (DESIGN CHOICE; log 106). -/
def sectionMapped (x : Session) (sec : Section) : Bool :=
  sec.size == 0 || (List.range ((sec.base + sec.size + 0x1F_FFFF) / 0x20_0000 - sec.base / 0x20_0000)).all (fun i =>
    let a := max sec.base ((sec.base / 0x20_0000 + i) * 0x20_0000)
    match x.page a with
    | some e => if sec.kind = 1 then e.getLsbD 3 else e.getLsbD 2
    | none => false)

/-- Does no section share a byte with another? One of size 0 shares none (DESIGN CHOICE; log 106). -/
def sectionsApart : List Section → Bool
  | [] => true
  | a :: xs => xs.all (fun b => a.size == 0 || b.size == 0 || decide (a.base + a.size ≤ b.base) || decide (b.base + b.size ≤ a.base)) && sectionsApart xs

/-- Does a kernel header keep R282 and R283? -/
def kernelFine (ws : List W64) : Bool :=
  let w (i : Nat) : W64 := ws.getD i 0
  let k : Kernel := ⟨0, w 0, w 1, w 2⟩
  wf (w 0) 34 30 == 0 && wf (w 1) 47 17 == 0 && wf (w 2) 17 47 == 0 && [3, 4, 5, 6, 7].all (fun i => w i == 0) &&
  decide (wf (w 0) 0 22 ≤ 0x20_0000) && decide (k.tiles ≤ 16) && (k.profile == 1 || k.profile == 2) && decide (1 ≤ k.safe) &&
  decide (k.safe ≤ 65536) && (List.range 16).all (fun j => !k.wake.testBit (7 + j) || decide (j < k.banks))

/-- The byte of an object at a virtual address. -/
def objByte (o : List Byte) (a : Nat) : Byte :=
  match (objSections o).find? (fun x => decide (x.base ≤ a) && decide (a < x.base + x.size)) with
  | some x => o.getD (x.offset + (a - x.base)) 0
  | none => 0

/-- The words of the kernel header at an address of an object. -/
def objKernel (o : List Byte) (a : Nat) : List W64 :=
  (List.range 8).map (fun i => BitVec.ofNat 64 (ofBytes ((List.range 8).map (fun j => objByte o (a + 8 * i + j)))))

/-- The data section of an object that ends last: its kernel headers stand at its end. -/
def objData (o : List Byte) : Option Section :=
  ((objSections o).filter (fun x => x.kind == 2)).foldl (fun a x => match a with
    | some y => if y.base + y.size < x.base + x.size then some x else some y
    | none => some x) none

/-- The addresses of an object's kernel headers: after its last data byte, 64-byte aligned, in task order (R78). How many tasks it has
is a free value (log 46). -/
def objHeaders (o : List Byte) : List Nat :=
  match objData o with
  | none => []
  | some x =>
    let n := min (Config.taskCount o) (x.size / 64)
    (List.range n).map (fun i => (x.base + x.size) / 64 * 64 - 64 * (n - i))

/-- The version note's REFUSED detail (R77, R372); 0 for none. -/
def versionRefusal (trapping : Bool) (o : List Byte) : Nat :=
  if 0x0100 < objField o 4 2 then 0x0101 else if 0x0100 < objField o 8 2 ∧ trapping = false then 0x0102 else 0

/-- Does an object satisfy a session's signing policy (R336)? -/
def signatureFine (keys : Option (List Nat)) (o : List Byte) : Bool :=
  match keys with
  | none => true
  | some ks => objSigned o && ks.any (fun k => Config.signatureGood k o)

/-- The REFUSED detail of a LOAD; 0 where it is accepted. Without a session only what needs none is judged. -/
def State.loadRefusal (x : Option Session) (trapping : Bool) (o : List Byte) : Nat :=
  if versionRefusal trapping o ≠ 0 then versionRefusal trapping o
  else if !(x.all (fun y => (objSections o).all (sectionMapped y)) && sectionsApart (objSections o)) then 0x0103
  else if !((objHeaders o).all (fun a => kernelFine (objKernel o a))) then 0x0104
  else if !x.all (fun y => signatureFine y.keys o) then 0x0105
  else 0

/-- The block header of a block of a section: RAW for text, for kernel headers and for data that no `.block` directive covers (R78). -/
def objBlockHeader (o : List Byte) (x : Section) (b : Nat) : BitVec 16 :=
  if x.kind = 1 ∨ (objHeaders o).contains b = true then 0x7F10 else (Config.blockDirective o b).getD 0x7F10

/-- Write a section with its block headers, where the session's pages put it (R78, R327). -/
def State.writeSection (o : List Byte) (asid : BitVec 12) (s : State) (x : Section) : State :=
  let s := ((o.drop x.offset).take x.size).zipIdx.foldl (fun s (v, j) => s.setByte (s.phys asid (x.base + j)) v) s
  (blocksOf x.base x.size).foldl (fun s b => s.setHdr (s.phys asid b) (objBlockHeader o x b)) s

/-- A measurement joins the others; at most 255 are kept (R337; log 86). -/
def Service.record (v : Service) (kind asid : Nat) (bytes : List Byte) : Service :=
  { v with measures := (v.measures ++ [(kind, asid, Config.digest bytes)]).take 255 }

/-- The effect of an accepted LOAD. -/
def State.loadObject (s : State) (x : Session) (o : List Byte) : State :=
  let s := (objSections o).foldl (State.writeSection o x.asid) s
  let ks := (objHeaders o).map (fun a => let w := objKernel o a; (⟨a, rw w 0, rw w 1, rw w 2⟩ : Kernel))
  let s := s.modSession x.asid (fun y => { y with
    kernels := y.kernels.filter (fun k => !ks.any (fun n => n.addr == k.addr)) ++ ks })
  { s with service := s.service.record 3 x.asid.toNat o }

/-- LOAD (R78). -/
def execLoad (r : LoadReq) (s : State) : Out :=
  let trapping := r.hdr.flags.getLsbD 0
  let detail := if objFields r.object then State.loadRefusal (s.reqSession r.hdr) trapping r.object else versionRefusal trapping r.object
  s.request 0x02 r.hdr (some r.object.length) detail (fun s =>
    let no (st detail : Nat) : State := s.respond 0x02 r.hdr st detail
    match s.reqSession r.hdr with
    | none => no stNoSession 0
    | some x =>
      if !objFields r.object then no stBadField 0
      else if 255 ≤ s.service.measures.length then no stBusy 0
      else
        if detail ≠ 0 then no stRefused detail else (s.loadObject x r.object).respond 0x02 r.hdr stOk 0)

/-! ### POST and TEARDOWN (R284, R288, R333) -/

/-- The first refused step of a plan, with its sub-code; the state with every step queued where none is refused. -/
def State.postSteps (x : Session) (q : Nat) : Nat → List PostStep → State → State × Option (Nat × Nat)
  | _, [], s => (s, none)
  | i, p :: ps, s =>
    let preds := p.preds.map (fun y => (y.1.toNat, y.2))
    let c := s.launchCheck x q p.record (s.endsAtOnce s.atOnce ⟨q, SMap.get 0 s.stepNums q, x.asid, p.record, preds⟩).isNone
    if c ≠ 0 then (s, some (i, c))
    else State.postSteps x q (i + 1) ps (s.addStep q x.asid p.record preds)

/-- Does a plan name the queue of another session, its own or that of a predecessor (R326)? -/
def State.strangeQueue (s : State) (x : Session) (r : PostReq) : Bool :=
  r.steps.any (fun p => p.preds.any (fun y => s.sessions.any (fun z => z.asid != x.asid && z.queues.any (fun q => q.1 == y.1.toNat))))

/-- POST (R333). -/
def execPost (r : PostReq) (s : State) : Out :=
  s.request 0x03 r.hdr none 0 (fun s =>
    let no (st detail : Nat) : State := s.respond 0x03 r.hdr st detail
    match s.reqSession r.hdr with
    | none => no stNoSession 0
    | some x =>
      if !x.queues.any (fun q => q.1 == r.queue.toNat) || s.strangeQueue x r then no stNoSession 0
      else if r.steps.isEmpty ∨ 1024 < r.steps.length ∨
          r.steps.any (fun p => decide (8 < p.preds.length) || p.record.length != 8) = true then no stBadField 0
      else match State.postSteps x r.queue.toNat 0 r.steps s with
        | (s', none) => s'.respond 0x03 r.hdr stOk 0
        | (_, some (i, c)) => no stRefused (8 * i + c))

/-- The steps that name any of some steps as a predecessor, directly or through others. -/
def dependents (all : List PlanStep) : Nat → List (Nat × Nat) → List (Nat × Nat)
  | 0, ks => ks
  | n + 1, ks => dependents all n (ks ++ (all.filter (fun p =>
      !ks.contains (p.queue, p.num) && p.preds.any ks.contains)).map (fun p => (p.queue, p.num)))

/-- The cut of a session's queue (R288): its gangs are discarded, its steps and every step of the session that depends on them end ABORTED. -/
def State.cutQueue (s : State) (asid : BitVec 12) (q : Nat) : State :=
  let mine (t : Stream) : Bool := t.status != .idle && t.task.queue == q
  let ran := (s.gangs.filter (fun g => g.step.queue == q)).map (fun g => (g.step.queue, g.step.num))
  let s := if mine s.prim then s.discard .prim .aborted 0 else s
  let s := if mine s.sec then s.discard .sec .aborted 0 else s
  let s := (s.gangs.filter (fun g => g.step.queue == q && !s.onCore g)).foldl (fun s g =>
    (s.drawn.endStep g.step .aborted 0 (Config.peersEnded s.free)).endPhase g.step.asid g.slot) s
  let own := s.queues.filter (fun p => p.queue == q)
  let keys := ran ++ own.map (fun p => (p.queue, p.num))
  let dep := dependents (s.queues.filter (fun p => p.asid == asid)) s.queues.length keys
  let others := s.queues.filter (fun p => p.queue != q && dep.contains (p.queue, p.num))
  (own ++ others).foldl (fun s p => s.endStep p .aborted 0 0) s

/-- TEARDOWN of one queue (R288). -/
def execTeardownQueue (h : ReqHdr) (q : BitVec 6) (s : State) : Out :=
  s.request 0x04 h none 0 (fun s =>
    match s.reqSession h with
    | none => s.respond 0x04 h stNoSession 0
    | some x =>
      if x.queues.any (fun y => y.1 == q.toNat) then (s.cutQueue x.asid q.toNat).respond 0x04 h stOk 0
      else s.respond 0x04 h stNoSession 0)

/-- ASIDs that sessions give up now, each with the period count from which it can be given out again (R331). -/
def State.freeing (s : State) (xs : List Session) : List (Nat × Nat) :=
  xs.map (fun x => (x.asid.toNat, s.fabric.period + 65536 + 3)) ++
  s.service.freed.filter (fun p => !xs.any (fun x => x.asid.toNat == p.1))

/-- The release of a session (R37, R331, R333): what its queues' steps have left is gone with them (R324). -/
def State.dropSession (s : State) (x : Session) : State :=
  let s := x.queues.foldl (fun s q => s.cutQueue x.asid q.1) s
  let here := x.hasCore s.coreNo.toNat
  let mine (q : Nat) : Bool := x.queues.any (fun y => y.1 == q)
  { s with
    sessions := s.sessions.filter (fun y => y.asid != x.asid)
    results := s.results.filter (fun r => !mine r.1.1)
    stepNums := s.stepNums.filter (fun p => !mine p.1)
    headSince := s.headSince.filter (fun p => !mine p.1)
    window := if here then true else s.window
    strict := if here then false else s.strict
    fabRates := x.classes.foldl (fun m c => SMap.set 1 m c 1) s.fabRates
    service := { s.service with freed := s.freeing [x] } }

/-- TEARDOWN of a session (R333). -/
def execTeardownSession (h : ReqHdr) (s : State) : Out :=
  s.request 0x04 h none 0 (fun s =>
    match s.reqSession h with
    | none => s.respond 0x04 h stNoSession 0
    | some x => (s.dropSession x).respond 0x04 h stOk 0)

/-! ### Reports (R300, R333, R337, R366) -/

/-- The number of a health state in a response. -/
def Health.num : Health → Nat
  | .healthy => 0 | .degraded => 1 | .tethered => 2 | .failed => 3

/-- May a request for a report be answered: for the service itself or a session that exists? -/
def State.reportFor (s : State) (h : ReqHdr) : Bool := h.asid == 0 || (s.reqSession h).isSome

/-- Bytes as a response holds them. -/
def bodyBytes (bs : List Byte) : List Nat := bs.map (·.toNat)

/-- TELEMETRY (R300, R317, R333, R365): the device-wide counters and health, then the 32 bytes of each sample, oldest first. -/
def execTelemetry (h : ReqHdr) (s : State) : Out :=
  s.request 0x05 h none 0 (fun s =>
    if s.reportFor h then s.respond 0x05 h stOk 0
      ([s.service.health.num, s.service.failCode.getD 0, s.fabric.late, s.service.dropped] ++
        s.power.samples.reverse.flatMap (fun x => bodyBytes (toBytes 32 x.toNat)))
    else s.respond 0x05 h stNoSession 0)

/-- A black-box entry with its companion (R366). -/
def BBEntry.bytes (e : BBEntry) : List Byte :=
  toBytes 32 e.data.toNat ++ toBytes 6 (e.stamp / 10 ^ 9) ++ toBytes 4 (e.stamp % 10 ^ 9) ++ toBytes 2 e.kind ++ toBytes 4 e.num.toNat

/-- BLACKBOX (R366): the entries, oldest first, each with its companion. -/
def execBlackbox (h : ReqHdr) (s : State) : Out :=
  s.request 0x06 h none 0 (fun s =>
    if s.reportFor h then s.respond 0x06 h stOk 0 (s.bb.reverse.flatMap (fun e => bodyBytes e.bytes))
    else s.respond 0x06 h stNoSession 0)

/-- The bytes of the attestation report before its signature: nonce, serial number, measurements (R337). -/
def Service.attestation (v : Service) (nonce : BitVec 512) : List Byte :=
  toBytes 64 nonce.toNat ++ toBytes 16 Config.serial.toNat ++ toBytes 4 v.measures.length ++ toBytes 4 0 ++
  v.measures.flatMap (fun m => toBytes 4 m.1 ++ toBytes 4 m.2.1 ++ toBytes 64 m.2.2.toNat)

/-- ATTEST (R337): the report, with the signature over its digest. -/
def execAttest (h : ReqHdr) (nonce : BitVec 512) (s : State) : Out :=
  s.request 0x07 h (some 64) 0 (fun s =>
    let text := s.service.attestation nonce
    s.respond 0x07 h stOk 0 (bodyBytes (text ++ toBytes 4627 (Config.signature (Config.digest text)))))

/-- The kinds of R333. -/
def listedKind (kind : Nat) : Bool := decide (1 ≤ kind) && decide (kind ≤ 9)

/-- BADKIND (R332, R333, R370): a request of an unlisted kind, or one with a broken header, whose body the service does not read; one
that is neither comes as its own instruction. -/
def execBadkind (h : ReqHdr) (kind : BitVec 8) (body : List Byte) (s : State) : Out :=
  s.request kind.toNat h (some body.length) 0 (fun s => if listedKind kind.toNat then s else s.respond kind.toNat h stBadKind 0)

/-- REDFISH_SETTINGS (R36, R37, R370): the ramp register, where the value is not excluded, and the security association of
tethered mode. -/
def execRedfishSettings (ramp : W64) (assoc : Nat) (s : State) : Out :=
  let up := (ramp.extractLsb' 0 16).toNat
  let dn := (ramp.extractLsb' 16 16).toNat
  let ok := decide (1 ≤ up) && decide (up ≤ 1000) && decide (1 ≤ dn) && decide (dn ≤ 1000) && ramp.extractLsb' 32 32 == 0
  .next { s with pwrRamp := if ok then ramp else s.pwrRamp, service := { s.service with tetherKey := assoc } }

end Sys2Proof.Machine
end

