-- ==== Sys2Proof/Machine/Boot.lean ====
section
/-! DEFINITION. Sys2Proof/Machine/Boot.lean: starts of the device, boot stages, reset and power loss, diagnostics, firmware
and probes (R336, R361, R362, R365, R368 to R370, R376). -/

namespace Sys2Proof.Machine

/-- Change the service. -/
def State.modService (s : State) (f : Service → Service) : State := { s with service := f s.service }

/-- The image that runs, as event 0x0110 names it. -/
def Service.image (v : Service) : Nat := if v.imageB then 1 else 0

/-- The service at stage 0 of a start (R369): the failure counter is incremented. Three starts that did not reach stage 5
before it count as failed. A start that enters tethered mode keeps the failing stage and its status code, which are reported (R370). -/
def Service.begin (v : Service) : Service :=
  let v := if v.written then { v with imageB := !v.imageB, newImage := true, written := false } else v
  let n := v.failures + 1
  let v := { v with started := 0, inReset := false, probeBad := [], rewinds := [], sweep := [] }
  let fresh := { v with stage := 0, failCode := none }
  let up : Health := if v.retired.isEmpty then .healthy else .degraded
  if v.health = .tethered then { v with failures := n }
  else if 3 ≤ v.failures then
    if v.newImage then { fresh with imageB := !v.imageB, newImage := false, failures := 1, health := up }
    else { v with failures := n, health := .tethered }
  else { fresh with failures := n, health := up }

/-- The bytes of the image that runs. -/
def Service.running (v : Service) : List Byte := if v.imageB then v.imgB else v.imgA

/-- FWUPDATE writes the image that is not running (R336). -/
def Service.writeImage (v : Service) (bytes : List Byte) : Service :=
  if v.imageB then { v with imgA := bytes, written := true } else { v with imgB := bytes, written := true }

/-- A stage of the running image is measured before it runs (R337). -/
def Service.measure (v : Service) (stage : Nat) : Service := v.record 1 0 (Config.stageContents stage v.running)

/-- The valves on the board, which no reset of the device reaches, as the count of cycles starts again. -/
def Power.boardAfter (p : Power) (now : Nat) : List (Nat × Nat) := p.board.map (fun x => (x.1, x.2 - now))

/-- The power unit after a reset: power firmware that was absent stays so until it signals, with every valve open (R301). -/
def Power.restart (p : Power) (now : Nat) : Power :=
  let q := { Power.reset with board := p.boardAfter now }
  if p.firmware then q
  else { q with firmware := false, silent := p.silent, valves := allOpen }

/-- The machine after a reset (R368, R369): every register at its reset value; the black box, the measurements, the images, the
retirements and the ASIDs not to be given out yet stay; outside inputs still to come keep their distance. -/
def State.restart (s : State) : State :=
  let cold := s.service.inReset
  let v := { (if cold then { s.service with measures := [] } else s.service) with freed := s.freeing s.sessions }
  { State.reset with
    coreNo := s.coreNo, halfWidth := s.halfWidth, bb := if cold then [] else s.bb, bbCount := if cold then 0 else s.bbCount
    service := v.begin.measure 0, free := s.free
    power := s.power.restart s.now
    fabric := { Fabric.reset with linksDown := s.fabric.linksDown }
    inbox := s.inbox.map (fun p => (p.1 - s.now, p.2)) }

/-- RESET (R368). -/
def execReset (s : State) : Out := .next s.restart

/-- Is a start in progress: not held in reset, not failed, below stage 5? -/
def State.starting (s : State) : Bool :=
  !s.service.inReset && s.service.stage < 5 && s.service.failCode.isNone && s.service.health != .tethered &&
  s.service.health != .failed

/-- The entry of a boot stage. -/
def State.stageEvent (s : State) (stage code : Nat) : State := s.bbEvent 0x0110 0xFFFF 0 stage code s.service.image

/-- A start fails with a status code: the third failed start of a new image returns to the other image with the counter at
0, any other third one enters tethered mode (R336, R369). -/
def Service.fail (v : Service) (code : Nat) : Service :=
  let v := { v with failCode := some code }
  if v.failures < 3 then v
  else if v.newImage then { v with imageB := !v.imageB, newImage := false, failures := 0 }
  else { v with health := .tethered }

/-- Can a boot stage find a unit that fails? Link training links and ports, BIST cores and columns; a bank's failure is its core's
(R362, R368). -/
def stageFinds (stage : Nat) (u : Nat × Nat) : Bool :=
  (stage == 2 && (u.1 == 3 || u.1 == 4)) || (stage == 3 && (u.1 == 1 || u.1 == 2))

/-- The cause for which the stage of a start fails: that of the stage itself, or a free one where the image does not verify (R336, R368;
log 104). -/
def State.stageCause (s : State) (fails : Option (BitVec 8)) : Option Nat :=
  match fails with
  | some c => some c.toNat
  | none => if Config.stageVerifies s.service.stage s.service.running then none else some (Config.startCause s.free % 256)

/-- The stage of a start fails with a cause: its entry, its status code, and what follows a failed start (R368, R369). -/
def State.failStage (s : State) (cause : Nat) : State :=
  let code := s.service.stage * 256 + cause
  (s.drawn.stageEvent s.service.stage code).modService (fun v => v.fail code)

/-- BOOT_STAGE (R336, R362, R365, R368): a stage completes, the units that it finds failing retired; or it fails with its status code, as it
does where its signature check fails. Stage 5 clears the counter and gives the health (log 92). -/
def execBootStage (fails : Option (BitVec 8)) (lost : List (Nat × Nat)) (s : State) : Out :=
  if !s.starting then .next s
  else
    let n := s.service.stage
    match s.stageCause fails with
    | none =>
      let s := (((lost.filter (stageFinds n)).foldl State.retire s).stageEvent n 0).modService (fun v => { v with stage := n + 1 })
      if n = 4 then
        let s := s.stageEvent 5 0
        .next ({ s with fabric := { s.fabric with nextSlot := s.now + 2400 } }.modService (fun v => { v with
          failures := 0, newImage := false
          health := if v.spent then .failed else if v.retired.isEmpty then .healthy else .degraded }))
      else .next (s.modService (fun v => v.measure (n + 1)))
    | some cause => .next (s.failStage cause)

/-- Cycles of 120 s. -/
def startLimit : Nat := 144000000000

/-- START_TIMEOUT (R368). -/
def execStartTimeout (s : State) : Out :=
  .next (if s.starting && decide (s.service.started + startLimit ≤ s.now) then s.failStage (Config.startCause s.free % 256) else s)

/-- The service while a rail holds the device in reset: its measurements are lost, the failing stage of tethered mode is not (R370,
R376). -/
def Service.unpowered (v : Service) : Service :=
  let v := { v with inReset := true, measures := [] }
  if v.health = .tethered then v else { v with stage := 0, failCode := none }

/-- RAIL_OUT_OF_RANGE (R376): the device is held in reset and has lost its power; its retirements, in nonvolatile storage, stand
(R362). -/
def execRailOutOfRange (s : State) : Out :=
  .next { State.reset with
    coreNo := s.coreNo, halfWidth := s.halfWidth, free := s.free, inbox := s.inbox.map (fun p => (p.1 - s.now, p.2))
    fabric := { Fabric.reset with linksDown := s.fabric.linksDown }
    power := { Power.reset with board := s.power.boardAfter s.now }
    service := { s.service.unpowered with freed := s.freeing s.sessions } }

/-- A DIAG request clears every retirement: of cores and pages, of columns at half width, and of links, which path sets may use again
(R362). -/
def State.clearRetired (s : State) : State :=
  ({ s with halfWidth := false, fabric := { s.fabric with linksDown := [] } } : State).modService (fun v => { v with retired := [] })

/-- DIAG (R362, R370): clearing retirements, and restarting. -/
def execDiag (h : ReqHdr) (clear restart : Bool) (s : State) : Out :=
  s.request 0x08 h none 0 (fun s =>
    let s := s.respond 0x08 h stOk 0 (if s.service.health = .tethered then [] else [s.service.stage, s.service.failCode.getD 0])
    let s := if clear then s.clearRetired else s
    if restart then
      (s.modService (fun v => { v with
        failures := 0, health := if v.health = .tethered then .healthy else v.health })).restart
    else s)

/-- FWUPDATE (R301, R336, R370): the image that is not running is written, and the next start runs it; the power firmware is absent
meanwhile. -/
def execFwupdate (h : ReqHdr) (image : List Byte) (s : State) : Out :=
  s.request 0x09 h (some image.length) 0 (fun s =>
    ((s.respond 0x09 h stOk 0).modService (fun v => (v.record 2 0 image).writeImage image)).firmwareGone)

/-! ### Probes (R361, R362) -/

/-- The domain a probe of a slot needs awake. -/
def probeDomain (k : Slot) : Option Nat :=
  match k with
  | .V => some domDv
  | .W => some domDv
  | .M => some domDxa
  | .X => some domDxt
  | _ => none

/-- Does a stream use an engine's slot in this cycle: a word of its next bundle stands there, which issues or waits for the engine
(R361; log 93)? -/
def State.slotUsed (s : State) (i : Sid) (k : Slot) : Bool :=
  (s.str i).status == .running &&
  (let pc := (s.str i).sc.pc.toNat
   (slotWords (s.packet i pc) (pc % 16)).any (fun p => p.1 == k))

/-- May a probe of a slot run in this cycle (R361)? -/
def State.probeRuns (s : State) (k : Slot) : Bool :=
  !s.primMask.getLsbD k.idx && !s.slotUsed .prim k && !s.slotUsed .sec k && s.filler.isNone &&
  (match probeDomain k with | some d => s.domAwake d | none => true)

/-- The failing attempts in a row of a probe: one slot and one signature (R362). -/
def Service.probeFails (v : Service) (p : Probe) : Nat :=
  ((v.probeBad.find? (fun x => x.1 == p.slot.idx && x.2.1 == p.sig)).map (·.2.2)).getD 0

/-- Note the failing attempts of a probe; with 0 it is forgotten, and it has left the sweep (R360, R362). -/
def Service.noteProbe (v : Service) (p : Probe) (n : Nat) : Service :=
  let others := v.probeBad.filter (fun x => !(x.1 == p.slot.idx && x.2.1 == p.sig))
  if n = 0 then { v with probeBad := others, sweep := v.sweep.filter (fun x => x != (p.slot.idx, p.sig)) }
  else { v with probeBad := (p.slot.idx, p.sig, n) :: others }

/-- The slot of a number. -/
def slotOf (k : Nat) : Slot := [Slot.C, .I, .J, .V, .W, .M, .L, .X].getD k .C

/-- A gap in the placements of this core: neither stream holds a task (R360). -/
def State.inGap (s : State) : Bool := s.prim.status == .idle && s.sec.status == .idle

/-- The next probe of a sweep that may run: at a gap, in a slot of which R361 allows one; its lanes are free (R360; log 93). -/
def State.sweepProbe (s : State) : Option Probe :=
  if !s.inGap then none
  else (s.service.sweep.find? (fun x => s.probeRuns (slotOf x.1))).map (fun x => ⟨slotOf x.1, x.2, Config.sweepLanes s.free⟩)

/-- PROBE_OPERATION (R360 to R362): the lanes are compared with the signature; the third failing attempt of one probe retires the core. -/
def execProbeOperation (p : Probe) (s : State) : Out :=
  if !s.probeRuns p.slot then .next s
  else
    let want := Config.probeExpected p.slot.idx p.sig
    let n := if p.lanes = want then 0 else s.service.probeFails p + 1
    let s := s.drawn
    if n < 3 then .next (s.modService (fun v => v.noteProbe p n))
    else
      let s := s.bbEvent 0x010E s.coreNo.toNat 0 p.slot.idx p.sig (p.lanes ^^^ want)
      .next ((s.modService (fun v => v.noteProbe p 0)).retire (1, s.coreNo.toNat))

end Sys2Proof.Machine
end

