-- ==== Sys2Proof/Machine/Words.lean ====
section
/-! DEFINITION. Sys2Proof/Machine/Words.lean: what each instruction word contributes to its bundle, the issue of the bundle
that stands next in a stream, and the events of issue: empty bundles, the hold of R19, the wakes of waiting words. -/

namespace Sys2Proof.Machine

/-- What an instruction contributes to the bundle it stands in; none for an event. -/
def semOf : Instr → Option WordSem
  | .br o => some (semBr o)
  | .call o => some (semCall o)
  | .bri o => some (semBri o)
  | .calli o => some (semCalli o)
  | .ret o => some (semRet o)
  | .loop o => some (semLoop o)
  | .seg o => some (semSeg o)
  | .rdv o => some (semRdv o)
  | .bar o => some (semBar o)
  | .wake o => some (semWake o)
  | .sleep o => some (semSleep o)
  | .waitg o => some (semWaitg o)
  | .waitr o => some (semWaitr o)
  | .signal o => some (semSignal o)
  | .launch o => some (semLaunch o)
  | .trap o => some (semTrap o)
  | .endTask o => some (semEnd o)
  | .kchk o => some (semKchk o)
  | .csrr o => some (semCsrr o)
  | .csrw o => some (semCsrw o)
  | .add o => some (semAdd o)
  | .sub o => some (semSub o)
  | .mul o => some (semMul o)
  | .mulh o => some (semMulh o)
  | .mulhn o => some (semMulhn o)
  | .divs o => some (semDivs o)
  | .divn o => some (semDivn o)
  | .rems o => some (semRems o)
  | .remn o => some (semRemn o)
  | .and o => some (semAnd o)
  | .or o => some (semOr o)
  | .xor o => some (semXor o)
  | .andn o => some (semAndn o)
  | .shl o => some (semShl o)
  | .shrl o => some (semShrl o)
  | .shra o => some (semShra o)
  | .mins o => some (semMins o)
  | .maxs o => some (semMaxs o)
  | .minn o => some (semMinn o)
  | .maxn o => some (semMaxn o)
  | .clz o => some (semClz o)
  | .popc o => some (semPopc o)
  | .bfx o => some (semBfx o)
  | .bfi o => some (semBfi o)
  | .lea o => some (semLea o)
  | .cmp o => some (semCmp o)
  | .plog o => some (semPlog o)
  | .mov o => some (semMov o)
  | .ldiH0 o => some (semLdiH0 o)
  | .ldiH1 o => some (semLdiH1 o)
  | .ldiH2 o => some (semLdiH2 o)
  | .ldiH3 o => some (semLdiH3 o)
  | .addi o => some (semAddi o)
  | .qcnt o => some (semQcnt o)
  | .qdrop o => some (semQdrop o)
  | .shpw o => some (semShpw o)
  | .shpr o => some (semShpr o)
  | .fadd o => some (semFadd o)
  | .fsub o => some (semFsub o)
  | .fmul o => some (semFmul o)
  | .fmac o => some (semFmac o)
  | .fdiv o => some (semFdiv o)
  | .fsqrt o => some (semFsqrt o)
  | .fmin o => some (semFmin o)
  | .fmax o => some (semFmax o)
  | .fcmp o => some (semFcmp o)
  | .fcvt o => some (semFcvt o)
  | .vadd o => some (semVadd o)
  | .vsub o => some (semVsub o)
  | .vmul o => some (semVmul o)
  | .vfma o => some (semVfma o)
  | .vmin o => some (semVmin o)
  | .vmax o => some (semVmax o)
  | .vabs o => some (semVabs o)
  | .vneg o => some (semVneg o)
  | .vdiv o => some (semVdiv o)
  | .vsqrt o => some (semVsqrt o)
  | .vadds o => some (semVadds o)
  | .vmuls o => some (semVmuls o)
  | .vfmas o => some (semVfmas o)
  | .viadd o => some (semViadd o)
  | .visub o => some (semVisub o)
  | .vimul o => some (semVimul o)
  | .vand o => some (semVand o)
  | .vor o => some (semVor o)
  | .vxor o => some (semVxor o)
  | .vshl o => some (semVshl o)
  | .vshr o => some (semVshr o)
  | .vcmp o => some (semVcmp o)
  | .vcmps o => some (semVcmps o)
  | .vsel o => some (semVsel o)
  | .vmov o => some (semVmov o)
  | .vbcst o => some (semVbcst o)
  | .viota o => some (semViota o)
  | .vcvt o => some (semVcvt o)
  | .vperm o => some (semVperm o)
  | .vlsh o => some (semVlsh o)
  | .vrdx o => some (semVrdx o)
  | .vdot o => some (semVdot o)
  | .vxdrn o => some (semVxdrn o)
  | .vxclr o => some (semVxclr o)
  | .vexp2 o => some (semVexp2 o)
  | .vlog2 o => some (semVlog2 o)
  | .vrcp o => some (semVrcp o)
  | .vrsq o => some (semVrsq o)
  | .vtanh o => some (semVtanh o)
  | .vsigm o => some (semVsigm o)
  | .vmsk o => some (semVmsk o)
  | .vmskqToMask o => some (semVmskqToMask o)
  | .vmskqFromMask o => some (semVmskqFromMask o)
  | .vhdrRead o => some (semVhdrRead o)
  | .vhdrWrite o => some (semVhdrWrite o)
  | .mbld o => some (semMbld o)
  | .mpush o => some (semMpush o)
  | .mshift o => some (semMshift o)
  | .macc o => some (semMacc o)
  | .mswap o => some (semMswap o)
  | .mdrain o => some (semMdrain o)
  | .mdrns o => some (semMdrns o)
  | .mclr o => some (semMclr o)
  | .mspill o => some (semMspill o)
  | .mfill o => some (semMfill o)
  | .mstat o => some (semMstat o)
  | .tld o => some (semTld o)
  | .tst o => some (semTst o)
  | .tlda o => some (semTlda o)
  | .tsta o => some (semTsta o)
  | .ld o => some (semLd o)
  | .st o => some (semSt o)
  | .ldh o => some (semLdh o)
  | .sth o => some (semSth o)
  | .fence o => some (semFence o)
  | .synca o => some (semSynca o)
  | .vref o => some (semVref o)
  | .voadd o => some (semVoadd o)
  | .voaddS64 o => some (semVoaddS64 o)
  | .vocas o => some (semVocas o)
  | .vosax o => some (semVosax o)
  | .publ o => some (semPubl o)
  | .hand o => some (semHand o)
  | .tagr o => some (semTagr o)
  | .lncnt o => some (semLncnt o)
  | .lnstr o => some (semLnstr o)
  | .bcopy o => some (semBcopy o)
  | .sbind o => some (semSbind o)
  | .sunb o => some (semSunb o)
  | .saego o => some (semSaego o)
  | .saef o => some (semSaef o)
  | .send o => some (semSend o)
  | .recv o => some (semRecv o)
  | .synci o => some (semSynci o)
  | .fslot o => some (semFslot o)
  | .emptyBundle => none
  | .secondaryHold => none
  | .land => none
  | .itemArrival _ => none
  | .accessPerforms _ => none
  | .lateCheckReplay _ => none
  | .remotePushLands _ _ _ => none
  | .segmentCheckpoint _ => none
  | .barrierComplete _ _ => none
  | .rendezvousComplete _ _ => none
  | .waitgWake _ => none
  | .waitrWake _ => none
  | .fenceRelease _ => none
  | .wrapSweepDone _ => none
  | .domainAwake _ => none
  | .copyBlockPost _ => none
  | .portPrefetch _ _ => none
  | .outPortWrite _ _ => none
  | .rowBufferFeedFill _ => none
  | .saeWindowApply _ => none
  | .refreshDue _ _ => none
  | .controllerRefresh _ _ => none
  | .columnDegraded _ => none
  | .rewind _ => none
  | .trapHandling _ => none
  | .preemptionRequest _ => none
  | .contextSave _ => none
  | .contextRestore _ => none
  | .watchdogSample => none
  | .watchdogKill _ => none
  | .gangStart _ => none
  | .gangCompletion _ => none
  | .create _ => none
  | .load _ => none
  | .post _ => none
  | .teardownQueue _ _ => none
  | .teardownSession _ => none
  | .telemetry _ => none
  | .blackbox _ => none
  | .attest _ _ => none
  | .diag _ _ _ => none
  | .fwupdate _ _ => none
  | .balanceWindow => none
  | .rampStep => none
  | .thermalObserverStep => none
  | .thermalTrip _ _ => none
  | .thermalTripClear _ _ => none
  | .powerSample => none
  | .powerFirmwareAbsent => none
  | .powerFirmwarePresent => none
  | .fabricSlot => none
  | .fabricStatusPoint => none
  | .holdTimeout => none
  | .fragmentArrival _ => none
  | .deadlineExpiry _ _ _ => none
  | .retransmissionRequest _ _ _ => none
  | .fabricAck _ _ => none
  | .linkDown _ => none
  | .probeOperation _ => none
  | .reset => none
  | .bootStage _ _ => none
  | .startTimeout => none
  | .railOutOfRange => none
  | .rejoin => none
  | .badkind _ _ _ => none
  | .redfishSettings _ _ => none

/-! ### The bundle that stands next in a stream (R18, R51 to R54) -/

/-- The machine with a stream's next bundle at issue. -/
def State.atIssue (s : State) (i : Sid) : State :=
  let pc := (s.str i).sc.pc
  { s with cur := i, bundle := ⟨s.codeWord i pc.toNat, pc, BitVec.ofNat 64 (s.seqNext i pc.toNat)⟩, jump := none }

/-- The causes of ranks 2 to 4 that fetching a stream's next bundle finds. -/
def State.early (s : State) (i : Sid) : List Cause := s.fetchCauses2 i (s.str i).sc.pc.toNat

/-- The instructions of a stream's next bundle. -/
def State.nextInstrs (s : State) (i : Sid) : List Instr := s.bundleInstrs i (s.str i).sc.pc.toNat

/-- A stream's next bundle is presented for issue. -/
def State.issueNow (s : State) (i : Sid) : State :=
  (s.atIssue i).issueWith (s.early i) ((s.nextInstrs i).filterMap semOf)

/-- The slot mask of a stream's next bundle (R54). -/
def State.nextMask (s : State) (i : Sid) : BitVec 8 := bits (s.codeWord i (s.str i).sc.pc.toNat) 24 8

/-- Has a stream issued between two states? -/
def issued (i : Sid) (a b : State) : Bool := (b.str i).progress != (a.str i).progress

/-! ### Events of issue (R19, R45, R95, R96, R190) -/

/-- EMPTY_BUNDLE (R45). -/
def execEmptyBundle (s : State) : Out := .next (s.issueBundle [])

/-- Has a filler gang on the free secondary stream a bundle ready in this cycle (R294, R296)? -/
def State.fillerReady (s : State) : Bool := s.sec.status == .idle && s.filler.isSome && !s.held && Config.fillerReady s.free

/-- A cycle of the filler gang: a ready bundle that meets the primary's mask is passed over and counted, one that issues restarts the
count; it has no effect outside its own tile registers (R18, R19, R296, R325). -/
def State.fillerTurn (s : State) : State :=
  match s.filler with
  | none => s
  | some n =>
    if !s.fillerReady then s.drawn
    else { s.drawn with filler := some (if Config.fillerMask s.free &&& s.primMask != 0 then n + 1 else 0) }

/-- Has the filler gang been passed over in 4096 ready cycles (R19, R330)? -/
def State.fillerDue (s : State) : Bool := s.filler.any (fun n => decide (4096 ≤ n)) && s.fillerReady

/-- Does the primary take a cause of R323 at its waiting bundle in this cycle? -/
def State.primDue (s : State) : Bool :=
  s.prim.status == .running && s.prim.wait.isSome && (waitDue ((s.nextInstrs .prim).filterMap semOf) s.prim).isSome

/-- Is the primary to be held for the secondary (R19)? The hold takes a cycle that is not bridled (R294), and not one in which the primary
takes a cause at its waiting bundle (R323). -/
def State.holdsPrimary (s : State) : Bool :=
  !s.primDue && (s.fillerDue || (decide (4096 ≤ s.sec.ready19) && s.sec.status == .running && !s.held && issued .sec s (s.issueNow .sec)))

/-- SECONDARY_HOLD (R19): the secondary, or the filler gang that stands there, issues and its count restarts. -/
def execSecondaryHold (s : State) : Out :=
  .next (if !s.holdsPrimary then s
    else if s.fillerDue then { s with primMask := 0, turn := .sec }.fillerTurn
    else ({ s.issueNow .sec with primMask := 0, turn := .sec }).modStr .sec (fun t => { t with ready19 := 0 }))

/-- A stream that waits at a bundle which holds a word of some kind presents it again; the bundle issues when its waits have
ended. -/
def State.wakeWait (s : State) (i : Sid) (is : Instr → Bool) : State :=
  if (s.str i).status = .running ∧ (s.str i).wait.isSome = true ∧ (s.nextInstrs i).any is = true then s.issueNow i else s

/-- Is this a WAITG, a WAITR, a FENCE? -/
def isWaitg (i : Instr) : Bool := match i with | .waitg _ => true | _ => false
def isWaitr (i : Instr) : Bool := match i with | .waitr _ => true | _ => false
def isFence (i : Instr) : Bool := match i with | .fence _ => true | _ => false

/-- WAITG_WAKE (R95). -/
def execWaitgWake (i : Sid) (s : State) : Out := .next (s.wakeWait i isWaitg)

/-- WAITR_WAKE (R96). -/
def execWaitrWake (i : Sid) (s : State) : Out := .next (s.wakeWait i isWaitr)

/-- FENCE_RELEASE (R190). -/
def execFenceRelease (i : Sid) (s : State) : Out := .next (s.wakeWait i isFence)

end Sys2Proof.Machine
end

