-- ==== Sys2Proof/Machine/Dispatch.lean ====
section
/-! DEFINITION. Sys2Proof/Machine/Dispatch.lean: one arm per row of the opcode table. -/

namespace Sys2Proof.Machine

/-- One step of the part: an instruction word alone in its bundle, or an event. -/
def exec (i : Instr) (s : State) : Host.Outcome State Fault Refusal :=
  match i with
  | .br o => Sys2Proof.Machine.execBr o s
  | .call o => Sys2Proof.Machine.execCall o s
  | .bri o => Sys2Proof.Machine.execBri o s
  | .calli o => Sys2Proof.Machine.execCalli o s
  | .ret o => Sys2Proof.Machine.execRet o s
  | .loop o => Sys2Proof.Machine.execLoop o s
  | .seg o => Sys2Proof.Machine.execSeg o s
  | .rdv o => Sys2Proof.Machine.execRdv o s
  | .bar o => Sys2Proof.Machine.execBar o s
  | .wake o => Sys2Proof.Machine.execWake o s
  | .sleep o => Sys2Proof.Machine.execSleep o s
  | .waitg o => Sys2Proof.Machine.execWaitg o s
  | .waitr o => Sys2Proof.Machine.execWaitr o s
  | .signal o => Sys2Proof.Machine.execSignal o s
  | .launch o => Sys2Proof.Machine.execLaunch o s
  | .trap o => Sys2Proof.Machine.execTrap o s
  | .endTask o => Sys2Proof.Machine.execEnd o s
  | .kchk o => Sys2Proof.Machine.execKchk o s
  | .csrr o => Sys2Proof.Machine.execCsrr o s
  | .csrw o => Sys2Proof.Machine.execCsrw o s
  | .add o => Sys2Proof.Machine.execAdd o s
  | .sub o => Sys2Proof.Machine.execSub o s
  | .mul o => Sys2Proof.Machine.execMul o s
  | .mulh o => Sys2Proof.Machine.execMulh o s
  | .mulhn o => Sys2Proof.Machine.execMulhn o s
  | .divs o => Sys2Proof.Machine.execDivs o s
  | .divn o => Sys2Proof.Machine.execDivn o s
  | .rems o => Sys2Proof.Machine.execRems o s
  | .remn o => Sys2Proof.Machine.execRemn o s
  | .and o => Sys2Proof.Machine.execAnd o s
  | .or o => Sys2Proof.Machine.execOr o s
  | .xor o => Sys2Proof.Machine.execXor o s
  | .andn o => Sys2Proof.Machine.execAndn o s
  | .shl o => Sys2Proof.Machine.execShl o s
  | .shrl o => Sys2Proof.Machine.execShrl o s
  | .shra o => Sys2Proof.Machine.execShra o s
  | .mins o => Sys2Proof.Machine.execMins o s
  | .maxs o => Sys2Proof.Machine.execMaxs o s
  | .minn o => Sys2Proof.Machine.execMinn o s
  | .maxn o => Sys2Proof.Machine.execMaxn o s
  | .clz o => Sys2Proof.Machine.execClz o s
  | .popc o => Sys2Proof.Machine.execPopc o s
  | .bfx o => Sys2Proof.Machine.execBfx o s
  | .bfi o => Sys2Proof.Machine.execBfi o s
  | .lea o => Sys2Proof.Machine.execLea o s
  | .cmp o => Sys2Proof.Machine.execCmp o s
  | .plog o => Sys2Proof.Machine.execPlog o s
  | .mov o => Sys2Proof.Machine.execMov o s
  | .ldiH0 o => Sys2Proof.Machine.execLdiH0 o s
  | .ldiH1 o => Sys2Proof.Machine.execLdiH1 o s
  | .ldiH2 o => Sys2Proof.Machine.execLdiH2 o s
  | .ldiH3 o => Sys2Proof.Machine.execLdiH3 o s
  | .addi o => Sys2Proof.Machine.execAddi o s
  | .qcnt o => Sys2Proof.Machine.execQcnt o s
  | .qdrop o => Sys2Proof.Machine.execQdrop o s
  | .shpw o => Sys2Proof.Machine.execShpw o s
  | .shpr o => Sys2Proof.Machine.execShpr o s
  | .fadd o => Sys2Proof.Machine.execFadd o s
  | .fsub o => Sys2Proof.Machine.execFsub o s
  | .fmul o => Sys2Proof.Machine.execFmul o s
  | .fmac o => Sys2Proof.Machine.execFmac o s
  | .fdiv o => Sys2Proof.Machine.execFdiv o s
  | .fsqrt o => Sys2Proof.Machine.execFsqrt o s
  | .fmin o => Sys2Proof.Machine.execFmin o s
  | .fmax o => Sys2Proof.Machine.execFmax o s
  | .fcmp o => Sys2Proof.Machine.execFcmp o s
  | .fcvt o => Sys2Proof.Machine.execFcvt o s
  | .vadd o => Sys2Proof.Machine.execVadd o s
  | .vsub o => Sys2Proof.Machine.execVsub o s
  | .vmul o => Sys2Proof.Machine.execVmul o s
  | .vfma o => Sys2Proof.Machine.execVfma o s
  | .vmin o => Sys2Proof.Machine.execVmin o s
  | .vmax o => Sys2Proof.Machine.execVmax o s
  | .vabs o => Sys2Proof.Machine.execVabs o s
  | .vneg o => Sys2Proof.Machine.execVneg o s
  | .vdiv o => Sys2Proof.Machine.execVdiv o s
  | .vsqrt o => Sys2Proof.Machine.execVsqrt o s
  | .vadds o => Sys2Proof.Machine.execVadds o s
  | .vmuls o => Sys2Proof.Machine.execVmuls o s
  | .vfmas o => Sys2Proof.Machine.execVfmas o s
  | .viadd o => Sys2Proof.Machine.execViadd o s
  | .visub o => Sys2Proof.Machine.execVisub o s
  | .vimul o => Sys2Proof.Machine.execVimul o s
  | .vand o => Sys2Proof.Machine.execVand o s
  | .vor o => Sys2Proof.Machine.execVor o s
  | .vxor o => Sys2Proof.Machine.execVxor o s
  | .vshl o => Sys2Proof.Machine.execVshl o s
  | .vshr o => Sys2Proof.Machine.execVshr o s
  | .vcmp o => Sys2Proof.Machine.execVcmp o s
  | .vcmps o => Sys2Proof.Machine.execVcmps o s
  | .vsel o => Sys2Proof.Machine.execVsel o s
  | .vmov o => Sys2Proof.Machine.execVmov o s
  | .vbcst o => Sys2Proof.Machine.execVbcst o s
  | .viota o => Sys2Proof.Machine.execViota o s
  | .vcvt o => Sys2Proof.Machine.execVcvt o s
  | .vperm o => Sys2Proof.Machine.execVperm o s
  | .vlsh o => Sys2Proof.Machine.execVlsh o s
  | .vrdx o => Sys2Proof.Machine.execVrdx o s
  | .vdot o => Sys2Proof.Machine.execVdot o s
  | .vxdrn o => Sys2Proof.Machine.execVxdrn o s
  | .vxclr o => Sys2Proof.Machine.execVxclr o s
  | .vexp2 o => Sys2Proof.Machine.execVexp2 o s
  | .vlog2 o => Sys2Proof.Machine.execVlog2 o s
  | .vrcp o => Sys2Proof.Machine.execVrcp o s
  | .vrsq o => Sys2Proof.Machine.execVrsq o s
  | .vtanh o => Sys2Proof.Machine.execVtanh o s
  | .vsigm o => Sys2Proof.Machine.execVsigm o s
  | .vmsk o => Sys2Proof.Machine.execVmsk o s
  | .vmskqToMask o => Sys2Proof.Machine.execVmskqToMask o s
  | .vmskqFromMask o => Sys2Proof.Machine.execVmskqFromMask o s
  | .vhdrRead o => Sys2Proof.Machine.execVhdrRead o s
  | .vhdrWrite o => Sys2Proof.Machine.execVhdrWrite o s
  | .mbld o => Sys2Proof.Machine.execMbld o s
  | .mpush o => Sys2Proof.Machine.execMpush o s
  | .mshift o => Sys2Proof.Machine.execMshift o s
  | .macc o => Sys2Proof.Machine.execMacc o s
  | .mswap o => Sys2Proof.Machine.execMswap o s
  | .mdrain o => Sys2Proof.Machine.execMdrain o s
  | .mdrns o => Sys2Proof.Machine.execMdrns o s
  | .mclr o => Sys2Proof.Machine.execMclr o s
  | .mspill o => Sys2Proof.Machine.execMspill o s
  | .mfill o => Sys2Proof.Machine.execMfill o s
  | .mstat o => Sys2Proof.Machine.execMstat o s
  | .tld o => Sys2Proof.Machine.execTld o s
  | .tst o => Sys2Proof.Machine.execTst o s
  | .tlda o => Sys2Proof.Machine.execTlda o s
  | .tsta o => Sys2Proof.Machine.execTsta o s
  | .ld o => Sys2Proof.Machine.execLd o s
  | .st o => Sys2Proof.Machine.execSt o s
  | .ldh o => Sys2Proof.Machine.execLdh o s
  | .sth o => Sys2Proof.Machine.execSth o s
  | .fence o => Sys2Proof.Machine.execFence o s
  | .synca o => Sys2Proof.Machine.execSynca o s
  | .vref o => Sys2Proof.Machine.execVref o s
  | .voadd o => Sys2Proof.Machine.execVoadd o s
  | .voaddS64 o => Sys2Proof.Machine.execVoaddS64 o s
  | .vocas o => Sys2Proof.Machine.execVocas o s
  | .vosax o => Sys2Proof.Machine.execVosax o s
  | .publ o => Sys2Proof.Machine.execPubl o s
  | .hand o => Sys2Proof.Machine.execHand o s
  | .tagr o => Sys2Proof.Machine.execTagr o s
  | .lncnt o => Sys2Proof.Machine.execLncnt o s
  | .lnstr o => Sys2Proof.Machine.execLnstr o s
  | .bcopy o => Sys2Proof.Machine.execBcopy o s
  | .sbind o => Sys2Proof.Machine.execSbind o s
  | .sunb o => Sys2Proof.Machine.execSunb o s
  | .saego o => Sys2Proof.Machine.execSaego o s
  | .saef o => Sys2Proof.Machine.execSaef o s
  | .send o => Sys2Proof.Machine.execSend o s
  | .recv o => Sys2Proof.Machine.execRecv o s
  | .synci o => Sys2Proof.Machine.execSynci o s
  | .fslot o => Sys2Proof.Machine.execFslot o s
  | .emptyBundle => Sys2Proof.Machine.execEmptyBundle s
  | .secondaryHold => Sys2Proof.Machine.execSecondaryHold s
  | .land => Sys2Proof.Machine.execLand s
  | .itemArrival id => Sys2Proof.Machine.execItemArrival id s
  | .accessPerforms r => Sys2Proof.Machine.execAccessPerforms r s
  | .lateCheckReplay sid => Sys2Proof.Machine.execLateCheckReplay sid s
  | .remotePushLands sid q v => Sys2Proof.Machine.execRemotePushLands sid q v s
  | .segmentCheckpoint sid => Sys2Proof.Machine.execSegmentCheckpoint sid s
  | .barrierComplete b mismatch => Sys2Proof.Machine.execBarrierComplete b mismatch s
  | .rendezvousComplete sid mismatch => Sys2Proof.Machine.execRendezvousComplete sid mismatch s
  | .waitgWake sid => Sys2Proof.Machine.execWaitgWake sid s
  | .waitrWake sid => Sys2Proof.Machine.execWaitrWake sid s
  | .fenceRelease sid => Sys2Proof.Machine.execFenceRelease sid s
  | .wrapSweepDone gslot => Sys2Proof.Machine.execWrapSweepDone gslot s
  | .domainAwake dom => Sys2Proof.Machine.execDomainAwake dom s
  | .copyBlockPost id => Sys2Proof.Machine.execCopyBlockPost id s
  | .portPrefetch sid port => Sys2Proof.Machine.execPortPrefetch sid port s
  | .outPortWrite sid port => Sys2Proof.Machine.execOutPortWrite sid port s
  | .rowBufferFeedFill sid => Sys2Proof.Machine.execRowBufferFeedFill sid s
  | .saeWindowApply sid => Sys2Proof.Machine.execSaeWindowApply sid s
  | .refreshDue slice group => Sys2Proof.Machine.execRefreshDue slice group s
  | .controllerRefresh slice group => Sys2Proof.Machine.execControllerRefresh slice group s
  | .columnDegraded col => Sys2Proof.Machine.execColumnDegraded col s
  | .rewind sid => Sys2Proof.Machine.execRewind sid s
  | .trapHandling sid => Sys2Proof.Machine.execTrapHandling sid s
  | .preemptionRequest sid => Sys2Proof.Machine.execPreemptionRequest sid s
  | .contextSave sid => Sys2Proof.Machine.execContextSave sid s
  | .contextRestore sid => Sys2Proof.Machine.execContextRestore sid s
  | .watchdogSample => Sys2Proof.Machine.execWatchdogSample s
  | .watchdogKill sid => Sys2Proof.Machine.execWatchdogKill sid s
  | .gangStart queue => Sys2Proof.Machine.execGangStart queue s
  | .gangCompletion g => Sys2Proof.Machine.execGangCompletion g s
  | .create r => Sys2Proof.Machine.execCreate r s
  | .load r => Sys2Proof.Machine.execLoad r s
  | .post r => Sys2Proof.Machine.execPost r s
  | .teardownQueue h queue => Sys2Proof.Machine.execTeardownQueue h queue s
  | .teardownSession h => Sys2Proof.Machine.execTeardownSession h s
  | .telemetry h => Sys2Proof.Machine.execTelemetry h s
  | .blackbox h => Sys2Proof.Machine.execBlackbox h s
  | .attest h nonce => Sys2Proof.Machine.execAttest h nonce s
  | .diag h clear restart => Sys2Proof.Machine.execDiag h clear restart s
  | .fwupdate h image => Sys2Proof.Machine.execFwupdate h image s
  | .balanceWindow => Sys2Proof.Machine.execBalanceWindow s
  | .rampStep => Sys2Proof.Machine.execRampStep s
  | .thermalObserverStep => Sys2Proof.Machine.execThermalObserverStep s
  | .thermalTrip sensor temp => Sys2Proof.Machine.execThermalTrip sensor temp s
  | .thermalTripClear sensor temp => Sys2Proof.Machine.execThermalTripClear sensor temp s
  | .powerSample => Sys2Proof.Machine.execPowerSample s
  | .powerFirmwareAbsent => Sys2Proof.Machine.execPowerFirmwareAbsent s
  | .powerFirmwarePresent => Sys2Proof.Machine.execPowerFirmwarePresent s
  | .fabricSlot => Sys2Proof.Machine.execFabricSlot s
  | .fabricStatusPoint => Sys2Proof.Machine.execFabricStatusPoint s
  | .holdTimeout => Sys2Proof.Machine.execHoldTimeout s
  | .fragmentArrival f => Sys2Proof.Machine.execFragmentArrival f s
  | .deadlineExpiry cls source seq => Sys2Proof.Machine.execDeadlineExpiry cls source seq s
  | .retransmissionRequest cls seq missing => Sys2Proof.Machine.execRetransmissionRequest cls seq missing s
  | .fabricAck copy seq => Sys2Proof.Machine.execFabricAck copy seq s
  | .linkDown part => Sys2Proof.Machine.execLinkDown part s
  | .probeOperation p => Sys2Proof.Machine.execProbeOperation p s
  | .reset => Sys2Proof.Machine.execReset s
  | .bootStage fails lost => Sys2Proof.Machine.execBootStage fails lost s
  | .startTimeout => Sys2Proof.Machine.execStartTimeout s
  | .railOutOfRange => Sys2Proof.Machine.execRailOutOfRange s
  | .rejoin => Sys2Proof.Machine.execRejoin s
  | .badkind h kind body => Sys2Proof.Machine.execBadkind h kind body s
  | .redfishSettings ramp assoc => Sys2Proof.Machine.execRedfishSettings ramp assoc s

end Sys2Proof.Machine
end

