-- ==== Sys2Proof/Machine/Cycle.lean ====
section
/-! DEFINITION. Sys2Proof/Machine/Cycle.lean: what comes next in a cycle: an outside input, an event that is due, or the issue
of a stream's bundle; the end of a cycle; a program placed for the next fetch (R8, R18, R19). -/

namespace Sys2Proof.Machine

/-! ### Outside inputs -/

/-- The instructions that the outside of the core can bring: other cores and members, other devices, hosts, the operator, the
service, sensors, rails and the boot. Nothing else is taken from the inbox. -/
def isInput : Instr → Bool
  | .accessPerforms (.own _) => false
  | .accessPerforms _ => true
  | .remotePushLands .. | .barrierComplete .. | .rendezvousComplete .. | .columnDegraded _ | .preemptionRequest _ => true
  | .contextSave _ | .contextRestore _ | .gangCompletion _ | .controllerRefresh .. => true
  | .create _ | .load _ | .post _ | .teardownQueue .. | .teardownSession _ | .telemetry _ | .blackbox _ | .attest .. => true
  | .diag .. | .fwupdate .. | .badkind .. | .redfishSettings .. => true
  | .thermalTrip .. | .thermalTripClear .. | .powerFirmwareAbsent | .powerFirmwarePresent => true
  | .fragmentArrival _ | .retransmissionRequest .. | .fabricAck .. | .linkDown _ | .rejoin => true
  | .probeOperation _ | .reset | .bootStage .. | .railOutOfRange => true
  | _ => false

/-- Does the device do nothing of itself: held in reset by a rail (R376), or FAILED (R365)? -/
def State.dead (s : State) : Bool := s.service.inReset || s.service.health == .failed

/-- Can a push that reached this core by a cycle be judged at its mailbox: there is none, or it has room and no push of this core that
came before still waits there (R22, R23)? -/
def State.pushReady (s : State) (i : Sid) (q by' : Nat) : Bool :=
  !s.mailOpen (i == .sec) q || (!s.mailFull (i == .sec) q && !s.ownWaits i q by')

/-- Is an inbox entry to be taken now? A dead device counts no cycles. A push lands in a cycle after the one that brings it, so that a
pop of that cycle goes first (R22). -/
def State.inputDue (s : State) (p : Nat × Instr) : Bool :=
  isInput p.2 && (s.dead || decide (p.1 ≤ s.now)) &&
  (match p.2 with
   | .remotePushLands i q _ => (s.dead || decide (p.1 < s.now)) && s.pushReady i q.toNat p.1
   | _ => true)

/-- Does an input go before another: an earlier cycle first, and of the fragments of one cycle the lower index (R308)? -/
def inputBefore (a b : Nat × Instr) : Bool :=
  decide (a.1 < b.1) || (a.1 == b.1 && (match a.2, b.2 with
    | .fragmentArrival f, .fragmentArrival g => decide (f.index < g.index)
    | _, _ => false))

/-- The input to be taken first; entries that nothing sets apart go in the order of the inbox. -/
def pickInput : List (Nat × Instr) → Option (Nat × Instr)
  | [] => none
  | p :: ps => some (ps.foldl (fun a b => if inputBefore b a then b else a) p)

/-- The next input that is due, and the machine without it. -/
def State.dueInput (s : State) : Option (Instr × State) :=
  (pickInput (s.inbox.filter s.inputDue)).map (fun p => (p.2, { s with inbox := s.inbox.erase p }))

/-! ### Events that are due -/

/-- A stream's units go on while its task is on the core. -/
def unitsOn (t : Stream) : Bool := t.status != .idle && t.status != .saved && t.status != .restoring

/-- Landings, arrivals and accesses of this cycle (R8, R25, R180, R270, R380). -/
def State.dueMemory (s : State) : Option Instr :=
  match s.accs.find? s.accReady with
  | some a => some (.accessPerforms (.own a.id))
  | none =>
    match s.fabric.sent.find? s.sendReady with
    | some x => some (.accessPerforms (.own x.id))
    | none =>
      match s.accs.find? (fun a => a.done && decide (a.arrive ≤ s.now)) with
      | some a => some (.itemArrival a.id)
      | none => if s.landDue then some .land else none

/-- What a stream's recovery, checkpoint and waits have due (R87, R90, R91, R177, R356). -/
def State.dueStream (s : State) (i : Sid) : Option Instr :=
  let t := s.str i
  let alone := decide (t.task.members.toNat ≤ 1) && !t.preempt && !s.erring i
  if s.backDue i then
    (match t.error with
     | some c => if c.rank = 9 then some (.rewind i) else some (.lateCheckReplay i)
     | none => none)
  else if s.ckptReady i then some (.segmentCheckpoint i)
  else match t.wait with
    | some (.bar _) => if alone then some (.barrierComplete (.here i) false) else none
    | some (.rdv ..) => if alone then some (.rendezvousComplete i false) else none
    | _ => none

/-- What a stream's ports and its SAE have due (R203 to R206). -/
def State.dueUnits (s : State) (i : Sid) : Option Instr :=
  let t := s.str i
  if !unitsOn t then none
  else
    match (List.range 8).find? (fun k => (t.port k).any (s.fetchReady i)) with
    | some k => some (.portPrefetch i (BitVec.ofNat 3 k))
    | none =>
      match (List.range 8).find? (fun k => (t.port k).any (s.drainReady i)) with
      | some k => some (.outPortWrite i (BitVec.ofNat 3 k))
      | none =>
        if (t.port 7).any (s.feedDue i) then some (.rowBufferFeedFill i)
        else if decide (t.sae.next ≤ s.now) && s.saeReady i then some (.saeWindowApply i)
        else none

/-- A copy that has something to do (R200, R345). -/
def State.dueCopy (s : State) : Option Instr := (s.copies.find? s.copyReady).map (fun c => .copyBlockPost c.id)

/-- The other core of the series pair (R292): a wake of it that stops counting, or, where it is the lower of the two, wakes it issues in
this cycle, which stand before this core's. -/
def State.duePair (s : State) : Option Instr :=
  match s.power.partner.find? (fun p => decide (p.2 ≤ s.now)) with
  | some p => some (.domainAwake (.pair (BitVec.ofNat 5 p.1)))
  | none =>
    if s.lower then none
    else (s.power.ahead.find? (fun p => decide (p.1 ≤ s.now))).map (fun p => .domainAwake (.pair (BitVec.ofNat 5 p.2)))

/-- Domains, sweeps and refresh (R195, R252, R291). -/
def State.dueCore (s : State) : Option Instr :=
  let awake := (s.doms.find? (fun p => p.2.st == .waking && decide (p.2.due ≤ s.now))).map (fun p =>
    Instr.domainAwake (.own (BitVec.ofNat 5 p.1)))
  let swept := (s.sessions.findSome? (fun x => x.sweeps.find? (fun p => decide (p.2 ≤ s.now)))).map (fun p =>
    Instr.wrapSweepDone (BitVec.ofNat 4 p.1))
  let sl := coreL s.coreNo.toNat
  let refresh := if (s.dutyOf sl).isSome then
      ((List.range 64).find? (fun g => decide ((s.refGroup sl g).due ≤ s.now))).map
        (fun g => Instr.refreshDue (BitVec.ofNat 2 sl) (BitVec.ofNat 6 g))
    else none
  [awake, s.duePair, swept, refresh].findSome? id

/-- What the scheduler and the service have due for a stream (R287, R342, R345, R349, R352). -/
def State.dueGang (s : State) (i : Sid) : Option Instr :=
  let t := s.str i
  let alone := decide (t.task.members.toNat ≤ 1)
  if t.status == .trapped && t.record.isSome && decide (t.actAt ≤ s.now) then some (.trapHandling i)
  else if alone && t.status == .finished then some (.gangCompletion (.here i 0 false))
  else if alone && s.stopped i && s.saveQuiet i then some (.contextSave i)
  else if t.saveBy.any (fun c => decide (c ≤ s.now)) then some (.watchdogKill i)
  else none

/-- Does a pending step end now without running, or is it a head that does something (R276, R277, R281)? -/
def State.startDue (s : State) (p : PlanStep) : Bool :=
  (s.endsNow p).isSome || (s.head p.queue == some p && s.headAct p.queue != .wait)

/-- A queue with a step of which something becomes now, the earliest posted first. -/
def State.dueStart (s : State) : Option Instr := (s.queues.find? s.startDue).map (fun p => .gangStart (BitVec.ofNat 6 p.queue))

/-- A saved context that resumes now (R349). The members of a gang on several cores issue their first bundles in one cycle, so the end of
such a restore comes from outside. -/
def State.dueRestore (s : State) (i : Sid) : Option Instr :=
  match s.savedOf i with
  | some c =>
    let t := s.str i
    if (t.status == .saved && s.fitsBack i) ||
       (t.status == .restoring && (s.unqueued c || (decide (t.task.members.toNat ≤ 1) && s.allBack i c))) then
      some (.contextRestore i) else none
  | none => none

/-- Periodic events of the device (R293, R295, R298, R300, R301, R351, R368). -/
def State.duePeriodic (s : State) : Option Instr :=
  if s.power.nextWindow ≤ s.now then some .balanceWindow
  else if s.power.nextRamp ≤ s.now then some .rampStep
  else if s.power.nextZone ≤ s.now then some .thermalObserverStep
  else if s.power.nextSample ≤ s.now then some .powerSample
  else if s.nextGrid ≤ s.now then some .watchdogSample
  else if s.power.firmware && decide (silentMax ≤ s.power.silent) then some .powerFirmwareAbsent
  else if !s.power.firmware && s.power.silent == 0 then some .powerFirmwarePresent
  else if s.writeDone then some .thermalObserverStep
  else if s.starting && decide (s.service.started + startLimit ≤ s.now) then some .startTimeout
  else s.sweepProbe.map .probeOperation

/-- Events of the fabric (R310, R312, R313, R316). -/
def State.dueFabric (s : State) : Option Instr :=
  let f := s.fabric
  if f.nextPoint.any (fun c => decide (c ≤ s.now)) then some .fabricStatusPoint
  else if s.service.stage == 5 && decide (f.nextSlot ≤ s.now) then
    (if f.hold && decide (999 ≤ f.heldSlots) && f.overrun then some .holdTimeout else some .fabricSlot)
  else if f.hold then none
  else (f.rx.find? (fun r => decide (r.deadline ≤ f.period))).map (fun r =>
    .deadlineExpiry (BitVec.ofNat 3 r.cls) (BitVec.ofNat 15 r.source) (BitVec.ofNat 32 r.seq))

/-- The event that comes next in this cycle, if one is due. -/
def State.dueEvent (s : State) : Option Instr :=
  [s.dueCore, s.dueMemory, s.dueStream .prim, s.dueStream .sec, s.dueCopy, s.dueUnits .prim, s.dueUnits .sec,
   s.dueGang .prim, s.dueGang .sec, s.dueStart, s.dueRestore .prim, s.dueRestore .sec, s.duePeriodic, s.dueFabric].findSome? id

/-! ### Issue (R18, R19) -/

/-- A stream's next bundle is presented: a waiting WAITG, WAITR or FENCE as its event, a bundle of one instruction as that
instruction, an empty bundle as its event. -/
def State.present1 (s : State) (i : Sid) : Out :=
  let is := s.nextInstrs i
  if (s.str i).wait.isSome && is.any isWaitg then exec (.waitgWake i) s
  else if (s.str i).wait.isSome && is.any isWaitr then exec (.waitrWake i) s
  else if (s.str i).wait.isSome && is.any isFence then exec (.fenceRelease i) s
  else match is, s.early i with
    | [], [] => exec .emptyBundle (s.atIssue i)
    | [x], [] => exec x (s.atIssue i)
    | _, _ => .next (s.issueNow i)

/-- Change the next state of an outcome. -/
def outMap (f : State → State) : Out → Out
  | .next s => .next (f s)
  | .fault r => .fault r
  | .refused r => .refused r

/-- The primary's turn has passed: its mask stands for the rest of the cycle if it has issued (R18). -/
def afterPrim (s t : State) : State := { t with turn := .sec, primMask := if issued .prim s t then s.nextMask .prim else 0 }

/-- Note since when a queue's head has waited with every predecessor finished (R275). -/
def State.noteHeads (s : State) : State :=
  s.queues.foldl (fun (t : State) p =>
    if s.head p.queue == some p && p.preds.all (fun r => s.predFate p r == .done) && SMap.get 0 t.headSince p.queue == 0 then
      { t with headSince := SMap.set 0 t.headSince p.queue (s.now + 1) }
    else t) s

/-- The end of a cycle: where the other core of the series pair is the upper one, the wakes it has issued in the cycle stand behind this
core's (R292). -/
def State.tick (s : State) : State :=
  let t := s.noteHeads
  { (if t.lower then t.joinPeers else t) with cycle := s.cycle + 1, turn := .prim, primMask := 0 }

/-- The secondary's turn has passed: a bundle that could issue but for the primary's mask is passed over and counted, one
that issues restarts the count (R18, R19). -/
def afterSec (s t : State) : State :=
  if issued .sec s t then
    if s.nextMask .sec &&& s.primMask != 0 then (s.modStr .sec (fun x => { x with ready19 := x.ready19 + 1 })).tick
    else (t.modStr .sec (fun x => { x with ready19 := 0 })).tick
  else t.tick

/-- The next turn of issue. -/
def State.issueTurn (s : State) : Out :=
  match s.turn with
  | .prim =>
    if s.holdsPrimary then outMap State.tick (exec .secondaryHold s)
    else if s.prim.status = .running then outMap (afterPrim s) (s.present1 .prim)
    else .next { s with turn := .sec, primMask := 0 }
  | .sec => if s.sec.status = .running then outMap (afterSec s) (s.present1 .sec) else .next s.fillerTurn.tick

/-! ### A program placed for the next fetch -/

/-- Where `withFetchWord` places its packet: word address and byte address. -/
def textWord : Nat := 0x40_0000
def textByte : Nat := 0x100_0000

/-- A page of 2 MiB at its own address with the right to execute (R327). -/
def textPage : Mapping := ⟨textByte, BitVec.ofNat 64 (textByte + 0x0B)⟩

/-- A session that maps the page. -/
def textSession : Session :=
  { asid := 1, xmin := 0, xmax := 15, ymin := 0, ymax := 7, pages := [textPage], queues := [], classes := [], assoc := 0,
    keys := none, window := true, strict := false, kernels := [], phases := [], taken := [], sweeps := [], losses := [],
    decoded := [] }

/-- The 16 words of a packet that holds one bundle of one slot word. -/
def onePacket (slot : Nat) (w : W32) : List W32 :=
  [0x2, BitVec.ofNat 32 (2 ^ (24 + slot)), w] ++ List.replicate 13 0

/-- A packet's bytes in memory order. -/
def packetBytes (ws : List W32) : List Byte := ws.flatMap (fun w => toBytes 4 w.toNat)

/-- The machine with a word standing alone in the primary's next bundle, at its first bundle of a task of a session that
maps the page (log 8). -/
def State.withProgram (s : State) (slot : Nat) (w : W32) : State :=
  let s := s.store textByte (packetBytes (onePacket slot w))
  { s with
    prim := { Stream.idle with
      status := .running
      task := { Task.none with asid := 1, members := 1, tixEnd := 1 }
      sc := { Scalars.start with pc := BitVec.ofNat 64 (textWord + 1) } }
    sessions := textSession :: s.sessions.filter (fun x => x.asid != 1)
    turn := .prim }

end Sys2Proof.Machine
end

