-- ==== Sys2Proof/Machine/Step.lean ====
section
/-! DEFINITION. Sys2Proof/Machine/Step.lean: one step of the machine. -/

namespace Sys2Proof.Machine

/-- One step: an outside input that is due, else an event that is due, else the next turn of issue. A device that is held in
reset or FAILED does nothing without an input. -/
def step (s : State) : Host.Outcome State Fault Refusal :=
  match s.dueInput with
  | some (i, t) => exec i t
  | none =>
    if s.dead then .fault .heldInReset
    else match s.dueEvent with
      | some i => exec i s
      | none => s.issueTurn

/-- The machine with a table row's word placed where the next step fetches. -/
def State.withFetchWord (s : State) (nbits w : Nat) : State :=
  let x : W32 := BitVec.ofNat 32 (w % 2 ^ nbits)
  s.withProgram (((decodeAny x).map (·.1.idx)).getD 0) x

end Sys2Proof.Machine
end

