-- ==== Sys2Proof/Safety.lean ====
section
/-! DEFINITION. Sys2Proof/Safety.lean: the terms in which statements speak of runs: the canonical form of memory, a run that does
not stop, when a word alone in its bundle issues, what an issue leaves alone, and the manual's tables of results written
down a second time, over integers, for the meanings to be compared with. -/

namespace Sys2Proof.Machine

/-! ### Memory and runs -/

/-- Memory and its metadata lanes are in canonical form: addresses strictly rising, nothing listed that an unlisted address
reads as. -/
def State.memWf (s : State) : Bool := SMap.wf 0 s.mem && SMap.wf 0 s.lanes

/-- Predicate p0 is 1 in both streams, in their checkpoints and in every saved context (R27). -/
def State.pZero (s : State) : Prop :=
  let ok (t : Stream) : Prop := t.sc.preds.getLsbD 0 = true ∧ ∀ c, t.ckpt = some c → c.sc.preds.getLsbD 0 = true
  ok s.prim ∧ ok s.sec ∧ ∀ c ∈ s.saved, ok c.stream

/-- A run of some steps that does not stop. -/
def SafeRun : Nat → State → Prop
  | 0, _ => True
  | n + 1, s => ∃ t, step s = .next t ∧ SafeRun n t

/-! ### Issue (R46, R80, R381) -/

/-- A word alone in its bundle meets nothing that keeps it from its waits and its effect: its guard holds; its stream has no error
pending; its bundle does not wait and is not replayed; no cause is due or found in its composition; nothing stalls it; checks that
hold it from afar have returned; it has no cause of its own. -/
def State.passes (s : State) (w : WordSem) : Bool :=
  guardHolds w.guard s.me && s.me.error.isNone && s.me.wait.isNone && s.me.replay.isNone &&
  (s.me.presented || ((dueAt [w] s.me).isEmpty && (compositionCauses [w] s.me s.bundle.hdr).isEmpty)) &&
  !s.bundleStalls [w] && (!s.probesAfar [w] || s.me.lateAt.any (fun c => decide (c ≤ s.now))) &&
  (s.mainCauses [w]).isEmpty

/-- Words of one bundle, first presented or stalled before, meet nothing that keeps them from their effects together. -/
def State.passesAll (s : State) (ws : List WordSem) : Bool :=
  ws.all (fun w => guardHolds w.guard s.me) && s.me.error.isNone && s.me.wait.isNone && s.me.replay.isNone &&
  (s.me.presented || ((dueAt ws s.me).isEmpty && (compositionCauses ws s.me s.bundle.hdr).isEmpty)) &&
  !s.bundleStalls ws && (s.mainCauses ws).isEmpty

/-- The machine as the word's wait and the hold of a commit bundle begin. -/
def State.begun (s : State) (w : WordSem) : State := w.begins (s.present.holdBegins [w])

/-- Nothing of the bundle itself waits any longer: no hold of a commit bundle, no wait of the word; no check fails, and no cause is found
at the end of the wait. -/
def State.waitOver (s : State) (w : WordSem) : Bool :=
  !s.commitHeld [w] && !w.waits s && (s.heldChecks [w]).isNone && (w.atEnd s).isEmpty

/-- The machine as a BAR or RDV is reached, the tags of a commit bundle's accesses moved. -/
def State.reached (s : State) (w : WordSem) : State := w.arrive (s.tagChecked [w])

/-- The bundle leaves: no other participant is waited for. -/
def State.leaves (s : State) (w : WordSem) : Bool := !w.parked s

/-- No cause of R323 ends a wait of the word in this cycle. -/
def State.undue (s : State) (w : WordSem) : Bool := !w.dueWait || (fabricDue s.me).isEmpty

/-- It issues at this moment: its wait, if it has one, is over as it begins. -/
def State.issues (s : State) (w : WordSem) : Bool :=
  s.passes w && !(s.begun w).me.arrived && (s.begun w).waitOver w && ((s.begun w).reached w).leaves w

/-- A word alone in a bundle that waits ends its wait at this moment. -/
def State.wakes (s : State) (w : WordSem) : Bool :=
  guardHolds w.guard s.me && s.me.error.isNone && s.me.wait.isSome && s.undue w && !s.held &&
  !s.overdue s.cur && s.me.consumed.isNone && (if s.me.arrived then s.leaves w else s.waitOver w && (s.reached w).leaves w)

/-- An instruction word, alone in its bundle, issues at this moment. -/
def State.ready (s : State) (i : Instr) : Bool := (semOf i).any s.issues

/-- It waits, and its wait ends at this moment. -/
def State.rouses (s : State) (i : Instr) : Bool := (semOf i).any s.wakes

/-- It begins a wait at this moment: for a condition of its own, for its late checks in a commit bundle, or, a BAR or RDV, for the
release of its earlier accesses. -/
def State.dallies (s : State) (i : Instr) : Bool :=
  (semOf i).any (fun w => s.passes w && !(s.begun w).me.arrived && ((s.begun w).commitHeld [w] || w.waits (s.begun w)) &&
    (s.begun w).undue w)

/-- A BAR or RDV is reached at this moment, and others are still to come. -/
def State.meets (s : State) (i : Instr) : Bool :=
  (semOf i).any (fun w => s.passes w && !(s.begun w).me.arrived && (s.begun w).waitOver w && w.parked ((s.begun w).reached w) &&
    (s.begun w).undue w)

/-- A word alone in its bundle, first presented, is free of what comes before its own causes in the order of R381: rank 1 to 5
causes and stalls. -/
def State.reaches (s : State) (w : WordSem) : Bool :=
  guardHolds w.guard s.me && s.me.error.isNone && s.me.wait.isNone && s.me.replay.isNone && (dueAt [w] s.me).isEmpty &&
  (compositionCauses [w] s.me s.bundle.hdr).isEmpty && !s.bundleStalls [w] && !s.probesAfar [w]

/-! ### What an issue leaves alone -/

/-- The machine `t` after an issue from `s` differs from `u` in the stream at issue and the model's own counters alone. -/
def LikeBut (s t u : State) : Prop := t.setStr s.cur s.me = { u with seq := t.seq, free := t.free, jump := t.jump }

/-- How a word marks the end of its bundle: a safe point, a commit bundle to come, the safe-point count restarts, and where it
sends the stream other than by a branch. -/
structure Mark where
  safe   : Bool
  commit : Bool
  fresh  : Bool
  jump   : Option W64

/-- The end of a bundle in a stream `a`, which `b` is afterwards: its task, latches, segment, journal and pending events stand;
its scalar state, results in flight and ports are said elsewhere; its counts advance and the marks of issue go. The safe point of a
bundle that also marks a commit bundle stands at the end of that commit bundle (R88, R89). -/
def EndsStream (m : Mark) (due : Option Nat) (a b : Stream) : Prop :=
  b = { a with
    sc := b.sc, flights := b.flights, ports := b.ports, commit := m.commit, ckptDue := due,
    atSafe := (m.safe && !m.commit) || (a.commit && a.safeC), safeC := m.safe && m.commit,
    ord := a.ord + 1, progress := a.progress + 1, presented := false, wait := none, lateAt := none, unsampled := false, resumed := false }

/-- Of the scalar state: the link stack, the shapes, the sequencer levels and the control registers stand. -/
def KeepsScalars (a b : Scalars) : Prop :=
  b = { a with
    pc := b.pc, delay := b.delay, queues := b.queues, preds := b.preds, rb := b.rb, loops := b.loops,
    safeCount := b.safeCount }

/-- The loop levels left after the bundle at an address: those it ends in their last iteration are gone (R86). -/
def levelsLeft (pc : W64) (ls : List LoopLvl) : List LoopLvl := ls.dropWhile (fun l => l.last == pc && l.j + 1 == l.iters)

/-- Where a stream goes after the bundle at issue in `s` (R24, R53, R82, R85, R86, R89): to the target if it was a delay bundle,
else where the word sends it, else back to the first bundle of the innermost level left, if it is that level's last bundle,
else to the bundle that follows. The rotation base and the stage predicate of the iteration to come change with it. -/
def Sequenced (s : State) (m : Mark) (a b : Scalars) : Prop :=
  let rb := if hdrRot s.bundle.hdr then a.rb + 1 else a.rb
  let goes (next : W64) : Prop := b.pc = s.me.sc.delay.getD next
  b.delay = (if s.me.sc.delay.isSome then none else a.delay) ∧
  b.safeCount = (if m.fresh then 0 else a.safeCount + 1) ∧
  match m.jump, levelsLeft s.bundle.pc a.loops with
  | some j, _ => goes j ∧ b.loops = a.loops ∧ b.rb = rb ∧ b.preds = a.preds
  | none, [] => goes s.bundle.next ∧ b.loops = [] ∧ b.rb = rb ∧ b.preds = a.preds
  | none, l :: ls =>
    if l.last = s.bundle.pc then
      goes l.first ∧ b.loops = { l with j := l.j + 1 } :: ls ∧ b.rb = rb + 1 ∧
      ∀ p, p < 16 → b.preds.getLsbD p = if p = physP b.rb 8 then decide (l.j + 1 < l.count) else a.preds.getLsbD p
    else goes s.bundle.next ∧ b.loops = l :: ls ∧ b.rb = rb ∧ b.preds = a.preds

/-- The head of each queue and port that some sources pop is gone, every other entry stands (R21). -/
def Pops (srcs : List Src) (a b : Stream) : Prop :=
  (∀ q, b.queue q = if q ∈ popQueues a srcs then (a.queue q).drop 1 else a.queue q) ∧
  (∀ k, b.port k =
    if k ∈ popPorts srcs then (a.port k).map (fun p => { p with entries := p.entries.drop 1 }) else a.port k)

/-- The whole effect of an issue from `s` that ends in `t`, whose bundle ends with the mark `m`: the machine is `u` but for the
stream at issue; that stream is `a`, in which the word's own effects stand, with the sources popped and the bundle ended, and
`fl` are its results in flight. -/
def BecomesAs (m : Mark) (s t u : State) (srcs : List Src) (a : Stream) (fl : List Flight) : Prop :=
  let b := t.str s.cur
  LikeBut s t u ∧ EndsStream m (if s.me.commit then some t.seq else a.ckptDue) a b ∧ KeepsScalars a.sc b.sc ∧
  Sequenced s m a.sc b.sc ∧ Pops srcs a b ∧ b.flights = fl

/-- The same of a word that marks nothing. -/
def Becomes (s t u : State) (srcs : List Src) (a : Stream) (fl : List Flight) : Prop :=
  BecomesAs ⟨false, false, false, s.jump⟩ s t u srcs a fl

/-- The result in flight that a word in `slot` issues now with a value, a destination and a latency (R25, R60). -/
def State.flight (s : State) (slot : Slot) (d : Dst) (v : W64) (lat : Nat) : Flight :=
  ⟨slot.idx, v, (match d with | .none => none | .queue q => some (physQ s.me.sc.rb q.toNat)), s.now + lat, s.seq⟩

/-- A word issues with one scalar result: the machine is `u` but for the stream at issue, which has the result in flight and
the word's sources popped. -/
def LandsIn (s t u : State) (srcs : List Src) (slot : Slot) (d : Dst) (v : W64) (lat : Nat) : Prop :=
  Becomes s t u srcs s.me (s.me.flights ++ [s.flight slot d v lat]) ∧ t.seq = s.seq + 1

/-- A word issues with one scalar result and no other effect. -/
def Lands (s t : State) (srcs : List Src) (slot : Slot) (d : Dst) (v : W64) (lat : Nat) : Prop := LandsIn s t s srcs slot d v lat

/-- A word issues that leaves the scalar state `c` (where there is one) and no result. -/
def WritesScalars (s t : State) (srcs : List Src) (c : Option Scalars) : Prop :=
  ∃ sc, c = some sc ∧ Becomes s t s srcs { s.me with sc } s.me.flights ∧ t.seq = s.seq

/-- A word issues that writes predicate `p`, named under the rotation base at issue, with `v`; a write to p0 is discarded. -/
def WritesPred (s t : State) (srcs : List Src) (p : BitVec 4) (v : Bool) : Prop :=
  ∃ ps : BitVec 16, WritesScalars s t srcs (some { s.me.sc with preds := ps }) ∧
    ∀ k, k < 16 → ps.getLsbD k = if k = physP s.me.sc.rb p.toNat ∧ k ≠ 0 then v else s.me.sc.preds.getLsbD k

/-- A stream's journal after the first write of its segment to an item, or a later one (R87, R133, R172). -/
def Stream.journaled (t : Stream) (e : JEntry) : List JEntry := if t.journal.any (fun x => x.same e) then t.journal else e :: t.journal

/-! ### The manual's tables over integers -/

/-- Words of the integer slots that R109 and R110 give two sources and a latency. -/
def arithWord : Instr → Option (IA × Nat)
  | .add o => some (o, 1) | .sub o => some (o, 1)
  | .mul o => some (o, 3) | .mulh o => some (o, 3) | .mulhn o => some (o, 3)
  | .divs o => some (o, 18) | .divn o => some (o, 18) | .rems o => some (o, 18) | .remn o => some (o, 18)
  | .and o => some (o, 1) | .or o => some (o, 1) | .xor o => some (o, 1) | .andn o => some (o, 1)
  | .shl o => some (o, 1) | .shrl o => some (o, 1) | .shra o => some (o, 1)
  | .mins o => some (o, 1) | .maxs o => some (o, 1) | .minn o => some (o, 1) | .maxn o => some (o, 1)
  | _ => none

/-- Their results at a width of `n` bits on the unsigned readings of their sources, before they are wrapped into the width. -/
def arithValue (i : Instr) (n a b : Nat) : Int :=
  let sa := signedNat n a
  let sb := signedNat n b
  match i with
  | .add _ => a + b
  | .sub _ => a - b
  | .mul _ => a * b
  | .mulh _ => (sa * sb).fdiv (2 ^ n : Nat)
  | .mulhn _ => (a * b / 2 ^ n : Nat)
  | .divs _ => if b = 0 then -1 else sa.tdiv sb
  | .divn _ => if b = 0 then -1 else (a / b : Nat)
  | .rems _ => if b = 0 then sa else sa.tmod sb
  | .remn _ => if b = 0 then a else (a % b : Nat)
  | .and _ => (a &&& b : Nat)
  | .or _ => (a ||| b : Nat)
  | .xor _ => (a ^^^ b : Nat)
  | .andn _ => (a &&& (2 ^ n - 1 - b) : Nat)
  | .shl _ => (a * 2 ^ (b % n) : Nat)
  | .shrl _ => (a / 2 ^ (b % n) : Nat)
  | .shra _ => sa.fdiv (2 ^ (b % n) : Nat)
  | .mins _ => min sa sb
  | .maxs _ => max sa sb
  | .minn _ => (min a b : Nat)
  | .maxn _ => (max a b : Nat)
  | _ => 0

/-- A result at 64 bits, or at 32 bits with its sign copied up (R107). -/
def atBits (m : Bool) (f : Nat → Nat → Nat → Int) (a b : W64) : W64 :=
  if m then wrap64 (signedNat 32 ((f 32 (a.toNat % 2 ^ 32) (b.toNat % 2 ^ 32)) % 2 ^ 32).toNat)
  else wrap64 (f 64 a.toNat b.toNat)

/-! ### Tile rows written by an engine word (R32, R130, R131) -/

/-- Row writes in flight after an engine word: one for each of `n` rows, landing `lat` cycles from now, whatever stands in the
row by then; `ok r old new` says what write `r` makes of a row. -/
def RowsLand (s : State) (ops : List RowOp) (n : Nat) (key : Nat → Nat) (lat : Nat) (ok : Nat → Row → Row → Prop) : Prop :=
  ops.length = n ∧ ∀ r o, ops[r]? = some o →
    o.sid = s.cur ∧ o.row = key r ∧ o.due = s.now + lat ∧ o.seq = s.seq ∧ o.ready = true ∧ o.acc = none ∧
    ∀ old, ok r old (o.apply old)

/-- A row that takes a header in both copies and the CRC of its payload (R31). -/
def Row.takes (r : Row) (h1 h2 : BitVec 16) : Prop := r.h1 = h1 ∧ r.h2 = h2 ∧ r.crc = rowCrc r.payload

/-- What a V or W word does to the 64 lanes of a row group: destination, active lanes, the bits each active lane takes, the
header a row with active lanes takes (from the one it has), the latency and the word's scalar sources. -/
structure LaneOp where
  td   : BitVec 4
  grp  : BitVec 4
  act  : W64
  res  : Nat → BitVec 32
  hdr  : Nat → BitVec 16 → BitVec 16
  lat  : Nat
  srcs : List Src

/-- One row of a lane word (R131): an active lane takes its result, every other keeps its bits; the row takes its header and
CRC if a lane of it is active, and stands whole if none is. -/
def LaneOp.rowOk (w : LaneOp) (r : Nat) (old new : Row) : Prop :=
  (∀ j, j < 16 → elemAt 32 new.payload j =
    if w.act.getLsbD (16 * r + j) then (w.res (16 * r + j)).toNat else elemAt 32 old.payload j) ∧
  if (List.range 16).any (fun j => w.act.getLsbD (16 * r + j)) then new.takes (w.hdr r old.h1) (w.hdr r old.h2) else new = old

/-- The header a row keeps if it is FP32 or S32 without a scale, and else takes (R140, R145). -/
def keepsOr (h old : BitVec 16) : BitVec 16 := if old = 0x7F70 ∨ old = 0x7FB0 then old else h

/-- A word of floating lanes, each rounded once to FP32 (R132, R134). -/
def State.floats (s : State) (td grp : BitVec 4) (m : W64) (mode lat : Nat) (srcs : List Src) (f : Nat → XNum) : LaneOp :=
  { td, grp, act := m, lat, srcs
    res := fun l => BitVec.ofNat 32
      (roundTo 7 (f l) mode false (rssWord s.me.sc.seed s.me.sc.step td.toNat (64 * grp.toNat + l)))
    hdr := fun _ _ => 0x7F70 }

/-- The rounding of a VT mode field: RNE, RTZ, that of `vctl.rnd`, RSS (R132). -/
def State.vtRound (s : State) (mode : BitVec 2) : Nat := [0, 1, s.me.sc.vrnd.toNat, 5].getD mode.toNat 0

/-- A word of class I lanes with an S32 result (R137). -/
def State.ints (s : State) (o : VT0) (f : BitVec 32 → BitVec 32 → BitVec 32) : LaneOp :=
  { td := o.td, grp := o.grp, act := s.mask o.mask.toNat, lat := 4, srcs := []
    res := fun l => f (s.laneBits o.ta.toNat o.grp.toNat l) (s.laneBits o.tb.toNat o.grp.toNat l)
    hdr := fun _ _ => 0x7FB0 }

/-- A word of bit lanes: the result keeps a's row header (R137). -/
def State.bitLanes (s : State) (o : VT0) (f : BitVec 16 → BitVec 32 → BitVec 32 → BitVec 32) : LaneOp :=
  { td := o.td, grp := o.grp, act := s.mask o.mask.toNat, lat := 4, srcs := []
    res := fun l => f (s.laneHead o.ta.toNat o.grp.toNat l) (s.laneBits o.ta.toNat o.grp.toNat l)
      (s.laneBits o.tb.toNat o.grp.toNat l)
    hdr := fun r _ => s.laneHead o.ta.toNat o.grp.toNat (16 * r) }

/-- The words that write the lanes of a row group (R134 to R140, R144, R145, R151), and a widening VCVT (R141). -/
def laneOp (s : State) : Instr → Option LaneOp
  | .vadd o => let m := s.vtRound o.mode
    some (s.floats o.td o.grp (s.mask o.mask.toNat) m 4 [] fun l =>
      (s.laneF o.ta.toNat o.grp.toNat l).addMode m (s.laneF o.tb.toNat o.grp.toNat l))
  | .vsub o => let m := s.vtRound o.mode
    some (s.floats o.td o.grp (s.mask o.mask.toNat) m 4 [] fun l =>
      (s.laneF o.ta.toNat o.grp.toNat l).addMode m (s.laneF o.tb.toNat o.grp.toNat l).neg)
  | .vmul o => some (s.floats o.td o.grp (s.mask o.mask.toNat) (s.vtRound o.mode) 4 [] fun l =>
      (s.laneF o.ta.toNat o.grp.toNat l).mul (s.laneF o.tb.toNat o.grp.toNat l))
  | .vdiv o => some (s.floats o.td o.grp (s.mask o.mask.toNat) (s.vtRound o.mode) 14 [] fun l =>
      (s.laneF o.ta.toNat o.grp.toNat l).div (s.laneF o.tb.toNat o.grp.toNat l))
  | .vfma o => let m := s.vtRound o.mode
    some (s.floats o.td o.grp (s.mask o.mask.toNat) m 4 [] fun l =>
      ((s.laneF o.ta.toNat o.grp.toNat l).mul (s.laneF o.tb.toNat o.grp.toNat l)).addMode m
        (s.laneF o.td.toNat o.grp.toNat l))
  | .vmin o => some (s.floats o.td o.grp (s.mask o.mask.toNat) 0 4 [] fun l =>
      (s.laneF o.ta.toNat o.grp.toNat l).min (s.laneF o.tb.toNat o.grp.toNat l))
  | .vmax o => some (s.floats o.td o.grp (s.mask o.mask.toNat) 0 4 [] fun l =>
      (s.laneF o.ta.toNat o.grp.toNat l).max (s.laneF o.tb.toNat o.grp.toNat l))
  | .vabs o => some (s.floats o.td o.grp (s.mask o.mask.toNat) 0 4 [] fun l => (s.laneF o.ta.toNat o.grp.toNat l).abs)
  | .vneg o => some (s.floats o.td o.grp (s.mask o.mask.toNat) 0 4 [] fun l => (s.laneF o.ta.toNat o.grp.toNat l).neg)
  | .vsqrt o => some (s.floats o.td o.grp (s.mask o.mask.toNat) (s.vtRound o.mode) 14 [] fun l =>
      (s.laneF o.ta.toNat o.grp.toNat l).sqrt)
  | .vadds o => let m := s.me.sc.vrnd.toNat
    some (s.floats o.td o.grp (s.mask o.mask.toNat) m 4 [o.a] fun l =>
      (s.laneF o.ta.toNat o.grp.toNat l).addMode m (f32 (s.read o.a).toNat))
  | .vmuls o => some (s.floats o.td o.grp (s.mask o.mask.toNat) s.me.sc.vrnd.toNat 4 [o.a] fun l =>
      (s.laneF o.ta.toNat o.grp.toNat l).mul (f32 (s.read o.a).toNat))
  | .vfmas o => let m := s.me.sc.vrnd.toNat
    some (s.floats o.td o.grp (s.mask o.mask.toNat) m 4 [o.a] fun l =>
      ((s.laneF o.ta.toNat o.grp.toNat l).mul (f32 (s.read o.a).toNat)).addMode m (s.laneF o.td.toNat o.grp.toNat l))
  | .vexp2 o => some (s.floats o.td o.grp (s.mask o.mask.toNat) 0 12 [] fun l => trExp2 (s.laneF o.ta.toNat o.grp.toNat l))
  | .vlog2 o => some (s.floats o.td o.grp (s.mask o.mask.toNat) 0 12 [] fun l => trLog2 (s.laneF o.ta.toNat o.grp.toNat l))
  | .vrcp o => some (s.floats o.td o.grp (s.mask o.mask.toNat) 0 12 [] fun l => trRcp (s.laneF o.ta.toNat o.grp.toNat l))
  | .vrsq o => some (s.floats o.td o.grp (s.mask o.mask.toNat) 0 12 [] fun l => trRsq (s.laneF o.ta.toNat o.grp.toNat l))
  | .vtanh o => some (s.floats o.td o.grp (s.mask o.mask.toNat) 0 12 [] fun l => trTanh (s.laneF o.ta.toNat o.grp.toNat l))
  | .vsigm o => some (s.floats o.td o.grp (s.mask o.mask.toNat) 0 12 [] fun l => trSigm (s.laneF o.ta.toNat o.grp.toNat l))
  | .viadd o => some (s.ints o fun a b => a + b)
  | .visub o => some (s.ints o fun a b => a - b)
  | .vimul o => some (s.ints o fun a b => a * b)
  | .vand o => some (s.bitLanes o fun _ a b => a &&& b)
  | .vor o => some (s.bitLanes o fun _ a b => a ||| b)
  | .vxor o => some (s.bitLanes o fun _ a b => a ^^^ b)
  | .vshl o => some (s.bitLanes o fun _ a b => BitVec.ofNat 32 (a.toNat * 2 ^ (b.toNat % 32)))
  | .vshr o => some (s.bitLanes o fun h a b =>
      if h = 0x7FB0 then BitVec.ofInt 32 (a.toInt.fdiv (2 ^ (b.toNat % 32) : Nat))
      else BitVec.ofNat 32 (a.toNat / 2 ^ (b.toNat % 32)))
  | .vsel o => some { td := o.td, grp := o.grp, act := BitVec.allOnes 64, lat := 4, srcs := []
                      res := fun l => s.laneBits (if (s.mask o.mask.toNat).getLsbD l then o.ta.toNat else o.tb.toNat) o.grp.toNat l
                      hdr := fun r _ => s.laneHead o.ta.toNat o.grp.toNat (16 * r) }
  | .vmov o => some { td := o.td, grp := o.grp, act := s.mask o.mask.toNat, lat := 4, srcs := []
                      res := fun l => s.laneBits o.ta.toNat o.grp.toNat l
                      hdr := fun r _ => s.laneHead o.ta.toNat o.grp.toNat (16 * r) }
  | .vbcst o => some { td := o.td, grp := o.grp, act := s.mask o.mask.toNat, lat := 4, srcs := [o.a]
                       res := fun _ => (s.read o.a).setWidth 32, hdr := fun _ => keepsOr 0x7F70 }
  | .viota o => some { td := o.td, grp := o.grp, act := s.mask o.mask.toNat, lat := 4, srcs := [o.a]
                       res := fun l => BitVec.ofNat 32 ((s.read o.a).toNat + l), hdr := fun _ _ => 0x7FB0 }
  | .vperm o => some { td := o.td, grp := o.grp, act := s.mask o.mask.toNat, lat := 6, srcs := []
                       res := fun l =>
                         let i := (s.laneBits o.tb.toNat o.grp.toNat l).toNat
                         if i < 64 then s.laneBits o.ta.toNat o.grp.toNat i else 0
                       hdr := fun r _ => s.laneHead o.ta.toNat o.grp.toNat (16 * r) }
  | .vlsh o => some { td := o.td, grp := o.grp, act := s.mask o.mask.toNat, lat := 3, srcs := [o.a]
                      res := fun l =>
                        let j := (l : Int) - (s.read o.a).toInt
                        if 0 ≤ j ∧ j < 64 then s.laneBits o.ta.toNat o.grp.toNat j.toNat else 0
                      hdr := fun _ => keepsOr (s.laneHead o.ta.toNat o.grp.toNat 0) }
  | .vcvt o =>
    if o.fmt = 7 ∨ o.fmt = 11 then
      some { td := o.td, grp := o.grp, act := BitVec.allOnes 64, lat := 4, srcs := []
             res := fun l =>
               let w := elemBits (hFmt (s.laneHead o.ta.toNat o.grp.toNat 0))
               let n := 64 * o.slice.toNat + l
               let row := s.row (s.rowKey s.cur o.ta.toNat (4 * o.grp.toNat + n / (512 / w)))
               BitVec.ofNat 32 (roundTo o.fmt.toNat (elemValue row.h1 (elemAt w row.payload (n % (512 / w))))
                 (if o.sto then 5 else s.me.sc.vrnd.toNat) false
                 (rssWord s.me.sc.seed s.me.sc.step o.td.toNat (64 * o.grp.toNat + l)))
             hdr := fun _ _ => mkHdr o.fmt.toNat }
    else none
  | _ => none

/-! ### Traps (R338 to R343) -/

/-- Nothing but its own words keeps a bundle of the stream at issue from issuing: it does not wait, nothing is due, no error,
hold or checkpoint stands in its way, and it is not at a safe point of a pending pre-emption. -/
def State.calm (s : State) : Bool :=
  let t := s.me
  t.wait.isNone && t.replay.isNone && (dueCauses t).isEmpty && !s.held && decide (t.waits2 ≤ s.now) &&
  decide (t.holdUntil ≤ s.now) && !s.tagging s.cur && t.ckptDue.isNone && t.error.isNone && !s.overdue s.cur &&
  !(t.preempt && t.atSafe) && t.consumed.isNone

/-- A record holds what R340 gives each of its fields for a cause met by stream `i` of a state. -/
def RecordOf (s : State) (i : Sid) (c : Cause) (r : BitVec 512) : Prop :=
  let t := s.str i
  let at' (byte bits : Nat) : Nat := (r.extractLsb' (8 * byte) bits).toNat
  at' 0 8 = c.code.num ∧ at' 1 8 = c.sub % 256 ∧ at' 2 8 = c.slot % 256 ∧
  r.getLsbD 24 = (i == .sec) ∧ r.getLsbD 25 = t.sc.delay.isSome ∧ r.getLsbD 26 = c.replay ∧ r.getLsbD 27 = c.pending ∧
  (r.extractLsb' 28 4).toNat = 0 ∧
  at' 4 16 = t.segId.toNat ∧ at' 6 16 = s.coreNo.toNat ∧ at' 8 64 = t.sc.pc.toNat ∧
  at' 16 64 = ((t.sc.delay.map (·.toNat)).getD 0) ∧ at' 24 64 = c.addr % 2 ^ 64 ∧ at' 32 64 = c.aux % 2 ^ 64 ∧
  at' 40 64 = t.task.param.toNat ∧ at' 48 64 = s.cycle.toNat ∧ at' 56 16 = t.task.asid.toNat ∧
  at' 58 10 = t.task.member.toNat ∧ (r.extractLsb' 474 2).toNat = 0 ∧ (r.extractLsb' 476 4).toNat = t.task.gslot.toNat ∧
  at' 60 32 = crc32c 60 (r.toNat % 2 ^ 480)

/-- The stream at issue takes a trap in `t` (R338, R340, R25): its bundle has no effect; the stream stops with its record, its
latches invalid; the record is kept as two entries of the black box; nothing else of the machine changes. -/
def Traps (s t : State) (c : Cause) : Prop :=
  ∃ r at' e1 e2, RecordOf s s.cur c r ∧ s.now < at' ∧
    t.str s.cur = { s.me with
      status := .trapped, record := some r, actAt := at', la := [], lb := [], wait := none, lateAt := none,
      presented := false, replay := none, error := none, consumed := if c.rank = 1 then s.me.consumed else none,
      xfault := if c.pending then none else s.me.xfault,
      refreshDue := if c.code = .refreshLate then none else s.me.refreshDue,
      holdTmo := if c.code = .fabricHoldTimeout then none else s.me.holdTmo,
      losses := if c.code = .fabricLoss ∧ c.rank = 1 then s.me.losses.drop 1 else s.me.losses } ∧
    t.bb = (e2 :: e1 :: s.bb).take 4096 ∧ e1.kind = 1 ∧ e1.data = r.extractLsb' 0 256 ∧ e2.kind = 2 ∧
    e2.data = r.extractLsb' 256 256 ∧
    t.setStr s.cur s.me = { s with bb := t.bb, bbCount := s.bbCount + 2, free := s.free + 1 }

/-- Of two causes, the first is reported before the second whatever their order: a lower rank, or a lower slot (R339). -/
def Cause.before (c d : Cause) : Prop := c.rank < d.rank ∨ (c.rank = d.rank ∧ c.slot < d.slot)

/-- The cause of a list that R339 reports: none stands before it by rank or slot, and it is the first listed of its place. -/
def Reported (l : List Cause) (c : Cause) : Prop :=
  ∃ xs ys, l = xs ++ c :: ys ∧ (∀ d ∈ xs, c.before d) ∧ ∀ d ∈ ys, ¬ d.before c

/-- The non-idempotent words of R48. -/
def nonIdempotent : Instr → Bool
  | .synca _ | .voadd _ | .voaddS64 _ | .vocas _ | .vosax _ | .saego _ | .send _ | .recv _ | .launch _ | .signal _
  | .wake _ | .sleep _ => true
  | _ => false

/-! ### Journals of a word that writes many items (R87, R172) -/

/-- What a word that writes the items whose entries with their values before are `items` makes of a journal: the items not yet
written in the segment are added, each once, with their values before; nothing else is added. -/
def Journals (old new : List JEntry) (items : JEntry → Prop) : Prop :=
  ∃ js, new = js ++ old ∧ (∀ e ∈ js, items e ∧ old.any (fun x => x.same e) = false) ∧
    (∀ e, items e → new.any (fun x => x.same e) = true) ∧ js.Pairwise (fun x y => x.same y = false)

/-- The journal key of accumulator `n` of the working bank. -/
def State.accItem (s : State) (n : Nat) : JEntry := .acc ((if s.work1 then 1024 else 0) + n) (s.acc s.work1 n)

/-! ### Accesses (R174 to R197, R380) -/

/-- The memory operation an L word or SIGNAL, LAUNCH issues, with its slot, its destination, its sources and the shape register
whose copies it exchanges. -/
def accessOf (s : State) : Instr → Option (Slot × MemOp × Dst × List Src × Option Nat)
  | .tld o => some (.L, .tld (s.rowKey s.cur o.t.toNat (4 * o.grp.toNat)) o.t.toNat (s.me.shape o.lsh.toNat o.swap) o.fmt.toNat
      o.rnd.toNat s.me.sc.seed s.me.sc.step o.grp.toNat, .none, [], if o.swap then some o.lsh.toNat else none)
  | .tst o => let sh := s.me.shape o.lsh.toNat o.swap
    some (.L, .tst o.t.toNat ((s.groupKeys o.t.toNat o.grp.toNat (min (shE1 sh) 64)).map s.row) sh o.fmt.toNat o.rnd.toNat
      s.me.sc.seed s.me.sc.step o.grp.toNat, .none, [], if o.swap then some o.lsh.toNat else none)
  | .tlda o => some (.L, .tlda (s.rowKey s.cur o.t.toNat o.first.toNat) (o.rows.toNat + 1) (s.read o.a).toNat, .none, [o.a], none)
  | .tsta o => some (.L, .tsta ((List.range (o.rows.toNat + 1)).map fun r => s.row (s.rowKey s.cur o.t.toNat (o.first.toNat + r)))
      (s.read o.a).toNat, .none, [o.a], none)
  | .ld o => some (.L, .ld (s.read o.a).toNat o.width.toNat, o.d, [o.a], none)
  | .st o => some (.L,
      (match areaOf (s.read o.b).toNat with
       | .push c q sec => .push c q sec (s.read o.a)
       | _ => .st (s.read o.b).toNat (toBytes ([1, 1, 2, 2, 4, 4, 8, 8].getD o.width.toNat 8) (s.read o.a).toNat)),
      .none, [o.a, o.b], none)
  | .ldh o => some (.L, .ldh (s.read o.a).toNat, o.d, [o.a], none)
  | .sth o => some (.L, .sth (s.read o.b).toNat ((s.read o.a).setWidth 16), .none, [o.a, o.b], none)
  | .tagr o => some (.L, .tagr (s.read o.a).toNat, o.d, [o.a], none)
  | .synca o => some (.L, .synca (s.read o.a).toNat (s.read o.b).toNat, .none, [o.a, o.b], none)
  | .voadd o => some (.L, .voadd (s.read o.a).toNat ((s.read o.b).setWidth 32), .none, [o.a, o.b], none)
  | .voaddS64 o => some (.L, .voadd64 (s.read o.a).toNat (s.read o.b), .none, [o.a, o.b], none)
  | .vocas o => some (.L, .vocas (s.read o.a).toNat (s.read (.queue o.q false)) (s.read o.b), .queue o.q,
      [.queue o.q false, o.a, o.b], none)
  | .vosax o => some (.L, .vosax (s.read o.a).toNat (s.read o.b).toNat ((s.read o.c).setWidth 32), .none, [o.a, o.b, o.c], none)
  | .signal o => some (.C, .signal (s.read o.a).toNat (s.read o.b).toNat, .none, [o.a, o.b], none)
  | .launch o => some (.C, .launch (s.read o.a).toNat, o.d, [o.a], none)
  | _ => none

/-- Is an operation a tile load? -/
def MemOp.isTileLoad : MemOp → Bool
  | .tld .. => true
  | .tlda .. => true
  | _ => false

/-- The tile rows of this core that an access keeps pending: those that a load fills, until its data lands, and those that a store
into the core's own tile window writes (R32, R39). -/
def MemOp.pends (core : Nat) : MemOp → List Nat
  | .tld r0 _ sh .. => (List.range (shE1 sh)).map (fun b => r0 + b)
  | .tlda r0 n _ => (List.range n).map (fun b => r0 + b)
  | op => if op.isStore then op.blocks.filterMap (fun b => match areaOf b with
      | .tile c t r => if c = core then some (64 * t + r) else none
      | _ => none) else []

/-- An access issued now: what it is, when it may perform and when its item lands. It performs in a later cycle, and where it brings
something, by its nominal cycle or late by a number of cycles that nothing bounds; what it brings arrives then. A push of a commit
bundle, whose checks and room the bundle has waited for, reaches its mailbox in this cycle (R23, R177 to R180, R380). Which earlier
accesses stand before it is said where it performs. -/
def IssuesAccess (s : State) (slot : Slot) (op : MemOp) (d : Dst) (a : Access) : Prop :=
  a.id = s.seq ∧ a.seq = s.seq ∧ a.sid = s.cur ∧ a.slot = slot.idx ∧ a.ord = s.me.ord ∧ a.op = op ∧ a.paths = s.opPaths op ∧ a.err = none ∧
  a.q = (match d with | .none => none | .queue q => some (physQ s.me.sc.rb q.toNat)) ∧ a.done = false ∧ a.val = none ∧
  a.checked = s.me.commit ∧
  a.scope = (match op with | .launch .. => max 3 (hdrScope s.bundle.hdr) | _ => hdrScope s.bundle.hdr) ∧
  (if s.me.commit = true ∧ op.isPush = true then a.perform = s.now else s.now < a.perform) ∧
  a.land = (if op.lands then s.now + s.opNominal s.cur op else 0) ∧
  (op.lands = true → ∃ late, a.perform ≤ a.land + late ∧ a.arrive = max (a.land + late) a.perform) ∧
  (op.lands = false → a.arrive = 0)

/-- The row writes that wait for an access: a load's take whole rows when its data lands; a store's are set when it performs. -/
def PendsRows (s : State) (op : MemOp) (ops : List RowOp) : Prop :=
  ops.map (·.row) = op.pends s.coreNo.toNat ∧
  ∀ o ∈ ops, o.sid = s.cur ∧ o.ready = false ∧ o.acc = some s.seq ∧ o.seq = s.seq ∧ o.unit = false ∧
    o.crc = op.isTileLoad ∧ o.mask = if op.isTileLoad then BitVec.allOnes 512 else 0

/-! ### Events: what stands after them (R25, R87, R180, R354, R356, R380) -/

/-- May a row write land in a cycle: its data is there and it is due? -/
def RowOp.mayLand (o : RowOp) (now : Nat) : Bool := o.ready && decide (o.due ≤ now)

/-- The writes of a row that land now: in issue order, up to the first that may not. -/
def State.landing (s : State) (k : Nat) : List RowOp := (s.rowOps.filter (fun o => o.row == k)).takeWhile (fun o => o.mayLand s.now)

/-- The writes of a mask that land now. -/
def State.maskLanding (s : State) (m : Nat) : List MaskOp :=
  (s.maskOps.filter (fun o => o.m == m)).takeWhile (fun o => decide (o.due ≤ s.now))

/-- The VDOT results of a vector accumulator that land now (R148). -/
def State.xvLanding (s : State) (k : Nat) : List XvOp := s.xvOps.filter (fun o => o.xv == k && decide (o.due ≤ s.now))

/-- A journal entry after the row writes that land now: what it keeps of a row takes the writes of units behind the program and of other
cores, which no going back undoes (R355; log 65). -/
def State.unitKept (s : State) : JEntry → JEntry
  | .row k r => .row k (((s.landing k).filter (·.unit)).foldl (fun r o => o.apply r) r)
  | e => e

/-- A stream after the landing of the results `due`, in issue order: the latches of their slots move, their values go to their
queues, or to the port that an open out-port's queue feeds (R25, R203). -/
def Stream.Landed (a b : Stream) (due : List Flight) : Prop :=
  let opened (p : Port) : Bool := p.kind == .output && !p.closing
  let vals (q : Nat) : List W64 := (due.filter (fun f => f.q == some q)).map (·.val)
  b = { a with
    sc := { a.sc with queues := b.sc.queues }, la := b.la, lb := b.lb, ports := b.ports, flights := b.flights
    journal := b.journal } ∧
  (∀ k, let xs := [a.latchB k, a.latchA k] ++ (due.filter (fun f => f.slot == k)).map (fun f => some f.val)
    [b.latchB k, b.latchA k] = xs.drop (xs.length - 2)) ∧
  (∀ q, b.queue q = a.queue q ++ (if 24 ≤ q ∧ (a.port (q - 24)).any opened = true then [] else vals q)) ∧
  (∀ k, b.port k = (a.port k).map (fun p => if opened p then { p with fed := p.fed ++ vals (24 + k) } else p))

/-- The item of a journal entry with the value it has now (R87, R133, R172). -/
def State.itemNow (s : State) : JEntry → JEntry
  | .row i _ => .row i (s.row i)
  | .acc i _ => .acc i (if 1024 ≤ i then s.acc true (i - 1024) else s.acc false i)
  | .mask i _ => .mask i (SMap.get 0 s.masks i)
  | .xv i _ => .xv i (s.xv i)
  | .panelRow i _ => .panelRow i (SMap.get PRow.none s.prows i)
  | .panelFmt i _ => .panelFmt i (s.panelFmt i)
  | .rowBuf .. => .rowBuf s.active s.shadow s.pass
  | .bank _ => .bank s.work1

/-- Stream `i` has gone back to its segment entry in `t` (R48, R100, R356): every journaled item has the value it had before the
segment's first write to it, the scalar state, the ports, the segment id and the tile at issue are the checkpoint's, and its first bundle is a commit
bundle again if it was one; mailboxes keep what landed since; nothing issues for 4 cycles and one more per journal entry. -/
def GoesBack (s t : State) (i : Sid) (k : Checkpoint) (retries : Nat) : Prop :=
  let a := s.str i
  let b := t.str i
  t.setStr i a = { s with
    tiles := t.tiles, bank0 := t.bank0, bank1 := t.bank1, masks := t.masks, xvs := t.xvs, prows := t.prows, pfmts := t.pfmts,
    active := t.active, shadow := t.shadow, pass := t.pass, work1 := t.work1, bb := t.bb, bbCount := t.bbCount, service := t.service,
    free := t.free } ∧
  (∀ e xs ys, a.journal = xs ++ e :: ys → ys.any e.same = false → t.itemNow e = e) ∧
  (∀ e, a.journal.any e.same = false → t.itemNow e = s.itemNow e) ∧
  b = { a with
    sc := { k.sc with queues := b.sc.queues }, ports := k.ports, task := { a.task with tix := k.tix, ended := k.ended },
    segId := k.seg, la := [], lb := [], journal := [], error := none, consumed := none, wait := none, lateAt := none, presented := false,
    ckptDue := none,
    commit := k.commit, atSafe := false, safeC := false, ord := 0, skip := a.worked, waits2 := s.now + 4 + a.journal.length, retries } ∧
  ∀ q, b.queue q = SMap.get [] k.sc.queues q ++
    (if 8 ≤ q ∧ q < 16 then (a.mailLog.filter (fun p => p.1 == q)).map (·.2) else [])

/-- One wake of the pair's queue is admitted (R292, R293, R299): no thermal trip stands, fewer than two domains of the pair are
waking; it is the head of the queue, or, where the balance defers the head for the heavier core, the first wake of the lighter one.
A wake of this core is waking from now on, for its domain's latency; one of the other core counts until its latency has run. -/
def AdmitsOne (s t : State) : Prop :=
  ∃ w xs ys, s.wakeQ = xs ++ w :: ys ∧ s.power.tripped = false ∧ s.wakingCount + s.power.partner.length < 2 ∧
    (xs = [] ∧ s.power.deferred ≠ some w.mine ∨
      (∃ h, s.wakeQ.head? = some h ∧ s.power.deferred = some h.mine ∧ w.mine ≠ h.mine ∧ ∀ x ∈ xs, x.mine = h.mine)) ∧
    t = { s with wakeQ := xs ++ ys, doms := t.doms, power := t.power } ∧
    (∀ e, t.dom e = if w.mine = true ∧ e = w.dom then { s.dom e with st := .waking, due := s.now + wakeLatency e } else s.dom e) ∧
    t.power = (if w.mine then s.power
      else { s.power with partner := s.power.partner ++ [(w.dom, s.now + wakeLatency w.dom)] })

/-- No wake of the queue may be admitted: a trip stands, two of the pair are waking, or nothing stands in the queue but wakes that are
deferred. -/
def State.admitsNone (s : State) : Prop :=
  s.power.tripped = true ∨ 2 ≤ s.wakingCount + s.power.partner.length ∨
  ∀ w ∈ s.wakeQ, s.power.deferred = some w.mine

/-- The admission of wakes from a state: one after the other while one may be admitted, at most two at once. -/
def Admits (s t : State) : Prop :=
  (s.admitsNone ∧ t = s) ∨ (∃ u, AdmitsOne s u ∧ ((u.admitsNone ∧ t = u) ∨ AdmitsOne u t))

/-- An event entry of the black box: its fields as R366 lays them out. -/
def BBEntry.holds (e : BBEntry) (ev core asid a b c : Nat) : Prop :=
  let at' (lo n : Nat) : Nat := (e.data.extractLsb' lo n).toNat
  e.kind = 3 ∧ at' 0 16 = ev ∧ at' 16 16 = core ∧ at' 32 16 = asid ∧ at' 48 16 = 0 ∧ at' 64 64 = a % 2 ^ 64 ∧
  at' 128 64 = b % 2 ^ 64 ∧ at' 192 64 = c % 2 ^ 64

/-- The black box of `t` is that of `s` with event entries of some fields, in order; 4096 are kept (R366). -/
def Logs (s t : State) (es : List (Nat × Nat × Nat × Nat × Nat × Nat)) : Prop :=
  ∃ xs : List BBEntry, t.bb = (if es = [] then s.bb else (xs.reverse ++ s.bb).take 4096) ∧ t.bbCount = s.bbCount + BitVec.ofNat 32 es.length ∧
    xs.length = es.length ∧
    ∀ k x e, xs[k]? = some x → es[k]? = some e → x.holds e.1 e.2.1 e.2.2.1 e.2.2.2.1 e.2.2.2.2.1 e.2.2.2.2.2 ∧
      x.num = s.bbCount + BitVec.ofNat 32 k

/-- The entry of a core event. -/
def State.coreLog (s : State) (i : Sid) (ev a b c : Nat) : Nat × Nat × Nat × Nat × Nat × Nat :=
  (ev, s.coreNo.toNat, (s.str i).task.asid.toNat, a, b, c)

/-- A block that memory holds: DRAM, CXL memory, a scratchpad or another core's tile row. The others are tile rows of this core and
accumulators. -/
def State.inMemory (s : State) (b : Nat) : Bool :=
  match areaOf b with
  | .tile c .. => c != s.coreNo.toNat
  | .accum _ => false
  | _ => true

/-- A pending access of this core performs now (R22, R23, R177, R178, R380): nothing that comes before it is left, a mailbox it pushes
to has room, and its late checks pass or were made before its bundle issued. -/
def State.performs (s : State) (a : Access) : Bool :=
  (s.access a.id == some a) && s.accReady a && (a.checked || (!s.pushWaits a.op && (s.lateCheck a.sid a.slot a.ord a.op).isNone))

/-- An earlier access of the stream that has not performed stands before this one (R178, R192, R253, R254): one on a path of its own or on
the local path; of a release also one within its scope; of a tag operation also one to a block whose tag it moves; of a SYNCI an earlier
SYNCI. -/
def State.standsBefore (s : State) (b a : Access) : Prop :=
  b ∈ s.accs ∧ b.sid = a.sid ∧ b.done = false ∧ b.seq < a.seq ∧
  ((∃ p ∈ b.paths, p ∈ s.opPaths a.op ∨ p = .localPath ∨
      (a.op.isRelease = true ∧ (p = .vertical ∧ 1 ≤ a.scope ∨ p = .horizontal ∧ 2 ≤ a.scope))) ∨
    (a.op.isTagOp = true ∧ ∃ k ∈ a.op.blocks, k ∈ b.op.blocks) ∨ (a.op.isSynci = true ∧ b.op.isSynci = true))

/-- Each block of an access stands in a place of its own (R242, R327). -/
def State.apart (s : State) (asid : BitVec 12) (bs : List Nat) : Prop :=
  ∀ b ∈ bs, ∀ c ∈ bs, s.phys asid b = s.phys asid c → b = c

/-- `u` holds an access's blocks, each under its own address, as its session sees them in `s`: memory where its page puts it, a tile row
of this core with the stores that have performed, an accumulator's record of this core; another core's accumulators read free values
(R39, R242, R327). -/
def Seen (s u : State) (asid : BitVec 12) (bs : List Nat) : Prop :=
  ∀ b ∈ bs, (∀ c, areaOf b = .accum c → c = s.coreNo.toNat) → u.load b 64 = (s.seen asid b).1 ∧ u.lane b = (s.seen asid b).2

/-- What an access has left of its blocks in `w` stands in `t`, each block of memory where its page puts it; every other byte and
header is that of `s`. -/
def Leaves (s t w : State) (asid : BitVec 12) (bs : List Nat) : Prop :=
  (∀ b ∈ bs, s.inMemory b = true → t.load (s.phys asid b) 64 = w.load b 64 ∧ t.hdrOf (s.phys asid b) = w.hdrOf b) ∧
  ∀ x, blockOf x ∉ (bs.filter s.inMemory).map (s.phys asid) → t.byte x = s.byte x ∧ t.hdrOf (blockOf x) = s.hdrOf (blockOf x)

/-- The pending row writes after an access has written blocks that `w` holds: one more for each tile row of this core among them, made
by `mk` and put in its place by `place` (R32, R39). -/
def State.rowsLeft (s w : State) (place : RowOp → List RowOp → List RowOp)
    (mk : Nat → Nat → BitVec 512 → BitVec 16 → Option RowOp) (bs : List Nat) : List RowOp :=
  bs.foldl (fun q b => match areaOf b with
    | .tile c r k =>
      if c = s.coreNo.toNat then
        (match mk b (64 * r + k) (BitVec.ofNat 512 (w.load b 64)) (w.hdrOf b) with | some o => place o q | none => q)
      else q
    | _ => q) s.rowOps

/-- The write that a unit behind the program makes of a tile row: the bits `mask` gives and the header, when the writes before it have
landed; it belongs to no segment (R87, R131). -/
def unitRow (i : Sid) (seq : Nat) (mask : Nat → BitVec 512) (b k : Nat) (p : BitVec 512) (h : BitVec 16) : Option RowOp :=
  some ⟨i, k, mask b, p, .fixed h, true, true, 0, seq, none, true⟩

/-- Bytes and headers of memory that an access leaves: those outside the blocks `bs` stand. -/
def KeepsOutside (s t : State) (bs : List Nat) : Prop :=
  ∀ a, blockOf a ∉ bs → t.byte a = s.byte a ∧ t.hdrOf (blockOf a) = s.hdrOf (blockOf a)

/-- Every byte outside `n` bytes at an address, and every header, stands. -/
def KeepsBytes (s t : State) (a n : Nat) : Prop :=
  (∀ x, ¬ (a ≤ x ∧ x < a + n) → t.byte x = s.byte x) ∧ ∀ b, t.hdrOf b = s.hdrOf b

/-- What the word of an operation has made sure of when it issues: its alignment, and the rows of a tile (R39, R97, R98, R174, R182, R185,
R191, R196). -/
def MemOp.sound : MemOp → Bool
  | .tld _ _ sh fmt _ _ _ _ => !shapeBad sh && !shapeMisaligned sh && (fmt != 0xF || verbatimShape sh)
  | .tst _ rows sh fmt _ _ _ _ =>
    !shapeBad sh && !shapeMisaligned sh && (fmt != 0xF || verbatimShape sh) && decide (rows.length ≤ shE1 sh)
  | .voadd a _ => a % 4 == 0
  | .voadd64 a _ => a % 8 == 0
  | .vocas a _ _ => a % 8 == 0
  | .vosax y x _ => y % 64 == 0 && x % 64 == 0
  | .synca a _ => a % 8 == 0
  | .synci a _ => a % 8 == 0
  | .signal a _ => a % 16 == 0
  | .launch r => r % 64 == 0
  | _ => true

/-- Row `b`, column `c` of a converting TLD, from memory `u`: the bits before they are cut to the format's width, and whether the element is
NaN; outside the tensor the pad value (R183, R184, R221). -/
def State.tldElem (u : State) (sh : List W64) (tile fmt rnd : Nat) (seed step : W64) (grp b c : Nat) : Nat × Bool :=
  let sf := shFmt sh
  let (h, x) := match elemPos sh (tileIdx sh c b) with
    | some p => (if sf = 1 then mkHdr sf else u.hdrOf (blockOf (p / 8)), u.memBits p (moveBits sf))
    | none => (mkHdr sf, shPad sh)
  (convElem h sf x fmt rnd (rssWord seed step tile (128 * (4 * grp + b) + c)), elemNan h sf x)

/-- The element of row `b` and column `c` of a tile that a converting TST stores: its bit address, the bits it takes, and whether it is
NaN; none outside the tensor (R183, R185, R221). -/
def tstElem (sh : List W64) (tile rnd : Nat) (seed step : W64) (grp : Nat) (rows : List Row) (b c : Nat) : Option (Nat × Nat × Bool) :=
  match rows[b]?, elemPos sh (tileIdx sh c b) with
  | some r, some p =>
    if c < shE0 sh then
      if shFmt sh = 1 then some (p, elemAt 8 r.payload c, false)
      else
        let x := elemAt (elemBits (hFmt r.h1)) r.payload c
        some (p, convElem r.h1 0 x (shFmt sh) rnd (rssWord seed step tile (128 * (4 * grp + b) + c)), elemNan r.h1 0 x)
    else none
  | _, _ => none

/-- What an operation makes of memory `u` laid out for it, which is `w` afterwards, and the value `v` it brings (R185 to R189, R191
to R193, R196, R217, R221, R357). PUBL and HAND change no byte and no header; pushes and launches act elsewhere. -/
def ActsOn (u w : State) (v : Option W64) (op : MemOp) : Prop :=
  let z (h : BitVec 16) (x : Nat) : Nat := if h = 0 then 0 else x
  match op with
  | .ld ad k => KeepsBytes u w ad 0 ∧
      v = some (let n := [1, 1, 2, 2, 4, 4, 8, 8].getD k 8
        if k = 0 ∨ k = 2 ∨ k = 4 then wrap64 (signedNat (8 * n) (u.load ad n)) else BitVec.ofNat 64 (u.load ad n))
  | .ldh ad => KeepsBytes u w ad 0 ∧ v = some ((u.hdrOf (blockOf ad)).setWidth 64)
  | .tagr ad => KeepsBytes u w ad 0 ∧
      v = some (BitVec.ofNat 64 ((u.hdrOf (blockOf ad)).toNat + 2 ^ 16 * (u.tagOf (blockOf ad)).toNat))
  | .tld .. => KeepsBytes u w 0 0 ∧ v = none
  | .tlda .. => KeepsBytes u w 0 0 ∧ v = none
  | .st ad bs => KeepsBytes u w ad bs.length ∧ ∀ j x, bs[j]? = some x → w.byte (ad + j) = x
  | .sth ad h => (∀ x, w.byte x = u.byte x) ∧ ∀ b, w.hdrOf b = if b = blockOf ad then h else u.hdrOf b
  | .tsta rs ad => KeepsOutside u w (rowBlocks ad rs.length) ∧
      ∀ j (r : Row), rs[j]? = some r →
        w.load (blockOf ad + 64 * j) 64 = r.payload.toNat ∧ w.hdrOf (blockOf ad + 64 * j) = r.h1
  | .tst tile rs sh fmt rnd seed step grp =>
      let at' (b : Nat) : Option Nat := elemPos sh (tileIdx sh 0 b)
      let el := tstElem sh tile rnd seed step grp rs
      let n := moveBits (shFmt sh)
      (fmt = 0xF → (∀ b p, b < rs.length → at' b = some p → p % 512 = 0) →
        ∀ b p (r : Row), rs[b]? = some r → at' b = some p → (∀ c, c < rs.length → c ≠ b → at' c ≠ some p) →
          w.load (p / 8) 64 = r.payload.toNat ∧ w.hdrOf (p / 8) = r.h1) ∧
      (fmt ≠ 0xF → op.sound = true →
        (∀ b c p x d, el b c = some (p, x, d) → (∀ b' c' y e, el b' c' = some (p, y, e) → b' = b ∧ c' = c) →
          w.memBits p n = x % 2 ^ n) ∧
        (∀ a, (∀ b c p x d, el b c = some (p, x, d) → a < p / 8 ∨ (p + n - 1) / 8 < a) → w.byte a = u.byte a) ∧
        (∀ k, (∀ b c p x d, el b c = some (p, x, d) → blockOf (p / 8) ≠ k) → w.hdrOf k = u.hdrOf k) ∧
        (∀ k, shFmt sh ≠ 1 → (∃ b c p x d, el b c = some (p, x, d) ∧ blockOf (p / 8) = k) →
          ((shFmt sh = 2 ∧ ∃ b c p x, el b c = some (p, x, true) ∧ blockOf (p / 8) = k) → w.hdrOf k = 0xFF20) ∧
          (¬ (shFmt sh = 2 ∧ ∃ b c p x, el b c = some (p, x, true) ∧ blockOf (p / 8) = k) → w.hdrOf k = mkHdr (shFmt sh))) ∧
        ∀ k h, shFmt sh = 1 → (∃ b c p x d, el b c = some (p, x, d) ∧ blockOf (p / 8) = k) →
          (∀ b c p x d (r : Row), el b c = some (p, x, d) → blockOf (p / 8) = k → rs[b]? = some r → r.h1 = h) → w.hdrOf k = h)
  | .voadd ad x => ad % 4 = 0 → KeepsOutside u w [blockOf ad] ∧
      let h := u.hdrOf (blockOf ad)
      w.load ad 4 = toF32 ((f32 (z h (u.load ad 4))).add (f32 x.toNat)) ∧
      w.hdrOf (blockOf ad) = (if h = 0 then 0x7F70 else h) ∧
      ∀ y, blockOf y = blockOf ad → ¬ (ad ≤ y ∧ y < ad + 4) → w.byte y = if h = 0 then 0 else u.byte y
  | .voadd64 ad x => ad % 8 = 0 → KeepsOutside u w [blockOf ad] ∧
      let h := u.hdrOf (blockOf ad)
      w.word ad = BitVec.ofNat 64 (z h (u.load ad 8)) + x ∧
      w.hdrOf (blockOf ad) = (if h = 0 then 0x7FC0 else h) ∧
      ∀ y, blockOf y = blockOf ad → ¬ (ad ≤ y ∧ y < ad + 8) → w.byte y = if h = 0 then 0 else u.byte y
  | .vocas ad old new => KeepsBytes u w ad 8 ∧ v = some (u.word ad) ∧ w.word ad = if u.word ad = old then new else u.word ad
  | .vosax y x c => KeepsBytes u w y 64 ∧
      ∀ j, j < 16 → y % 64 = 0 → x % 64 = 0 → w.load (y + 4 * j) 4 =
        toF32 (((f32 c.toNat).mul (elemValue (u.hdrOf x) (u.load (x + 4 * j) 4))).add (f32 (u.load (y + 4 * j) 4)))
  | .synca ad n => KeepsBytes u w ad 8 ∧ w.word ad = (syncAdd (u.word ad) n).1
  | .synci ad tgt => KeepsBytes u w ad 8 ∧ v = none ∧
      (w.word ad).toNat = tgt % 2 ^ 24 + 2 ^ 48 * (((u.word ad).toNat / 2 ^ 48 + (if tgt = 0 then 1 else 0)) % 2 ^ 16)
  | .signal ad st => KeepsBytes u w ad 16 ∧ w.load ad 4 = (u.load ad 4 + 1) % 2 ^ 32 ∧
      (st < 128 → w.load (ad + 4) 1 = 0x80 + st ∧ w.load (ad + 5) 11 = 0)
  | .publ .. => KeepsBytes u w 0 0
  | .hand .. => KeepsBytes u w 0 0
  | .probe _ => KeepsBytes u w 0 0 ∧ v = none
  | .push .. => True
  | .launch .. => True

/-- Does an operation change nothing but memory and tile rows: no push, no launch, and no count that overshoots its target? -/
def MemOp.plain (u : State) : MemOp → Bool
  | .synca ad n => !(syncAdd (u.word ad) n).2
  | .push .. => false
  | .launch .. => false
  | _ => true

/-- A stream whose SAE has no item in flight. -/
def Stream.saeIdle (t : Stream) : Stream := { t with sae := { t.sae with flying := false } }

/-- Openings written to the zone valves of PVF40-P from a state `u`: a write in progress completes first, those that have not begun give
way; a write that begins completes within an eighth of a millisecond. On any other part nothing is written (R377, R378). -/
def WritesValves (u t : State) (openings : List Nat) : Prop :=
  (Config.boardValves = false → t = u) ∧
  (Config.boardValves = true → ∃ c,
    t = { u with
      free := if u.power.i3c = [] then u.free + 1 else u.free
      power := { u.power with
        i3c := u.power.i3c.take 1 ++ openings.zipIdx.map (fun (v, z) => (0x30 + z, v))
        i3cAt := if u.power.i3c = [] then c else u.power.i3cAt } } ∧ u.now < c ∧ c < u.now + 150000)

/-! ### Gangs and contexts (R100, R276, R287, R342 to R352) -/

/-- A completion event is posted in `t` (R97, R287): nothing where the entry is 0; at an awake bank the sequence advances and
status, fault code and count are written; at a bank that sleeps only the black box has it. -/
def Posts (s t : State) (asid : BitVec 12) (entry : Nat) (st : EvStatus) (fault count : Nat) : Prop :=
  if entry = 0 then t.mem = s.mem ∧ t.bb = s.bb
  else if s.bankUp entry then
    KeepsBytes s t entry 16 ∧ t.bb = s.bb ∧ t.load entry 4 = (s.load entry 4 + 1) % 2 ^ 32 ∧
    (fault < 256 → t.load (entry + 4) 1 = st.num ∧ t.load (entry + 5) 1 = fault ∧ t.load (entry + 8) 8 = count % 2 ^ 64)
  else t.mem = s.mem ∧ Logs s t [(0x0112, 0xFFFF, asid.toNat, entry, st.num + fault * 2 ^ 8, count)]

/-- Is a gang that of a plan step? -/
def Gang.of (g : Gang) (p : PlanStep) : Bool := g.step.queue == p.queue && g.step.num == p.num

/-- A step has ended in `t` with a status (R275, R276, R286, R287): its event posts, it leaves its queue and the gangs that run, and
displaced gangs on other cores that now fit come back. -/
def StepEnds (s t : State) (p : PlanStep) (st : EvStatus) (fault count : Nat) : Prop :=
  Posts s t p.asid (rw p.record 7).toNat st fault count ∧ t.results = ((p.queue, p.num), st) :: s.results ∧
  t.queues = s.queues.filter (fun x => !(x.queue == p.queue && x.num == p.num)) ∧
  t.gangs = (State.resumeAway { t with gangs := s.gangs.filter (fun g => !g.of p) }).gangs ∧
  t.headSince = if s.head p.queue = some p then SMap.set 0 s.headSince p.queue 0 else s.headSince

/-- No core is usable, or no Ultra Ethernet port (R365). -/
def Unusable (v : Service) : Prop := (∀ c, c < 512 → (1, c) ∈ v.retired) ∨ (∀ p, p < 4 → (4, p) ∈ v.retired)

/-- A unit has been retired in `t`, and nothing else has happened (R13, R309, R362, R364, R365): it is noted and written to the black box;
a column of this core is at half width; a link's fragments are lost; a healthy device is degraded, one that is unusable FAILED with every
domain asleep. -/
def Retires (s t : State) (u : Nat × Nat) : Prop :=
  let f := s.fabric
  let down := u.2 :: f.linksDown
  t = { s with
    bb := t.bb, bbCount := t.bbCount, halfWidth := s.halfWidth || decide (u = (2, s.coreNo.toNat % 128)), fabric := t.fabric
    service := { s.service with retired := u :: s.service.retired, health := t.service.health }, doms := t.doms, wakeQ := t.wakeQ } ∧
  Logs s t [(0x010F, if u.1 = 1 then u.2 else 0xFFFF, 0, u.1, u.2, 0)] ∧
  t.fabric = (if u.1 = 3 then { f with
    linksDown := down
    queue := f.queue.filter (fun q => f.sent.any (fun x => x.id == q.msg && !(f.pathOf x q.idx).isEmpty &&
      (f.pathOf x q.idx).all (fun l => !down.contains l))) } else f) ∧
  (Unusable t.service → t.service.health = .failed ∧ ∀ d, t.dom d = Dom.off) ∧
  (¬ Unusable t.service → t.service.health = (if s.service.health = .healthy then .degraded else s.service.health) ∧
    t.doms = s.doms ∧ t.wakeQ = s.wakeQ)

/-- Units have been retired, one after the other. -/
def RetiresAll : List (Nat × Nat) → State → State → Prop
  | [], s, t => t = s
  | u :: us, s, t => ∃ m, Retires s m u ∧ RetiresAll us m t

/-- The gang of stream `i` has been discarded in `t` with a status (R288, R342, R352): the stream runs no task and owns no domain,
nothing of it is in flight or saved, and its step has ended. -/
def Discards (s t : State) (i : Sid) (st : EvStatus) : Prop :=
  let k := (s.str i).task
  t.str i = Stream.idle ∧ (∀ d, d < 23 → (t.dom d).owner ≠ some i) ∧ (∀ a ∈ t.accs, a.sid ≠ i) ∧ (∀ c ∈ t.copies, c.sid ≠ i) ∧
  (∀ o ∈ t.rowOps, o.sid ≠ i) ∧ (∀ o ∈ t.maskOps, o.sid ≠ i) ∧ (∀ o ∈ t.xvOps, o.sid ≠ i) ∧ (∀ b ∈ t.busy, b.sid ≠ i) ∧
  (∀ c ∈ t.saved, c.sid ≠ i) ∧ t.results.head? = some ((k.queue, k.stepNo), st) ∧
  ∀ g ∈ t.gangs, ¬ (g.step.queue = k.queue ∧ g.step.num = k.stepNo)

/-- Does the checked memory of a session hold a block (R252)? -/
def Session.checks (x : Session) (b : Nat) : Prop :=
  match areaOf b with | .scratch c _ => x.hasCore c = true | .dram .. => x.frames b = true | _ => False

/-- The phase of one gang slot has advanced in `t`, no other. Where it wraps, every tag of the session's checked memory that names the slot
is FRESH; headers and every other tag stand (R252). -/
def PhaseAdvances (s t : State) (asid : BitVec 12) (g : Nat) : Prop :=
  let named (b : Nat) : Prop := ∃ x ∈ s.sessions, x.asid = asid ∧ x.checks b ∧ ((s.tagOf b).extractLsb' 13 4).toNat = g
  (∀ a h, t.phase a h =
    if a = asid ∧ h = g ∧ s.sessions.any (fun x => x.asid == asid) = true then s.phase asid g + 1 else s.phase a h) ∧
  (s.phase asid g + 1 ≠ 0 → t.lanes = s.lanes) ∧
  (s.phase asid g + 1 = 0 → s.memWf = true → ∀ b, t.hdrOf b = s.hdrOf b ∧ (named b → t.tagOf b = 0) ∧ (¬ named b → t.tagOf b = s.tagOf b))

/-! ### Requests (R332, R333) -/

/-- The resident service has answered a request in `t`, with its kind, id and ASID, a status, a detail and a body. -/
def Answers (s t : State) (kind : Nat) (h : ReqHdr) (status detail : Nat) (body : List Nat) : Prop :=
  t.responses = ⟨kind + 0x80, h.id, h.asid, status, detail, body⟩ :: s.responses

/-- A request is answered and nothing else happens. -/
def OnlyAnswers (s t : State) (kind : Nat) (h : ReqHdr) (status detail : Nat) (body : List Nat) : Prop :=
  Answers s t kind h status detail body ∧ t = { s with responses := t.responses }

/-- A request among the instructions: its kind, its header, the number of its body's bytes where they come with it, and the REFUSED detail
that its own content has, 0 for none (R332, R333). -/
def State.requestOf (s : State) : Instr → Option (Nat × ReqHdr × Option Nat × Nat)
  | .create r => some (1, r.hdr, none, s.createRefusal r)
  | .load r => some (2, r.hdr, some r.object.length,
      if objFields r.object then State.loadRefusal (s.reqSession r.hdr) (r.hdr.flags.getLsbD 0) r.object
      else versionRefusal (r.hdr.flags.getLsbD 0) r.object)
  | .post r => some (3, r.hdr, none, 0)
  | .teardownQueue h _ => some (4, h, none, 0)
  | .teardownSession h => some (4, h, none, 0)
  | .telemetry h => some (5, h, none, 0)
  | .blackbox h => some (6, h, none, 0)
  | .attest h _ => some (7, h, some 64, 0)
  | .diag h _ _ => some (8, h, none, 0)
  | .fwupdate h image => some (9, h, some image.length, 0)
  | .badkind h k body => some (k.toNat, h, some body.length, 0)
  | _ => none

/-- The service runs, and a request of a kind comes as R332 asks: by Reliable Unordered Delivery, from its security association, with a
header that keeps every row and gives the body's length. -/
def State.hears (s : State) (kind : Nat) (h : ReqHdr) (body : Option Nat := none) : Bool :=
  s.serving && h.rud && s.secured h && headerFine kind h body

/-- It is also served: the mode is not tethered. -/
def State.serves (s : State) (kind : Nat) (h : ReqHdr) (body : Option Nat := none) : Bool :=
  s.hears kind h body && s.service.health != .tethered

/-- What every response of tethered mode begins with: the failing stage and its status code (R370). -/
def State.report (s : State) : List Nat := if s.service.health = .tethered then [s.service.stage, s.service.failCode.getD 0] else []

/-- A virtual address lies in a section of an object. -/
def inSections (o : List Byte) (a : Nat) : Prop := ∃ c ∈ objSections o, c.base ≤ a ∧ a < c.base + c.size

end Sys2Proof.Machine
end

