-- ==== Sys2Proof/Certificates/Slice0/Obligations.lean ====
section
/-! DEFINITION. Sys2Proof/Certificates/Slice0/Obligations.lean: what is stated of the model, from the manual's numbered rules.
A word `completes` where `s.ready i` holds: that is a condition on the state and the operands alone (Safety.lean). A statement
about a next state says the whole of it through `Becomes` and its like: what is not named stands as it was. -/

open Sys2Proof Sys2Proof.Machine

/-! ### Encoding -/

/-- Words that the manual works out decode to the instructions they stand for (R82, R87, R101, R109, R111, R116, R124, R139). -/
def Obligations.WorkedWordsDecode : Prop :=
  let g : Guard := ⟨false, 0⟩
  decode .I 0x0403820A = .instr (.add ⟨g, .I, .queue 3, .queue 1 false, .queue 2 true, false⟩) ∧
  decode .J 0x08098585 = .instr (.sub ⟨g, .J, .queue 9, .queue 2 true, .latchA 1, true⟩) ∧
  decode .C 0x041FFFFB = .instr (.br ⟨g, -5⟩) ∧
  decode .C 0x1C03000C = .instr (.seg ⟨g, true, true, 12⟩) ∧
  decode .C 0x18008012 = .instr (.loop ⟨g, .queue 1 false, 1, 2⟩) ∧
  decode .C 0x3403A854 = .instr (.waitr ⟨g, .queue 3, .queue 20 false, .queue 21 false⟩) ∧
  decode .J 0x94039940 = .instr (.shpr ⟨g, .queue 3, 1, 18, true⟩) ∧
  decode .J 0xA4000208 = .instr (.fmac ⟨g, .none, .queue 1 false, .queue 2 false⟩) ∧
  decode .V 0x600C8A04 = .instr (.vsel ⟨g, 6, 4, 5, 0, 1⟩) ∧
  decode .L 0x080813C0 = .instr (.tst ⟨g, 4, 0, 2, false, 0xF, 0⟩) ∧
  decode .C 0 = .nop

/-- A well-formed instruction's word decodes, in its slot, to that instruction, with every operand at every value the encoding
admits (R56 to R79). -/
def Obligations.EncodeThenDecode : Prop :=
  ∀ (i : Instr) (w : W32), i.wf = true → encode i = some w → ∃ m, semOf i = some m ∧ decode m.slot w = .instr i

/-- A word that decodes to an instruction is that instruction's word, and the instruction is well-formed and of its slot: no
bit of an accepted word is dropped, and no word is accepted that the encoding does not admit (R56 to R79). -/
def Obligations.DecodeThenEncode : Prop :=
  ∀ (k : Slot) (w : W32) (i : Instr), decode k w = .instr i →
    i.wf = true ∧ encode i = some w ∧ ∃ m, semOf i = some m ∧ m.slot = k

/-- A step runs the decoded instruction: where no input and no event is due and it is the stream's turn, a bundle of one slot
word that decodes to an instruction, and whose fetch meets no cause, is that instruction's meaning on the machine with the
bundle at issue, followed by the end of the stream's turn; a bundle of several words is what the words decoded from its packet, those
that are no NOP, do together. Arithmetic words of one bundle all read the state before it, pop a queue once, and have their results in
flight in slot order (R6, R18, R19, R21, R47, R51 to R54). -/
def Obligations.StepRunsDecoded : Prop :=
  (∀ (s : State) (sid : Sid) (k : Slot) (i : Instr),
    let pc := (s.str sid).sc.pc
    let h := s.codeWord sid pc.toNat
    s.dueInput = none → s.dead = false → s.dueEvent = none →
    s.turn = (match sid with | .prim => .prim | .sec => .sec) → (sid = .prim → s.holdsPrimary = false) →
    (s.str sid).status = .running → (s.str sid).wait = none → s.early sid = [] →
    maskCount h = 1 → bitAt h (24 + k.idx) = true → decode k (s.codeWord sid (pc.toNat + 1)) = .instr i →
    step s = outMap (match sid with | .prim => afterPrim s | .sec => afterSec s)
      (exec i { s with cur := sid, bundle := ⟨h, pc, BitVec.ofNat 64 (s.seqNext sid pc.toNat)⟩, jump := none })) ∧
  (∀ (s : State) (sid : Sid),
    let pc := (s.str sid).sc.pc
    let read := slotWords ((List.range 16).map (fun n => s.codeWord sid (pc.toNat / 16 * 16 + n))) (pc.toNat % 16)
    let is : List Instr := read.filterMap (fun p => match decode p.1 p.2 with | .instr i => some i | _ => none)
    s.dueInput = none → s.dead = false → s.dueEvent = none →
    s.turn = (match sid with | .prim => .prim | .sec => .sec) → (sid = .prim → s.holdsPrimary = false) →
    (s.str sid).status = .running → (s.str sid).wait = none → s.early sid = [] → 2 ≤ is.length →
    (∀ p ∈ read, decode p.1 p.2 = .nop ∨ ∃ i ∈ is, decode p.1 p.2 = .instr i) ∧
    step s = outMap (match sid with | .prim => afterPrim s | .sec => afterSec s) (.next
      (({ s with cur := sid, bundle := ⟨s.codeWord sid pc.toNat, pc, BitVec.ofNat 64 (s.seqNext sid pc.toNat)⟩
                 jump := none } : State).issueBundle (is.filterMap semOf)))) ∧
  (∀ (s : State) (ws : List (Instr × IA × Nat)), (∀ x ∈ ws, arithWord x.1 = some (x.2.1, x.2.2)) →
    s.passesAll (ws.filterMap (fun x => semOf x.1)) = true →
    let t := s.issueBundle (ws.filterMap (fun x => semOf x.1))
    Becomes s t s (ws.flatMap (fun x => [x.2.1.a, x.2.1.b])) s.me
      (s.me.flights ++ ws.zipIdx.map (fun p =>
        let o := p.1.2.1
        { s.flight o.slot.slot o.d (atBits o.m (arithValue p.1.1) (s.read o.a) (s.read o.b)) p.1.2.2 with seq := s.seq + p.2 })) ∧
    t.seq = s.seq + ws.length)

/-- An input that is due is taken first, an event that is due next, whatever a stream would issue; a device held in reset or
FAILED takes inputs whatever their cycle, and without one stops (R365, R376; the order of a cycle's parts is the model's choice, log 3,
and so is that such a device takes inputs and that its stop is the fault heldInReset, log 47). -/
def Obligations.StepTakesWhatIsDue : Prop :=
  ∀ s : State,
    (∀ i t, s.dueInput = some (i, t) → step s = exec i t) ∧
    (∀ i, s.dueInput = none → s.dead = false → s.dueEvent = some i → step s = exec i s) ∧
    (s.dueInput = none → s.dead = true → step s = .fault .heldInReset)

/-! ### State -/

/-- What reset leaves (R20, R37, R40, R295): no task, every register the manual gives a value at that value. Memory is in
canonical form at reset. -/
def Obligations.ResetState : Prop :=
  (let s := State.reset
   (∀ i, (s.str i).status = .idle ∧ (∀ q, (s.str i).queue q = []) ∧ (∀ k, (s.str i).latchA k = none ∧ (s.str i).latchB k = none) ∧
     (∀ p, p < 16 → (s.str i).sc.preds.getLsbD p = decide (p = 0)) ∧ (s.str i).sc.rb = 0 ∧ (s.str i).sc.link = [] ∧
     (s.str i).sc.loops = [] ∧ (∀ k, (s.str i).port k = none) ∧ (∀ l, (s.str i).sc.level l = SeqLvl.start) ∧
     (s.str i).sc.vrnd = 0 ∧ (s.str i).sc.mrnd = 0 ∧ (s.str i).sc.seed = 0 ∧ (s.str i).sc.step = 0) ∧
   (∀ k, (s.row k).payload = 0 ∧ (s.row k).h1 = 0 ∧ (s.row k).h2 = 0 ∧ (s.row k).crcOk = true) ∧
   (∀ m, SMap.get 0 s.masks m = 0) ∧ (∀ k, s.xv k = Acc.clear) ∧ (∀ b n, s.acc b n = Acc.clear) ∧ s.work1 = false ∧
   (∀ p, s.panelFmt p = 0) ∧ s.active.st = .empty ∧ s.shadow.st = .empty ∧
   (∀ d, (s.dom d).st = .asleep ∧ (s.dom d).owner = none) ∧
   s.window = true ∧ s.strict = false ∧ s.pwrRamp = 0x001C001C ∧ s.cycle = 0 ∧ s.fabLate = 0) ∧
  (State.reset.memWf = true ∧ State.reset.pZero)

/-- The canonical form of memory and of its lanes as every place that holds them keeps it. -/
def Obligations.StepKeepsMemoryCanonical : Prop :=
  ∀ s t : State, s.memWf = true → step s = .next t → t.memWf = true

/-- p0 always reads 1: no step writes it (R27). -/
def Obligations.StepKeepsPredicateZero : Prop := ∀ s t : State, s.pZero → step s = .next t → t.pZero

/-! ### Issue and traps -/

/-- A word whose guard is false leaves the effect of an empty bundle: it reads no source, lands nothing, raises nothing (R46).
An empty bundle issues, ends, and does nothing else (R45, R53, R82 to R89). -/
def Obligations.EmptyBundle : Prop :=
  (∀ (i : Instr) (m : WordSem) (s : State), semOf i = some m → guardHolds m.guard s.me = false → exec i s = exec .emptyBundle s) ∧
  (∀ s : State, s.calm = true → ∃ t, exec .emptyBundle s = .next t ∧ Becomes s t s [] s.me s.me.flights ∧ t.seq = s.seq ∧ t.free = s.free)

/-- Of several causes the one of the lowest rank is reported, then that of the lowest slot, then the first listed (R339). -/
def Obligations.LowestCauseReported : Prop := ∀ (l : List Cause) (c : Cause), pickCause l = some c ↔ Reported l c

/-- A trap record holds what R340 says. -/
def Obligations.TrapRecordFields : Prop := ∀ (s : State) (i : Sid) (c : Cause), RecordOf s i c (s.trapRecord i c)

/-- A word that meets a cause of ranks 6 to 10 at its issue takes the trap of the cause that R339 reports, with none of its
own effect (R338, R339). A stalled word is presented again later and does nothing meanwhile (R32, R47, R128, R175, R381). -/
def Obligations.WordTrapsOrStalls : Prop :=
  (∀ (i : Instr) (m : WordSem) (s : State) (c : Cause), semOf i = some m → s.reaches m = true →
     Reported (s.mainCauses [m]) c → c.rank ≠ 9 → ¬ (c.code = .fabricLoss ∧ c.rank = 11) →
     ∃ t, exec i s = .next t ∧ Traps s t c) ∧
  (∀ (i : Instr) (m : WordSem) (s : State), semOf i = some m → guardHolds m.guard s.me = true → s.me.error = none →
     s.me.wait = none → dueAt [m] s.me = [] → compositionCauses [m] s.me s.bundle.hdr = [] → s.bundleStalls [m] = true →
     ∃ t, exec i s = .next t ∧ t = s.setStr s.cur { s.me with presented := true })

/-- A non-idempotent word outside a commit bundle raises ILLEGAL_BUNDLE at its bundle (R48). A control register of the
privileged range traps with PRIVILEGE, read or written by a task (R36). -/
def Obligations.CommitAndPrivilege : Prop :=
  (∀ (i : Instr) (m : WordSem) (s : State), semOf i = some m → nonIdempotent i = true → guardHolds m.guard s.me = true →
     s.me.error = none → s.me.wait = none → s.me.presented = false → dueAt [m] s.me = [] → s.me.commit = false →
     ∃ t, exec i s = .next t ∧ Traps s t { rank := 5, slot := 0xFF, code := .illegalBundle, aux := s.bundle.hdr.toNat }) ∧
  (∀ s : State, s.calm = true →
     (∀ o : CCR, (Instr.csrr o).wf = true → guardHolds o.g s.me = true → 0x200 ≤ o.idx.toNat →
       ∃ t, exec (.csrr o) s = .next t ∧ Traps s t { rank := 6, slot := 0, code := .privilege, aux := o.idx.toNat }) ∧
     (∀ o : CCW, (Instr.csrw o).wf = true → guardHolds o.g s.me = true → 0x200 ≤ o.idx.toNat → s.srcStalls o.a = false →
       ∃ t, exec (.csrw o) s = .next t ∧ Traps s t { rank := 6, slot := 0, code := .privilege, aux := o.idx.toNat }))

/-- TRAP raises SOFTWARE precisely at its bundle, whose effect is none, with imm16 in the record, also in a delay bundle and in
a loop body; its words have OPC 16 and format CN with n and bit 16 zero (R101). -/
def Obligations.TrapWord : Prop :=
  (∀ (s : State) (o : CNT), s.calm = true → guardHolds o.g s.me = true →
    ∃ t, exec (.trap o) s = .next t ∧ Traps s t { rank := 10, slot := 0, code := .software, aux := o.imm.toNat }) ∧
  (∀ w : W32, bits w 26 6 = 16 → ¬ (bitAt w 25 = true ∧ bits w 21 4 = 0) →
    decode .C w = if bits w 16 5 = 0 then .instr (.trap ⟨⟨bitAt w 25, bits w 21 4⟩, bits w 0 16⟩) else .bad .illegalField) ∧
  decode .C 0x4000002A = .instr (.trap ⟨⟨false, 0⟩, 0x2A⟩)

/-! ### Integer words -/

/-- ADD to MAXN and the divisions land the value of R109 and R110 after its latency: a table over integers, wrapped into 64
bits, or into 32 bits and sign-extended; a zero divisor gives all ones and the remainder its dividend. -/
def Obligations.IntegerArithmetic : Prop :=
  ∀ (i : Instr) (o : IA) (lat : Nat) (s : State), arithWord i = some (o, lat) → s.ready i = true →
    ∃ t, exec i s = .next t ∧
      Lands s t [o.a, o.b] o.slot.slot o.d (atBits o.m (arithValue i) (s.read o.a) (s.read o.b)) lat

/-- CLZ, POPC, MOV, ADDI and the four LDI land their values after 1 cycle (R109, R113, R114). BFX lands a field of its source,
BFI the latch of its own slot with a field replaced; width and position stand in the control word, and a control word the
manual refuses traps (R112). -/
def Obligations.IntegerOtherWords : Prop :=
  (∀ s : State,
     (∀ o : IA1, s.ready (.clz o) = true → ∃ t, exec (.clz o) s = .next t ∧
       let n := if o.m then 32 else 64
       let x := (s.read o.a).toNat % 2 ^ n
       Lands s t [o.a] o.slot.slot o.d (BitVec.ofNat 64 (if x = 0 then n else n - 1 - Nat.log2 x)) 1) ∧
     (∀ o : IA1, s.ready (.popc o) = true → ∃ t, exec (.popc o) s = .next t ∧
       Lands s t [o.a] o.slot.slot o.d
         (BitVec.ofNat 64 ((List.range (if o.m then 32 else 64)).countP (fun k => (s.read o.a).getLsbD k))) 1) ∧
     (∀ o : IA1, s.ready (.mov o) = true → ∃ t, exec (.mov o) s = .next t ∧
       Lands s t [o.a] o.slot.slot o.d
         (if o.m then wrap64 (signedNat 32 ((s.read o.a).toNat % 2 ^ 32)) else s.read o.a) 1) ∧
     (∀ o : II, s.ready (.addi o) = true → ∃ t, exec (.addi o) s = .next t ∧
       Lands s t [o.a] o.slot.slot (.queue o.q) (wrap64 ((s.read o.a).toNat + o.imm.toInt)) 1) ∧
     (∀ o : IL, s.ready (.ldiH0 o) = true → ∃ t, exec (.ldiH0 o) s = .next t ∧
       Lands s t [] o.slot.slot (.queue o.q) (wrap64 o.imm.toInt) 1) ∧
     (∀ o : IL, s.ready (.ldiH1 o) = true → ∃ t, exec (.ldiH1 o) s = .next t ∧
       Lands s t [] o.slot.slot (.queue o.q) (BitVec.ofNat 64 (o.imm.toNat * 2 ^ 16)) 1) ∧
     (∀ o : IL, s.ready (.ldiH2 o) = true → ∃ t, exec (.ldiH2 o) s = .next t ∧
       Lands s t [] o.slot.slot (.queue o.q) (BitVec.ofNat 64 (o.imm.toNat * 2 ^ 32)) 1) ∧
     (∀ o : IL, s.ready (.ldiH3 o) = true → ∃ t, exec (.ldiH3 o) s = .next t ∧
       Lands s t [] o.slot.slot (.queue o.q) (BitVec.ofNat 64 (o.imm.toNat * 2 ^ 48)) 1)) ∧
  (∀ (s : State) (o : IA),
     let b := (s.read o.b).toNat
     let pos := b % 64
     let width := b / 256
     let wide (x : Nat) : W64 := if o.m then wrap64 (signedNat 32 (x % 2 ^ 32)) else BitVec.ofNat 64 x
     let own : Src := .latchA (match o.slot with | .I => 1 | .J => 2)
     (s.ready (.bfx o) = true → ∃ t, exec (.bfx o) s = .next t ∧
       Lands s t [o.a, o.b] o.slot.slot o.d (wide ((s.read o.a).toNat / 2 ^ pos % 2 ^ width)) 1) ∧
     (s.ready (.bfi o) = true → ∃ (v : W64) (t : State), exec (.bfi o) s = .next t ∧ Lands s t [o.a, o.b, own] o.slot.slot o.d (wide v.toNat) 1 ∧
       ∀ k, k < 64 → v.getLsbD k = if pos ≤ k ∧ k < pos + width then (s.read o.a).getLsbD (k - pos) else (s.read own).getLsbD k) ∧
     (s.ready (.bfx o) = true ∨ s.ready (.bfi o) = true →
       1 ≤ width ∧ width ≤ 64 ∧ b / 64 % 4 = 0 ∧ b < 2 ^ 15 ∧ pos + width ≤ (if o.m then 32 else 64)))

/-- LEA.x8 and LEA.x64 land (a + b × 8) and (a + b × 64) modulo 2^64 after 1 cycle; the worked word (R111). -/
def Obligations.LeaWord : Prop :=
  (∀ (s : State) (o : IA), s.ready (.lea o) = true → ∃ t, exec (.lea o) s = .next t ∧
    Lands s t [o.a, o.b] o.slot.slot o.d
      (BitVec.ofNat 64 ((s.read o.a).toNat + (s.read o.b).toNat * (if o.m then 64 else 8))) 1) ∧
  (∀ sl : ISlot, decode sl.slot 0x64038209 =
    .instr (.lea ⟨⟨false, 0⟩, sl, .queue 3, .queue 1 false, .queue 2 false, true⟩)) ∧
  (∀ (sl : ISlot) (w : W32) (o : IA), decode sl.slot w = .instr (.lea o) → bits w 26 6 = 25 ∧ o.m = bitAt w 0)

/-- CMP, PLOG and FCMP write one predicate, as the next bundle sees it, and nothing else (R115, R117, R125). The write to p0 is
discarded (R27). -/
def Obligations.CompareWords : Prop :=
  ∀ s : State,
    (∀ o : IC, s.ready (.cmp o) = true → ∃ t, exec (.cmp o) s = .next t ∧
      WritesPred s t [o.a, o.b] o.pd
        (let a := s.read o.a
         let b := s.read o.b
         [decide (a = b), decide (a ≠ b), decide (a.toInt < b.toInt), decide (a.toInt ≤ b.toInt), decide (a.toNat < b.toNat),
          decide (a.toNat ≤ b.toNat), decide (a &&& b ≠ 0), decide (a &&& b = 0)].getD o.cond.toNat false)) ∧
    (∀ o : FC, s.ready (.fcmp o) = true → ∃ t, exec (.fcmp o) s = .next t ∧
      WritesPred s t [o.a, o.b] o.pd
        (let c := (f32 (s.read o.a).toNat).cmp (f32 (s.read o.b).toNat)
         [decide (c = .eq), decide (c ≠ .eq), decide (c = .lt), decide (c = .lt ∨ c = .eq), decide (c = .gt),
          decide (c = .gt ∨ c = .eq), decide (c = .un), decide (c ≠ .un)].getD o.cond.toNat false))

/-- PLOG reads pa and pb at issue and writes bit 2·pa + pb of its truth table to pd; the common tables; the worked word (R116). -/
def Obligations.PlogWord : Prop :=
  (∀ (s : State) (o : IP), s.ready (.plog o) = true → ∃ t, exec (.plog o) s = .next t ∧
    WritesPred s t [] o.pd (o.tt.getLsbD (2 * (s.me.pred o.pa).toNat + (s.me.pred o.pb).toNat))) ∧
  (∀ a b : Bool, plogBit 0x8 a b = (a && b) ∧ plogBit 0xE a b = (a || b) ∧ plogBit 0x6 a b = (a != b) ∧
    plogBit 0x4 a b = (a && !b) ∧ plogBit 0x3 a b = !a ∧ plogBit 0xC a b = a) ∧
  (∀ sl : ISlot, decode sl.slot 0x6C082500 = .instr (.plog ⟨⟨false, 0⟩, sl, 4, 1, 2, 8⟩)) ∧
  (∀ (sl : ISlot) (w : W32) (o : IP), decode sl.slot w = .instr (.plog o) → bits w 26 6 = 27)

/-! ### Scalar floating point -/

/-- The scalar floating-point words land their correctly rounded FP32 results; FMAC adds the latch l2a (R122 to R124). FCVT
lands each of its eight conversions after 3 cycles, rounded by its own field (R126, R127). -/
def Obligations.ScalarFloatWords : Prop :=
  (∀ (s : State),
     let f (x : Src) : XNum := f32 (s.read x).toNat
     let r (x : XNum) : W64 := BitVec.ofNat 64 (roundTo 7 x 0 false 0)
     (∀ o : FA, s.ready (.fadd o) = true → ∃ t, exec (.fadd o) s = .next t ∧
       Lands s t [o.a, o.b] .J o.d (r ((f o.a).add (f o.b))) 4) ∧
     (∀ o : FA, s.ready (.fsub o) = true → ∃ t, exec (.fsub o) s = .next t ∧
       Lands s t [o.a, o.b] .J o.d (r ((f o.a).add (f o.b).neg)) 4) ∧
     (∀ o : FA, s.ready (.fmul o) = true → ∃ t, exec (.fmul o) s = .next t ∧
       Lands s t [o.a, o.b] .J o.d (r ((f o.a).mul (f o.b))) 4) ∧
     (∀ o : FA, s.ready (.fmac o) = true → ∃ t, exec (.fmac o) s = .next t ∧
       Lands s t [o.a, o.b, .latchA 2] .J o.d (r (((f o.a).mul (f o.b)).add (f (.latchA 2)))) 4) ∧
     (∀ o : FA, s.ready (.fdiv o) = true → ∃ t, exec (.fdiv o) s = .next t ∧
       Lands s t [o.a, o.b] .J o.d (r ((f o.a).div (f o.b))) 14) ∧
     (∀ o : FA1, s.ready (.fsqrt o) = true → ∃ t, exec (.fsqrt o) s = .next t ∧
       Lands s t [o.a] .J o.d (r (f o.a).sqrt) 14) ∧
     (∀ o : FA, s.ready (.fmin o) = true → ∃ t, exec (.fmin o) s = .next t ∧
       Lands s t [o.a, o.b] .J o.d (r ((f o.a).min (f o.b))) 4) ∧
     (∀ o : FA, s.ready (.fmax o) = true → ∃ t, exec (.fmax o) s = .next t ∧
       Lands s t [o.a, o.b] .J o.d (r ((f o.a).max (f o.b))) 4)) ∧
  (∀ (s : State) (o : IF), s.ready (.fcvt o) = true → ∃ t, exec (.fcvt o) s = .next t ∧
     let v := s.read o.a
     let m := o.rnd.toNat
     let low (x : Nat) : W64 := BitVec.ofNat 64 x
     Lands s t [o.a] .J o.d
       ([low (roundTo 7 (.ofInt v.toInt) m false 0),
         wrap64 (roundInt (-(2 ^ 63)) (2 ^ 63 - 1) (f32 v.toNat) m 0),
         low (roundTo 7 (.ofInt (signedNat 32 v.toNat)) m false 0),
         wrap64 (roundInt (-(2 ^ 31)) (2 ^ 31 - 1) (f32 v.toNat) m 0),
         low (roundTo 5 (f32 v.toNat) m false 0), low (roundTo 7 (elemValue 0x7F50 v.toNat) 0 false 0),
         low (roundTo 6 (f32 v.toNat) m false 0), low (roundTo 7 (elemValue 0x7F60 v.toNat) 0 false 0)].getD o.kind.toNat 0) 3)

/-! ### Registers read and written by words -/

/-- Scalar writes that the next bundle sees: CSRW, SHPW, LNCNT and LNSTR change one register or level of their stream and
nothing else (R103, R120, R121, R198). -/
def Obligations.RegisterWrites : Prop :=
  ∀ s : State,
    (∀ o : CCW, (Instr.csrw o).wf = true → s.ready (.csrw o) = true → ∃ t, exec (.csrw o) s = .next t ∧
      let v := s.read o.a
      let c := s.me.sc
      o.idx.toNat < 5 ∧
      WritesScalars s t [o.a]
        [{ c with profile := BitVec.ofNat 4 v.toNat }, { c with vrnd := BitVec.ofNat 3 v.toNat },
         { c with mrnd := BitVec.ofNat 3 v.toNat }, { c with seed := v }, { c with step := v }][o.idx.toNat]?) ∧
    (∀ o : ISW, s.ready (.shpw o) = true → ∃ t sh, exec (.shpw o) s = .next t ∧
      WritesScalars s t [o.a] (some { s.me.sc with shapes := sh }) ∧
      ∀ k, SMap.get 0 sh k =
        if k = 64 * o.sr.toNat + 32 + o.f.toNat then s.read o.a else SMap.get 0 s.me.sc.shapes k) ∧
    (∀ o : XN, s.ready (.lncnt o) = true → ∃ t ls, exec (.lncnt o) s = .next t ∧
      WritesScalars s t [o.a] (some { s.me.sc with levels := ls }) ∧
      ∀ l, SMap.get SeqLvl.start ls l =
        if l = o.l.toNat then { s.me.sc.level l with c := (s.read o.a).toNat } else s.me.sc.level l) ∧
    (∀ o : XS, s.ready (.lnstr o) = true → ∃ t ls, exec (.lnstr o) s = .next t ∧
      WritesScalars s t [o.a, o.b] (some { s.me.sc with levels := ls }) ∧
      ∀ l, SMap.get SeqLvl.start ls l =
        if l = o.l.toNat then
          { s.me.sc.level l with d := o.dim.toNat, u := (s.read o.a).toInt, w := (s.read o.b).toInt }
        else s.me.sc.level l)

/-- Words that read registers: QCNT counts a queue, SHPR reads a shape field, CSRR a control register, MSTAT an accumulator's
status (R36, R103, R118, R120, R171, R226). QDROP discards the entries that stand first in a queue after the bundle's pops,
landed or still in flight; the latch moves of results whose push is discarded stay (R119). What ctl.scratchbase reads for a task without a
bank is the model's choice, log 72. -/
def Obligations.RegisterReads : Prop :=
  (∀ s : State,
     (∀ o : IQC, s.ready (.qcnt o) = true → ∃ t, exec (.qcnt o) s = .next t ∧
       let q := physQ s.me.sc.rb o.q.toNat
       let flying := (s.me.flights.filter (fun f => f.q == some q)).length +
         (s.accs.filter (fun a => a.sid == s.cur && a.q == some q)).length
       Lands s t [] o.slot.slot o.d (BitVec.ofNat 64 ((s.me.queue q).length % 8 + 8 * (flying % 8))) 1) ∧
     (∀ o : ISR, s.ready (.shpr o) = true → ∃ t, exec (.shpr o) s = .next t ∧
       Lands s t [] .J o.d
         (SMap.get 0 s.me.sc.shapes (64 * o.sr.toNat + (if o.shadow then 32 else 0) + o.f.toNat)) 1) ∧
     (∀ o : CCR, s.ready (.csrr o) = true → ∃ v t, exec (.csrr o) s = .next t ∧ Lands s t [] .C o.d v 2 ∧
       let c := s.me.sc
       let k := s.me.task
       (o.idx = 0x000 → v.toNat = c.profile.toNat) ∧ (o.idx = 0x001 → v.toNat = c.vrnd.toNat) ∧
       (o.idx = 0x002 → v.toNat = c.mrnd.toNat) ∧ (o.idx = 0x003 → v = c.seed) ∧ (o.idx = 0x004 → v = c.step) ∧
       (o.idx = 0x100 → v.toNat = k.member.toNat) ∧ (o.idx = 0x101 → v.toNat = k.members.toNat) ∧
       (o.idx = 0x102 → v.toNat = k.gslot.toNat) ∧ (o.idx = 0x103 → v.toNat = (s.phase k.asid k.gslot.toNat).toNat) ∧
       (∀ d, d < 6 → o.idx.toNat = 0x104 + d → v = BitVec.ofNat 64 (k.coord d)) ∧
       (o.idx = 0x10A → v = BitVec.ofNat 64 k.tiles) ∧ (o.idx = 0x10C → v.toNat = s.coreNo.toNat) ∧
       (o.idx = 0x10B → v = BitVec.ofNat 64 (bankBase s.coreNo.toNat (match s.cur with | .prim => 0 | .sec => 16 - k.banks))) ∧
       (o.idx = 0x10D → v = if s.halfWidth then 1 else 0) ∧
       (o.idx = 0x10E → v = BitVec.ofNat 64 (s.fabric.slot + 64 * s.fabric.period)) ∧ (o.idx = 0x10F → v = s.fabLate) ∧
       (o.idx = 0x110 → v = s.cycle) ∧ (o.idx = 0x111 → v.toNat = k.asid.toNat) ∧
       (o.idx = 0x112 → ∀ d, v.getLsbD d = (decide (d < 23) && decide ((s.dom d).owner = some s.cur)))) ∧
     (∀ o : MQ, s.ready (.mstat o) = true → ∃ v t, exec (.mstat o) s = .next t ∧
       LandsIn s t { s with busy := s.busy ++ [⟨s.cur, .mword, s.now + 2⟩] } [] .M o.d v 2 ∧
       let a := s.acc (!s.work1) (64 * o.row.toNat + o.col.toNat)
       v.toNat = a.nan.toNat + 2 * a.pinf.toNat + 4 * a.ninf.toNat + 16 * a.tag.toNat)) ∧
  (∀ (s : State) (o : IQD), s.ready (.qdrop o) = true →
     let q := physQ s.me.sc.rb o.q.toNat
     let here := (s.me.queue q).length
     ∃ t gone m, exec (.qdrop o) s = .next t ∧ gone = ((s.inFlight s.cur q).take (o.n.toNat - here)).map (·.2) ∧
       (∀ p, SMap.get [] m p = if p = q then (s.me.queue q).drop o.n.toNat else s.me.queue p) ∧
       Becomes s t
         { s with accs := s.accs.map (fun a => if a.sid == s.cur && gone.contains a.seq then { a with q := none } else a) } []
         { s.me with sc := { s.me.sc with queues := m } }
         (s.me.flights.map (fun f => if gone.contains f.seq then { f with q := none } else f)) ∧
       t.seq = s.seq ∧ here + (s.inFlight s.cur q).length ≥ o.n.toNat)

/-! ### Control words -/

/-- The branches: the next bundle in sequence becomes the delay bundle of the target; CALL and CALLI push the address of the
bundle after it on the link stack, RET pops it (R55, R81, R82). -/
def Obligations.BranchWords : Prop :=
  ∀ s : State,
    let to' (i : Instr) (srcs : List Src) (target : W64) (link : List W64) : Prop :=
      s.ready i = true → s.me.sc.delay = none → s.me.sc.loops = [] → s.jump = none →
      ∃ t, exec i s = .next t ∧
        WritesScalars s t srcs (some { s.me.sc with delay := some target, link }) ∧
        (t.str s.cur).sc.pc = s.bundle.next ∧ (t.str s.cur).sc.delay = some target ∧ (t.str s.cur).sc.link = link
    let rel (off : BitVec 21) : W64 := BitVec.ofNat 64 ((s.bundle.pc.toNat + 2 ^ 64 + off.toInt).toNat % 2 ^ 56)
    let ret : W64 := BitVec.ofNat 64 (s.seqNext s.cur s.bundle.next.toNat)
    (∀ o : CB, to' (.br o) [] (rel o.off) s.me.sc.link) ∧
    (∀ o : CB, to' (.call o) [] (rel o.off) (ret :: s.me.sc.link)) ∧
    (∀ o : CA, to' (.bri o) [o.a] (s.read o.a) s.me.sc.link) ∧
    (∀ o : CA, to' (.calli o) [o.a] (s.read o.a) (ret :: s.me.sc.link)) ∧
    (∀ o : FG, ∀ a ls, s.me.sc.link = a :: ls → to' (.ret o) [] a ls)

/-- LOOP with a count pushes a level of count + stages − 1 iterations over its body and sets the stage predicates of the
first; LOOP with count 0 goes past its body (R84, R85). SEG ends its segment: latches become invalid, the id is recorded, and
the bundle marks a safe point and a commit bundle to come as its flags say; without C a checkpoint is due, which the next
bundle waits for (R25, R48, R87, R88, R89). -/
def Obligations.LoopAndSeg : Prop :=
  (∀ (s : State) (o : CL), s.ready (.loop o) = true →
     let c := (s.read o.a).toNat
     let last := s.seqAfter s.cur s.bundle.next.toNat (o.len.toNat - 1)
     (c = 0 → ∃ t, exec (.loop o) s = .next t ∧ t.seq = s.seq ∧
       BecomesAs ⟨false, false, false, some (BitVec.ofNat 64 (s.seqNext s.cur last))⟩ s t s [o.a] s.me s.me.flights) ∧
     (c ≠ 0 → ∃ (t : State) (ps : BitVec 16), exec (.loop o) s = .next t ∧
       WritesScalars s t [o.a] (some { s.me.sc with
         loops := ⟨s.bundle.next, BitVec.ofNat 64 last, c + o.stages.toNat - 1, 0, c⟩ :: s.me.sc.loops, preds := ps }) ∧
       (∀ p, p < 8 → ps.getLsbD p = s.me.sc.preds.getLsbD p) ∧
       ∀ k, k < 8 → ps.getLsbD (physP s.me.sc.rb (8 + k)) =
         if k = 0 then true else if k < o.stages.toNat then false else s.me.sc.preds.getLsbD (physP s.me.sc.rb (8 + k)))) ∧
  (∀ (s : State) (o : CS), s.ready (.seg o) = true → ∃ t, exec (.seg o) s = .next t ∧ t.seq = s.seq ∧
     BecomesAs ⟨o.safe, o.commit, o.safe, s.jump⟩ s t s []
       { s.me with la := [], lb := [], segId := o.id, ckptDue := if o.commit then s.me.ckptDue else some s.seq } s.me.flights)

/-- A member alone in its gang completes its barrier, whose phase advances, and its rendezvous, in the cycle they issue; so
does a rendezvous at core scope. That bundle is not counted towards the safe-point distance (R89, R90, R91; that such a bundle
is never counted is the model's reading, log 24). A word whose wait is over as it begins issues in that cycle: WAITG forgets a
recorded overshoot of the span, WAITR lands status, fault code and count of the ring entry, FENCE and KCHK change nothing
(R95, R96, R102, R190). -/
def Obligations.WaitsOverAtOnce : Prop :=
  (∀ s : State,
     (∀ o : CN, s.ready (.rdv o) = true → ∃ t, exec (.rdv o) s = .next t ∧ t.seq = s.seq ∧
       BecomesAs ⟨false, false, true, s.jump⟩ s t s [] s.me s.me.flights) ∧
     (∀ o : CNB, s.ready (.bar o) = true → s.me.task.members.toNat ≤ 1 ∧ s.me.preempt = false ∧
       ∃ t, exec (.bar o) s = .next t ∧ t.seq = s.seq ∧ t.free = s.free ∧
       BecomesAs ⟨false, false, true, s.jump⟩ s t { s with sessions := t.sessions } [] s.me s.me.flights ∧
       t.sessions.map (fun x => { x with phases := [] }) = s.sessions.map (fun x => { x with phases := [] }) ∧
       ∀ a g, t.phase a g =
         if a = s.me.task.asid ∧ g = s.me.task.gslot.toNat ∧ (s.sessions.any (fun x => x.asid == a)) = true then s.phase a g + 1
         else s.phase a g)) ∧
  (∀ s : State,
     (∀ o : CAB, s.ready (.waitg o) = true → ∃ t, exec (.waitg o) s = .next t ∧ t.seq = s.seq ∧
       Becomes s t s [o.a, o.b] { s.me with overshoot := none } s.me.flights ∧
       ((s.word (s.read o.a).toNat).toNat / 2 ^ 48 + 2 ^ 16 - (s.read o.b).toNat % 2 ^ 16) % 2 ^ 16 < 2 ^ 15) ∧
     (∀ o : CDAB, s.ready (.waitr o) = true → ∃ t, exec (.waitr o) s = .next t ∧
       let e := (s.read o.a).toNat
       Lands s t [o.a, o.b] .C o.d (BitVec.ofNat 64 (s.load (e + 4) 2 + 2 ^ 16 * s.load (e + 8) 6)) 2 ∧
       (s.load e 4 + 2 ^ 32 - (s.read o.b).toNat % 2 ^ 32) % 2 ^ 32 < 2 ^ 31) ∧
     (∀ o : LF, s.ready (.fence o) = true → ∃ t, exec (.fence o) s = .next t ∧ t.seq = s.seq ∧
       Becomes s t s [] s.me s.me.flights) ∧
     (∀ o : CK, s.ready (.kchk o) = true → ∃ t, exec (.kchk o) s = .next t ∧ t.seq = s.seq ∧
       Becomes s t s [o.a] s.me s.me.flights ∧
       crc32c 256 (groupPayload s (s.groupKeys o.t.toNat o.grp.toNat 4)) = (s.read o.a).toNat))

/-- WAKE of an asleep domain queues it for this stream behind the other wakes of the pair's queue, and the wakes that may be admitted
are (`Admits`); of a domain of the stream that is awake, waking or queued it does nothing (R93). SLEEP of an awake domain of the
stream ends its ownership at once and loses its contents: masks and vector accumulators, panels, matrix banks and row buffer, ports,
or a bank's bytes, headers and tags; of an asleep domain it does nothing (R94). -/
def Obligations.WakeAndSleep : Prop :=
  (∀ (s : State) (o : CD), s.ready (.wake o) = true →
     let d := o.dom.toNat
     ((s.dom d).st ≠ .asleep → ∃ t, exec (.wake o) s = .next t ∧ Becomes s t s [] s.me s.me.flights ∧ t.seq = s.seq) ∧
     ((s.dom d).st = .asleep → ∃ t u w, exec (.wake o) s = .next t ∧ t.seq = s.seq ∧ t.free = s.free ∧
       u = { s with wakeQ := s.wakeQ ++ [⟨true, d⟩], doms := u.doms } ∧
       (∀ e, u.dom e = if e = d then ⟨.queued, some s.cur, 0, s.now⟩ else s.dom e) ∧ Admits u w ∧
       Becomes s t { s with wakeQ := w.wakeQ, doms := w.doms, power := w.power } [] s.me s.me.flights)) ∧
  (∀ (s : State) (o : CD), s.ready (.sleep o) = true →
     let d := o.dom.toNat
     let base := bankBase s.coreNo.toNat (d - 7)
     let lost (a : Nat) : Prop := 7 ≤ d ∧ base ≤ a ∧ a < base + 0x20000
     ((s.dom d).st ≠ .awake → ∃ t, exec (.sleep o) s = .next t ∧ Becomes s t s [] s.me s.me.flights ∧ t.seq = s.seq) ∧
     ((s.dom d).st = .awake → ∃ t, exec (.sleep o) s = .next t ∧ t.seq = s.seq ∧
       Becomes s t
         { s with wakeQ := s.wakeQ.filter (fun x => !(x.mine && x.dom == d)), doms := t.doms,
                  masks := if d = 0 then [] else s.masks, xvs := if d = 0 then [] else s.xvs,
                  maskOps := if d = 0 then [] else s.maskOps, xvOps := if d = 0 then [] else s.xvOps,
                  prows := t.prows, pfmts := t.pfmts,
                  bank0 := if d = 5 then [] else s.bank0, bank1 := if d = 5 then [] else s.bank1,
                  active := if d = 5 then Half.empty else s.active, shadow := if d = 5 then Half.empty else s.shadow,
                  pass := if d = 5 then none else s.pass, mem := t.mem, lanes := t.lanes, stored := t.stored } []
         { s.me with ports := if d = 6 then [] else s.me.ports } s.me.flights ∧
       (∀ e, t.dom e = if e = d then Dom.off else s.dom e) ∧
       (∀ k, SMap.get PRow.none t.prows k =
         if 1 ≤ d ∧ d ≤ 4 ∧ k / 1024 = d - 1 then PRow.none else SMap.get PRow.none s.prows k) ∧
       (∀ p, t.panelFmt p = if 1 ≤ d ∧ d ≤ 4 ∧ p / 2 = d - 1 then 0 else s.panelFmt p) ∧
       (∀ a, (lost a → t.byte a = 0 ∧ t.lane a = 0 ∧ t.isBad a = false) ∧
         (¬ lost a → t.byte a = s.byte a ∧ t.lane a = s.lane a ∧ t.isBad a = s.isBad a))))

/-- A word that has to wait begins its wait and nothing else of it happens: FSLOT notes its slot, END of a last tile closes the open
window of the scatter-accumulate engine, a commit bundle whose late checks leave the core holds for them until a free cycle, every
other word only notes that it waits (R80, R88, R100, R177, R208). A BAR or RDV that is reached while others are still to come notes
what it waits for; a member alone waits after its BAR for the sweep of its slot, and after its RDV while a pre-emption is pending
(R90, R91, R252, R344). -/
def Obligations.WaitsBegin : Prop :=
  (∀ (i : Instr) (m : WordSem) (s : State), semOf i = some m → s.dallies i = true →
    let afar : Bool := s.checksAfar [m]
    ∃ t c, exec i s = .next t ∧ s.now < c ∧
      let w : Stream := { s.me with presented := true, wait := some .other, lateAt := if afar then some c else none }
      t = (if afar then { s with free := s.free + 1 } else s).setStr s.cur
        (match i with
         | .bar _ => { w with wait := some .arriving }
         | .rdv _ => { w with wait := some .arriving }
         | .fslot o => { w with fslot := some o.slot.toNat }
         | .endTask _ =>
             if s.me.task.tixEnd ≤ s.me.task.tix + 1 ∧ ¬ (s.me.sae.opened = [] ∧ s.me.sae.subs = []) then
               { w with sae := { s.me.sae with subs := s.me.sae.subs ++ [.close none ⟨s.seq, hdrScope s.bundle.hdr⟩] } }
             else w
         | _ => w)) ∧
  (∀ s : State,
    let w : Stream := { s.me with presented := true, lateAt := none }
    (∀ o : CNB, s.meets (.bar o) = true → ∃ t, exec (.bar o) s = .next t ∧
      (¬ (s.me.task.members.toNat ≤ 1 ∧ s.me.preempt = false) → t = s.setStr s.cur { w with wait := some (.bar o.n.toNat) }) ∧
      (s.me.task.members.toNat ≤ 1 → s.me.preempt = false →
        t.setStr s.cur s.me = { s with sessions := t.sessions, lanes := t.lanes, free := t.free } ∧ t.me = { w with wait := some .released } ∧
        PhaseAdvances s t s.me.task.asid s.me.task.gslot.toNat ∧
        ∃ x ∈ t.sessions, x.asid = s.me.task.asid ∧ ∃ c, (s.me.task.gslot.toNat, c) ∈ x.sweeps)) ∧
    (∀ o : CN, s.meets (.rdv o) = true → ∃ t, exec (.rdv o) s = .next t ∧
      let x : Wait := if hdrScope s.bundle.hdr = 0 ∨ s.me.task.members.toNat ≤ 1 then .solo else .rdv o.n.toNat o.id.toNat
      t = s.setStr s.cur { w with wait := some x }))

/-- A word that waits and whose wait has ended issues with the effect it has without a wait: BAR and RDV that are complete, a BAR of
a member alone at the end of its release, with the phase advanced, WAITG, WAITR, FENCE, FSLOT at its slot, SEG (R80, R87, R90, R91,
R95, R96, R190, R208). -/
def Obligations.WaitsEnd : Prop :=
  ∀ s : State,
    let done (i : Instr) (m : Mark) (srcs : List Src) (a : Stream) : Prop :=
      s.rouses i = true → ∃ t, exec i s = .next t ∧ BecomesAs m s t s srcs a s.me.flights ∧ t.seq = s.seq
    let plain : Mark := ⟨false, false, false, s.jump⟩
    (∀ o, s.me.arrived = true → done (.bar o) { plain with fresh := true } [] s.me) ∧
    (∀ o, s.me.arrived = false → s.rouses (.bar o) = true → ∃ t, exec (.bar o) s = .next t ∧ t.seq = s.seq ∧
      BecomesAs { plain with fresh := true } s t { s with sessions := t.sessions } [] s.me s.me.flights ∧
      PhaseAdvances s t s.me.task.asid s.me.task.gslot.toNat) ∧
    (∀ o, done (.rdv o) { plain with fresh := true } [] s.me) ∧
    (∀ o, done (.waitg o) plain [o.a, o.b] { s.me with overshoot := none }) ∧ (∀ o, done (.fence o) plain [] s.me) ∧
    (∀ o, done (.fslot o) plain [] s.me ∧ (s.rouses (.fslot o) = true → s.me.fslot = none)) ∧
    (∀ o : CDAB, s.rouses (.waitr o) = true → ∃ t, exec (.waitr o) s = .next t ∧
      let e := (s.read o.a).toNat
      Lands s t [o.a, o.b] .C o.d (BitVec.ofNat 64 (s.load (e + 4) 2 + 2 ^ 16 * s.load (e + 8) 6)) 2) ∧
    (∀ o, done (.seg o) ⟨o.safe, o.commit, o.safe, s.jump⟩ []
      { s.me with la := [], lb := [], segId := o.id, ckptDue := if o.commit then s.me.ckptDue else some s.seq })

/-- END: with another tile in the member's slice the stream goes to the task's entry with the coordinate advanced, queues,
latches, predicates, rotation (whatever the bundle's ROT), loops and links afresh, everything else carried over, a checkpoint due;
after the last tile every domain of the stream sleeps, its tiles and banks are released with what its engines had still to land, and
the member is finished (R100; that a tile's first bundle is a segment entry is the model's reading, log 12, that its segment id is 0 log
91, that row writes and engine marks in flight are dropped at the last END log 88). -/
def Obligations.EndWord : Prop :=
  ∀ (s : State) (o : FG), (s.ready (.endTask o) = true ∨ s.rouses (.endTask o) = true) →
    let sc : Scalars := { s.me.sc with queues := [], preds := 1, rb := 0, link := [], loops := [], safeCount := 0, delay := none }
    let k := s.me.task
    let b : Stream := { s.me with
      la := [], lb := [], sc, commit := false, atSafe := s.me.commit && s.me.safeC, safeC := false, ord := s.me.ord + 1,
      progress := s.me.progress + 1, presented := false, wait := none, lateAt := none, unsampled := false, resumed := false }
    (k.tix + 1 < k.tixEnd → ∃ t, exec (.endTask o) s = .next t ∧
      t = { s with jump := none }.setStr s.cur { b with
        task := { k with tix := k.tix + 1, ended := k.ended + 1 }, segId := 0, ckptDue := some s.seq, sc := { sc with pc := k.entry } }) ∧
    (k.tixEnd ≤ k.tix + 1 → ∃ t pc, exec (.endTask o) s = .next t ∧
      let u : State := { s with rowOps := s.rowOps.filter (fun r => r.sid != s.cur), busy := s.busy.filter (fun x => x.sid != s.cur) }
      t.me = { b with
        status := .finished, task := { k with ended := k.ended + 1, tiles := 0, banks := 0 }, sc := { sc with pc },
        ports := if (s.dom 6).owner = some s.cur then [] else s.me.ports
        ckptDue := if s.me.commit then some s.seq else s.me.ckptDue } ∧
      t = { (u.sleepAll s.cur) with jump := none }.setStr s.cur t.me ∧
      ∀ d, d < 23 → (s.dom d).owner = some s.cur → t.dom d = Dom.off)

/-! ### Vector words -/

/-- Every word that writes the lanes of a row group: an active lane takes the value of the table `laneOp`, an inactive lane keeps
its bits, a row with active lanes takes its header and CRC, all at the word's landing (R128 to R145, R151). -/
def Obligations.VectorLanes : Prop :=
  ∀ (i : Instr) (w : LaneOp) (s : State), laneOp s i = some w → s.ready i = true →
    ∃ t ops, exec i s = .next t ∧ t.seq = s.seq + 1 ∧
      Becomes s t { s with rowOps := s.rowOps ++ ops, busy := s.busy ++ [⟨s.cur, .vw, s.now + w.lat⟩] } w.srcs s.me s.me.flights ∧
      RowsLand s ops 4 (fun r => s.rowKey s.cur w.td.toNat (4 * w.grp.toNat + r)) w.lat w.rowOk

/-- A narrowing VCVT writes a run of 64 elements of the target's width at its slice of the group, each rounded once; the rows of
the run take the target's header, for E2M1 marked NaN where a source lane of either slice is NaN (R141 to R143). VHDR writes
four headers and neither payload nor CRC (R154). -/
def Obligations.NarrowingAndHeaders : Prop :=
  ∀ s : State,
    (∀ o : WC, vcvtNarrow o.fmt = true → vcvtOk o.fmt o.slice o.sat = true → s.ready (.vcvt o) = true →
      let w := elemBits o.fmt.toNat
      let per := 512 / w
      let f (l : Nat) : XNum := s.laneF o.ta.toNat o.grp.toNat l
      let nan := (List.range 64).any (fun l => f l == .nan)
      let val (l : Nat) : Nat := roundTo o.fmt.toNat (f l) (if o.sto then 5 else s.me.sc.vrnd.toNat) o.sat
        (rssWord s.me.sc.seed s.me.sc.step o.td.toNat (64 * o.grp.toNat + l))
      let head (old : BitVec 16) : BitVec 16 :=
        if o.fmt ≠ 2 then mkHdr o.fmt.toNat
        else if nan then 0xFF20
        else if o.slice.toNat % 2 = 1 ∧ old.extractLsb' 0 8 = 0x20 then old else 0x7F20
      ∃ t ops, exec (.vcvt o) s = .next t ∧ t.seq = s.seq + 1 ∧
        Becomes s t { s with rowOps := s.rowOps ++ ops, busy := s.busy ++ [⟨s.cur, .vw, s.now + 4⟩] } [] s.me s.me.flights ∧
        RowsLand s ops (max (64 / per) 1)
          (fun r => s.rowKey s.cur o.td.toNat (4 * o.grp.toNat + 64 * o.slice.toNat / per + r)) 4
          (fun r old new => new.takes (head old.h1) (head old.h2) ∧
            ∀ j, j < per →
              let e := per * (64 * o.slice.toNat / per + r) + j
              elemAt w new.payload j =
                if 64 * o.slice.toNat ≤ e ∧ e < 64 * o.slice.toNat + 64 then val (e - 64 * o.slice.toNat)
                else elemAt w old.payload j)) ∧
    (∀ o : WHW, s.ready (.vhdrWrite o) = true →
      ∃ t ops, exec (.vhdrWrite o) s = .next t ∧ t.seq = s.seq + 1 ∧
        Becomes s t { s with rowOps := s.rowOps ++ ops, busy := s.busy ++ [⟨s.cur, .vw, s.now + 1⟩] } [o.a] s.me s.me.flights ∧
        RowsLand s ops 4 (fun r => s.rowKey s.cur o.t.toNat (4 * o.grp.toNat + r)) 1
          (fun r old new => let h := (s.read o.a).extractLsb' (16 * r) 16
            new = { old with h1 := h, h2 := h }))

/-- Words that write a lane mask, at their landing: VCMP and VCMPS a bit for each active lane that meets the condition under the
class of the source group, VMSK a truth table of two masks, VMSKQ a source (R115, R125, R130, R138, R152, R153). -/
def Obligations.VectorMasks : Prop :=
  ∀ s : State,
    let lands (i : Instr) (srcs : List Src) (m : BitVec 3) (lat : Nat) (b : Nat → Bool) : Prop :=
      s.ready i = true → ∃ (t : State) (v : W64), exec i s = .next t ∧ t.seq = s.seq + 1 ∧
        Becomes s t { s with maskOps := s.maskOps ++ [⟨s.cur, m.toNat, v, s.now + lat, s.seq⟩],
                             busy := s.busy ++ [⟨s.cur, .vw, s.now + lat⟩] } srcs s.me s.me.flights ∧
        ∀ l, l < 64 → v.getLsbD l = b l
    let isF (t g : BitVec 4) : Bool := (s.heads t.toNat g.toNat).all (fun h => hFmt h == 7 && hSigma h == 0)
    let c32 (c : BitVec 3) (a b : BitVec 32) : Bool :=
      [decide (a = b), decide (a ≠ b), decide (a.toInt < b.toInt), decide (a.toInt ≤ b.toInt), decide (a.toNat < b.toNat),
       decide (a.toNat ≤ b.toNat), decide (a &&& b ≠ 0), decide (a &&& b = 0)].getD c.toNat false
    (∀ o : VC, lands (.vcmp o) [] o.md 4 (fun l => (s.mask o.mask.toNat).getLsbD l &&
      if isF o.ta o.grp then fcmpCond o.cond ((s.laneF o.ta.toNat o.grp.toNat l).cmp (s.laneF o.tb.toNat o.grp.toNat l))
      else c32 o.cond (s.laneBits o.ta.toNat o.grp.toNat l) (s.laneBits o.tb.toNat o.grp.toNat l))) ∧
    (∀ o : VCS, lands (.vcmps o) [o.a] o.md 4 (fun l =>
      if isF o.ta o.grp then fcmpCond o.cond ((s.laneF o.ta.toNat o.grp.toNat l).cmp (f32 (s.read o.a).toNat))
      else c32 o.cond (s.laneBits o.ta.toNat o.grp.toNat l) ((s.read o.a).setWidth 32))) ∧
    (∀ o : WM, lands (.vmsk o) [] o.md 1 (fun l => o.tt.getLsbD
      (2 * ((s.mask o.ma.toNat).getLsbD l).toNat + ((s.mask o.mb.toNat).getLsbD l).toNat))) ∧
    (∀ o : WQT, lands (.vmskqToMask o) [o.a] o.k 1 (fun l => (s.read o.a).getLsbD l))

/-- W words with a scalar result: the reductions, the drain of a vector accumulator, a mask, the four headers of a group
(R146, R147, R149, R153, R154). VDOT adds the products of the active lanes to a vector accumulator, exactly under profile 1,
as two K-blocks under profile 2; value, flags and tag land together 8 cycles later, behind the VDOTs in flight to the same
accumulator (R148, R230, R232; that it adds to what those leave is the model's reading, log 74). VXCLR clears one at once; the
others stand, and the first write of a segment is journaled (R133, R149). -/
def Obligations.VectorScalars : Prop :=
  (∀ s : State,
     let in' (lat : Nat) : State := { s with busy := s.busy ++ [⟨s.cur, .vw, s.now + lat⟩] }
     (∀ o : WR, s.ready (.vrdx o) = true → ∃ t, exec (.vrdx o) s = .next t ∧
       let on : List Nat := (List.range 64).filter (fun l => (s.mask o.mask.toNat).getLsbD l)
       let f (l : Nat) : XNum := s.laneF o.ta.toNat o.grp.toNat l
       let n (l : Nat) : Int := (s.laneBits o.ta.toNat o.grp.toNat l).toInt
       let sum : XNum := if s.profile = 2 then (Acc.clear.addStep [(on.filter (· < 32)).map f, (on.filter (32 ≤ ·)).map f]).drainValue
         else exactSum (on.map f)
       LandsIn s t (in' 10) [] .W o.d
         (match o.op.toNat with
          | 0 => BitVec.ofNat 64 (roundTo 7 sum 0 false 0)
          | 1 => BitVec.ofNat 64 (roundTo 7 ((on.map f).foldl XNum.max (.inf true)) 0 false 0)
          | 2 => BitVec.ofNat 64 (roundTo 7 ((on.map f).foldl XNum.min (.inf false)) 0 false 0)
          | 3 => wrap64 (on.map n).sum
          | 4 => wrap64 ((on.map n).foldl max (-(2 ^ 31)))
          | _ => wrap64 ((on.map n).foldl min (2 ^ 31 - 1))) 10) ∧
     (∀ o : WX, s.ready (.vxdrn o) = true → ∃ (t : State) (x : SMap Acc), exec (.vxdrn o) s = .next t ∧
       t.seq = s.seq + 1 ∧
       Becomes s t { in' 12 with xvs := x } []
         { s.me with journal := if o.clr then s.me.journaled (.xv o.xv.toNat (s.xv o.xv.toNat)) else s.me.journal }
         (s.me.flights ++ [s.flight .W o.d (BitVec.ofNat 64 (roundTo 7 (s.xv o.xv.toNat).drainValue o.rnd.toNat false 0)) 12]) ∧
       (∀ k, SMap.get Acc.clear x k = if o.clr = true ∧ k = o.xv.toNat then Acc.clear else s.xv k)) ∧
     (∀ o : WQF, s.ready (.vmskqFromMask o) = true → ∃ t, exec (.vmskqFromMask o) s = .next t ∧
       LandsIn s t (in' 1) [] .W o.d (s.mask o.k.toNat) 1) ∧
     (∀ o : WHR, s.ready (.vhdrRead o) = true → ∃ (t : State) (v : W64), exec (.vhdrRead o) s = .next t ∧
       LandsIn s t (in' 1) [] .W (.queue o.q) v 1 ∧
       ∀ r, r < 4 → v.extractLsb' (16 * r) 16 = s.laneHead o.t.toNat o.grp.toNat (16 * r))) ∧
  (∀ s : State,
     (∀ o : WD, s.ready (.vdot o) = true →
       let k := o.xv.toNat
       let on : List Nat := (List.range 64).filter (fun l => (s.mask o.mask.toNat).getLsbD l)
       let p (l : Nat) : XNum := (s.laneF o.ta.toNat o.grp.toNat l).mul (s.laneF o.tb.toNat o.grp.toNat l)
       let old : Acc := (((s.xvOps.filter (fun x => x.xv == k)).getLast?).map (·.val)).getD (s.xv k)
       ∃ (t : State) (a : Acc), exec (.vdot o) s = .next t ∧ t.seq = s.seq + 1 ∧
         (if s.profile = 2 then a = { old.addStep [(on.filter (· < 32)).map p, (on.filter (32 ≤ ·)).map p] with tag := 2 }
          else old.addExact (on.map p) = some a) ∧
         Becomes s t { s with
             xvOps := s.xvOps ++ [⟨s.cur, k, a, s.now + 8, s.seq⟩]
             busy := s.busy ++ [⟨s.cur, .vw, s.now + 8⟩, ⟨s.cur, .xv k, s.now + 8⟩] } [] s.me s.me.flights) ∧
     (∀ o : WXC, s.ready (.vxclr o) = true → ∃ t, exec (.vxclr o) s = .next t ∧ t.seq = s.seq ∧
       Becomes s t { s with xvs := t.xvs, busy := s.busy ++ [⟨s.cur, .vw, s.now + 1⟩] } []
         { s.me with journal := s.me.journaled (.xv o.xv.toNat (s.xv o.xv.toNat)) } s.me.flights ∧
       ∀ k, t.xv k = if k = o.xv.toNat then Acc.clear else s.xv k))

/-! ### Matrix words -/

/-- MBLD loads k rows of a panel from four tile rows: 64 elements of the rows' format each, 32 / width of them from the row that
the position names; a new format makes every other row of the panel NONE (R157, R158). MPUSH begins to fill the shadow half with
16 tile rows (R159). -/
def Obligations.MatrixFeed : Prop :=
  ∀ s : State,
    (∀ o : MB, s.ready (.mbld o) = true →
      let p := o.panel.toNat
      let src (r : Nat) : Row := s.row (s.rowKey s.cur o.t.toNat (4 * o.grp.toNat + r))
      let f := hFmt (src 0).h1
      let w := elemBits f
      let first := 512 * p + o.pos.toNat * (32 / w)
      let written (k : Nat) : Prop := first ≤ k ∧ k < first + 32 / w
      let cleared (k : Nat) : Prop := k / 512 = p ∧ s.panelFmt p ≠ f
      ∃ (t : State) (j : List JEntry), exec (.mbld o) s = .next t ∧ t.seq = s.seq ∧
        Becomes s t { s with prows := t.prows, pfmts := t.pfmts, busy := s.busy ++ [⟨s.cur, .panel p, s.now + 2⟩] } []
          { s.me with journal := j } s.me.flights ∧
        (∀ q, t.panelFmt q = if q = p then f else s.panelFmt q) ∧
        (∀ k, let new := SMap.get PRow.none t.prows k
          (written k → new.elems.toNat < 2 ^ (64 * w) ∧ new.hdr = (src ((k - first) * w / 8)).h1 ∧
            ∀ n, n < 64 → field new.elems.toNat (w * n) w =
              let e := 64 * (k - first) + n
              elemAt w (src (e / (512 / w))).payload (e % (512 / w))) ∧
          (¬ written k → new = if cleared k then PRow.none else SMap.get PRow.none s.prows k)) ∧
        Journals s.me.journal j (fun e =>
          (∃ k, (written k ∨ (cleared k ∧ ∃ r, (k, r) ∈ s.prows)) ∧ e = .panelRow k (SMap.get PRow.none s.prows k)) ∨
          (s.panelFmt p ≠ f ∧ e = .panelFmt p (s.panelFmt p)))) ∧
    (∀ o : MT, s.ready (.mpush o) = true →
      let rows := (List.range 16).map (fun r => s.row (s.rowKey s.cur o.t.toNat (4 * o.grp.toNat + r)))
      ∃ t, exec (.mpush o) s = .next t ∧ t.seq = s.seq ∧
        Becomes s t
          { s with busy := s.busy ++ [⟨s.cur, .mword, s.now + 3⟩],
                   shadow := { st := .filling, rows := rows.map (fun r => (r.payload, r.h1)), fmt := hFmt ((rows.headD Row.start).h1),
                               counter := 0, prof := 0, readyAt := s.now + 3, bad := none } } []
          { s.me with journal := s.me.journaled (.rowBuf s.active s.shadow s.pass) } s.me.flights)

/-- The end of an open profile-2 pass adds its K-blocks to the accumulators of its row group in increasing k, each rounded to
FP32 as it is added, and closes it; no other accumulator changes (R163, R232, R233). MSHIFT takes a plane without multiplying:
the counter of the active half advances, or the full shadow half is promoted; plane 0 under profile 2 opens a pass, a promotion and
the last plane end an open one (R162, R163). -/
def Obligations.PassEndsAndPlanes : Prop :=
  (∀ (s : State) (p : Pass), s.pass = some p →
     s.endPass.pass = none ∧ s.endPass.work1 = s.work1 ∧
     (∀ panel xg, p.panel = some (panel, xg) →
       (∀ b n, s.endPass.acc b n =
         if b = s.work1 ∧ 256 * xg ≤ n ∧ n < 256 * xg + 256 then
           let e := n - 256 * xg
           { (List.range 16).foldl (fun (a : Acc) k => a.addBlock (SMap.get 0 p.sums (16 * e + k)))
               ((s.acc b n).orFlags (SMap.get 0 p.flags e)) with tag := 2 }
         else s.acc b n) ∧
       ∃ due, s.now + 6 ≤ due ∧ s.endPass.busy = s.busy ++ [⟨s.cur, .work xg, due⟩]) ∧
     (p.panel = none → s.endPass = { s with pass := none })) ∧
  (∀ (s : State) (o : MKS), s.ready (.mshift o) = true →
     let promote := !s.active.hasPlane
     let h := if promote then s.shadow else s.active
     let last := !decide (h.counter + 1 < planesOf h.fmt)
     let before := if promote then s.endPass else s
     let u := if promote || last then s.endPass else s
     ∃ (t : State) (j : List JEntry) (m : List Busy), exec (.mshift o) s = .next t ∧ t.seq = s.seq ∧
       t.pass = (if last then none
         else if s.profile = 2 ∧ h.counter = 0 ∧ before.pass = none then some ⟨none, [], []⟩ else before.pass) ∧
       (∀ b n, t.acc b n = u.acc b n) ∧ h.st = .full ∧
       Becomes s t { s with active := { h with counter := h.counter + 1 }, shadow := if promote then Half.empty else s.shadow,
                            pass := t.pass, bank0 := t.bank0, bank1 := t.bank1,
                            busy := s.busy ++ [⟨s.cur, .mword, s.now + 1⟩] ++ m } []
         { s.me with journal := j } s.me.flights ∧
       (s.pass = none → m = [] ∧ j = s.me.journaled (.rowBuf s.active s.shadow s.pass)))

/-- A beat of MACC under profile 1 takes one plane of the active half, or promotes the full shadow half and takes its first,
and adds, exactly, that plane's products with the panel's rows to the 256 accumulators of its row group; a promotion ends an
open pass first (R161, R163, R227). A beat of MACC under profile 2 holds its terms in the open pass, or opens one, as exact
sums per accumulator and K-block; the accumulators of the row group take tag 2, and the pass ends with the half's last plane
(R163, R232, R233; the tag is set beat by beat, log 28). -/
def Obligations.MaccBeats : Prop :=
  (∀ (s : State) (o : MK), s.ready (.macc o) = true → s.profile ≠ 2 →
     let promote := !s.active.hasPlane
     let h := if promote then s.shadow else s.active
     let before := if promote then s.endPass else s
     let xg := o.xg.toNat
     ∃ (t : State) (j : List JEntry) (m : List Busy), exec (.macc o) s = .next t ∧ t.seq = s.seq ∧
       Becomes s t { s with active := { h with counter := h.counter + 1, prof := s.profile },
                            shadow := if promote then Half.empty else s.shadow
                            pass := if h.counter + 1 < planesOf h.fmt ∨ (before.pass.bind (·.panel)).isSome = true then before.pass
                              else none
                            bank0 := t.bank0, bank1 := t.bank1, busy := s.busy ++ m } []
         { s.me with journal := j } s.me.flights ∧
       (∀ b ∈ m, b.sid = s.cur ∧ s.now + 6 ≤ b.due) ∧ (∀ u ∈ [Machine.Unit.mword, .panelUse o.panel.toNat, .work xg], ∃ b ∈ m, b.unit = u) ∧
       (∀ b n, if b = s.work1 ∧ 256 * xg ≤ n ∧ n < 256 * xg + 256 then
           (s.acc b n).addExact ((beatTerms h (s.panelRows o.panel.toNat) h.counter ((n - 256 * xg) / 64) (n % 64)).map (·.2)) =
             some (t.acc b n)
         else t.acc b n = before.acc b n) ∧
       h.st = .full ∧ (promote = false → h.counter < planesOf h.fmt) ∧
       (promote = false ∨ s.pass = none → Journals s.me.journal j (fun e =>
         e = .rowBuf s.active s.shadow s.pass ∨ ∃ n, 256 * xg ≤ n ∧ n < 256 * xg + 256 ∧ e = s.accItem n))) ∧
  (∀ (s : State) (o : MK), s.ready (.macc o) = true → s.profile = 2 →
     let promote := !s.active.hasPlane
     let h := if promote then s.shadow else s.active
     let before := if promote then s.endPass else s
     let xg := o.xg.toNat
     let p0 := (before.pass).getD ⟨none, [], []⟩
     let terms (e : Nat) : List (Nat × XNum) := beatTerms h (s.panelRows o.panel.toNat) h.counter (e / 64) (e % 64)
     ∃ (v t : State) (p : Pass) (j : List JEntry) (m : List Busy), exec (.macc o) s = .next t ∧ t.seq = s.seq ∧
       (∀ e b, e < 256 → b < 16 → SMap.get 0 p.sums (16 * e + b) = SMap.get 0 p0.sums (16 * e + b) +
         (((terms e).filter (fun x => x.1 / 32 == b)).map (fun x => sumUnits [x.2])).sum) ∧
       p.panel = some (o.panel.toNat, xg) ∧
       v.pass = some p ∧ v.work1 = s.work1 ∧
       (∀ b n, v.acc b n = if b = s.work1 ∧ 256 * xg ≤ n ∧ n < 256 * xg + 256 then { before.acc b n with tag := 2 }
         else before.acc b n) ∧
       (let last := planesOf h.fmt ≤ h.counter + 1
        let u := if last then v.endPass else v
        t.pass = (if last then none else some p) ∧ (∀ b n, t.acc b n = u.acc b n)) ∧
       (promote = false ∨ s.pass = none → Journals s.me.journal j (fun e =>
         e = .rowBuf s.active s.shadow s.pass ∨ ∃ n, 256 * xg ≤ n ∧ n < 256 * xg + 256 ∧ e = s.accItem n)) ∧
       Becomes s t { s with active := { h with counter := h.counter + 1, prof := 2 },
                            shadow := if promote then Half.empty else s.shadow, pass := t.pass,
                            bank0 := t.bank0, bank1 := t.bank1, busy := s.busy ++ m } []
         { s.me with journal := j } s.me.flights)

/-- MSWAP exchanges the working and the visible bank, at once or when its wait ends; MCLR clears a row group of the working
bank and nothing else of the banks (R164, R165). MFILL adds 16 records to accumulators of the working bank and keeps the M
engine for a second cycle (R170, R235). -/
def Obligations.MatrixBanks : Prop :=
  (∀ s : State,
     (∀ o : FG, s.ready (.mswap o) = true ∨ s.rouses (.mswap o) = true → ∃ t, exec (.mswap o) s = .next t ∧ t.seq = s.seq ∧
       Becomes s t { s with work1 := !s.work1, busy := s.busy ++ [⟨s.cur, .mword, s.now⟩] } []
         { s.me with journal := s.me.journaled (.bank s.work1) } s.me.flights) ∧
     (∀ o : MKX, s.ready (.mclr o) = true →
       let xg := o.xg.toNat
       let hit (b : Bool) (n : Nat) : Prop := b = s.work1 ∧ 256 * xg ≤ n ∧ n < 256 * xg + 256
       ∃ (t : State) (j : List JEntry), exec (.mclr o) s = .next t ∧ t.seq = s.seq ∧
         Becomes s t { s with bank0 := t.bank0, bank1 := t.bank1,
                              busy := s.busy ++ [⟨s.cur, .mword, s.now + 1⟩, ⟨s.cur, .work xg, s.now + 1⟩] } []
           { s.me with journal := j } s.me.flights ∧
         (∀ b n, (hit b n → t.acc b n = Acc.clear) ∧ (¬ hit b n → t.acc b n = s.acc b n)) ∧
         Journals s.me.journal j (fun e => ∃ n, hit s.work1 n ∧ e = s.accItem n))) ∧
  (∀ (s : State) (o : MX), s.ready (.mfill o) = true →
     let rec' (j : Nat) : Nat :=
       (((List.range 24).map (fun r => (s.row (s.rowKey s.cur o.t.toNat (4 * o.grp.toNat + r))).payload.toNat * 2 ^ (512 * r))).sum
         / 2 ^ (768 * j)) % 2 ^ 768
     let key (j : Nat) : Nat := 64 * o.row.toNat + 16 * o.cb.toNat + j
     ∃ (t : State) (jn : List JEntry) (m : Busy), exec (.mfill o) s = .next t ∧ t.seq = s.seq ∧
       Becomes s t { s with bank0 := t.bank0, bank1 := t.bank1, mHold := some (s.now, s.now + 1),
                            busy := s.busy ++ [⟨s.cur, .mword, s.now + 8⟩, m] } [] { s.me with journal := jn } s.me.flights ∧
       m.sid = s.cur ∧ m.unit = .work (o.row.toNat / 4) ∧ s.now + 8 ≤ m.due ∧
       (∀ j, j < 16 → ∃ r, recordAcc (rec' j) = some r ∧ recordCrcOk (rec' j) = true ∧
         fillAcc s.profile (s.acc s.work1 (key j)) r = some (t.acc s.work1 (key j))) ∧
       (∀ b n, ¬ (b = s.work1 ∧ key 0 ≤ n ∧ n < key 16) → t.acc b n = s.acc b n) ∧
       Journals s.me.journal jn (fun e => ∃ j, j < 16 ∧ e = s.accItem (key j)))

/-- MDRAIN and MDRNS write the 256 values of a row group of the visible bank into tile rows, rounded once to the target format,
MDRNS divided by a scalar first, the rows landing after 12 and 20 cycles; MDRAIN.auto gives each row the smallest scale at which
every finite value of it fits, 254 if there is none, 127 where the row has no nonzero finite value; MDRAIN.clr clears the group.
MSPILL writes 16 accumulators as records of 96 bytes, landing after 10 cycles (R167 to R170, R234, R235). -/
def Obligations.MatrixDrains : Prop :=
  ∀ s : State,
    let key (t g : BitVec 4) (r : Nat) : Nat := s.rowKey s.cur t.toNat (4 * g.toNat + r)
    let acc (n : Nat) : Acc := s.acc (!s.work1) n
    let rows (fmt : Nat) (mode : Nat) (t : BitVec 4) (v : Nat → XNum) (sc : Nat → Nat) (r : Nat) (_ new : Row) : Prop :=
      let per := 512 / elemBits fmt
      let nan := (List.range per).any (fun j => v (per * r + j) == .nan)
      let h : BitVec 16 := if fmt = 2 ∧ nan = true then 0xFF20 else BitVec.ofNat 16 (256 * sc r + 16 * fmt)
      new.takes h h ∧ ∀ j, j < per → elemAt (elemBits fmt) new.payload j =
        roundTo fmt ((v (per * r + j)).scale (127 - (sc r : Int))) mode false
          (rssWord s.me.sc.seed s.me.sc.step t.toNat (per * r + j))
    (∀ o : MD, (Instr.mdrain o).wf = true → s.ready (.mdrain o) = true →
      let mode := if o.dyn then s.me.sc.mrnd.toNat else o.rnd.toNat
      let v (e : Nat) : XNum := (acc (256 * o.xg.toNat + e)).drainValue
      let hit (b : Bool) (n : Nat) : Prop := o.clr = true ∧ b = (!s.work1) ∧ 256 * o.xg.toNat ≤ n ∧ n < 256 * o.xg.toNat + 256
      ∃ (t : State) (ops : List RowOp) (j : List JEntry) (sc : Nat → Nat), exec (.mdrain o) s = .next t ∧ t.seq = s.seq + 1 ∧
        Becomes s t { s with rowOps := s.rowOps ++ ops, busy := s.busy ++ [⟨s.cur, .mword, s.now + 12⟩], bank0 := t.bank0,
                             bank1 := t.bank1 } [] { s.me with journal := j } s.me.flights ∧
        RowsLand s ops (256 * elemBits o.fmt.toNat / 512) (key o.t o.grp) 12 (rows o.fmt.toNat mode o.t v sc) ∧
        (o.auto = false → ∀ r, sc r = 127) ∧
        (o.auto = true → ∀ f, floatFmt o.fmt.toNat = some f → ∀ r,
          let per := 512 / elemBits o.fmt.toNat
          let fits (k : Nat) : Prop := ∀ j, j < per → f.fits ((v (per * r + j)).scale (127 - (k : Int))) mode
            (rssWord s.me.sc.seed s.me.sc.step o.t.toNat (per * r + j)) = true
          let live : Prop := ∃ j, j < per ∧ (v (per * r + j)).nonzero = true
          (¬ live → sc r = 127) ∧ (live → sc r ≤ 254 ∧ (∀ k, k < sc r → ¬ fits k) ∧ (fits (sc r) ∨ sc r = 254))) ∧
        (∀ b n, (hit b n → t.acc b n = Acc.clear) ∧ (¬ hit b n → t.acc b n = s.acc b n)) ∧
        (o.clr = false → j = s.me.journal) ∧
        (o.clr = true → Journals s.me.journal j (fun e => ∃ n, 256 * o.xg.toNat ≤ n ∧ n < 256 * o.xg.toNat + 256 ∧
          e = .acc ((if s.work1 then 0 else 1024) + n) (acc n)))) ∧
    (∀ o : MS, (Instr.mdrns o).wf = true → s.ready (.mdrns o) = true →
      let v (e : Nat) : XNum := drainQuotient (acc (256 * o.xg.toNat + e)).drainValue (f32 (s.read o.a).toNat)
      ∃ (t : State) (ops : List RowOp), exec (.mdrns o) s = .next t ∧ t.seq = s.seq + 1 ∧
        Becomes s t { s with rowOps := s.rowOps ++ ops, busy := s.busy ++ [⟨s.cur, .mword, s.now + 20⟩] } [o.a] s.me s.me.flights ∧
        RowsLand s ops (256 * elemBits o.fmt.toNat / 512) (key o.t o.grp) 20
          (rows o.fmt.toNat s.me.sc.mrnd.toNat o.t v (fun _ => 127))) ∧
    (∀ o : MX, s.ready (.mspill o) = true →
      let rec' (j : Nat) : Nat :=
        let a := acc (64 * o.row.toNat + 16 * o.cb.toNat + j)
        let body := a.val.toNat + 2 ^ 640 * (a.nan.toNat + 2 * a.pinf.toNat + 4 * a.ninf.toNat + 16 * a.tag.toNat)
        body + 2 ^ 704 * crc64 88 body 0
      ∃ (t : State) (ops : List RowOp) (run : Nat), exec (.mspill o) s = .next t ∧ t.seq = s.seq + 1 ∧
        (∀ j, j < 16 → run / 2 ^ (768 * j) % 2 ^ 768 = rec' j) ∧
        Becomes s t { s with rowOps := s.rowOps ++ ops, busy := s.busy ++ [⟨s.cur, .mword, s.now + 10⟩] } [] s.me s.me.flights ∧
        RowsLand s ops 24 (key o.t o.grp) 10
          (fun r _ new => new.takes 0x7FD0 0x7FD0 ∧ new.payload.toNat = run / 2 ^ (512 * r) % 2 ^ 512))

/-! ### Memory and transfer words -/

/-- Every L word that touches memory, SIGNAL and LAUNCH issue one access and nothing else: the access performs later, at its bank;
a load's rows are pending until its data lands, a store's into the core's own tile window until they do. In a commit bundle, at once
or when its hold for the late checks ends, the access's tag checks are made, and their transitions applied, before it issues (R32,
R33, R39, R174 to R180, R247, R253, R380; that a commit bundle's tags move as it issues and are not checked again is the model's reading,
log 54). -/
def Obligations.AccessesIssue : Prop :=
  ∀ (i : Instr) (s : State) (slot : Slot) (op : MemOp) (d : Dst) (srcs : List Src) (swap : Option Nat),
    accessOf s i = some (slot, op, d, srcs, swap) → (s.ready i = true ∨ s.rouses i = true) →
    ∃ (t : State) (a : Access) (ops : List RowOp), exec i s = .next t ∧ t.seq = s.seq + 1 ∧ t.free = s.free + 1 ∧
      Becomes s t
        { s with accs := s.accs ++ [a], rowOps := s.rowOps ++ ops,
                 lanes := if s.me.commit && !s.me.arrived then (s.applyTags s.me.task.asid s.me.task.gslot s.me.task.member op.tags).lanes
                          else s.lanes } srcs
        (match swap with | some k => s.me.swapShape k | none => s.me) s.me.flights ∧
      IssuesAccess s slot op d a ∧ PendsRows s op ops ∧ (s.me.wait = none → op.sound = true)

/-- PUBL and HAND issue one access that will move the race tags of every block of their range, and hold the next bundle for its
nominal time at least; of no bytes they do nothing; a range of more than 2^32 bytes is refused (R197; what the access does to the tags
is stated where it performs). VREF refreshes its group now; at a cool rate
every other one is a no-op that still counts as the group's last; the rate that follows is a free value, set by temperature
(R194). A swap bit exchanges the two copies of a shape register, and no other field of any register (R33). That a no-op VREF counts as the
group's last is the model's reading, log 18, the free rate log 19, the hold after PUBL and HAND log 26, the tags of a commit bundle that
move as it issues log 54. -/
def Obligations.TagAndRefreshWords : Prop :=
  (∀ s : State,
     let moves (i : Instr) (srcs : List Src) (n : Nat) (op : MemOp) : Prop :=
       (s.ready i = true ∨ s.rouses i = true) →
         (s.me.wait = none → n ≤ 2 ^ 32) ∧
         (n = 0 → ∃ t, exec i s = .next t ∧ t.seq = s.seq ∧ t.free = s.free ∧ Becomes s t s srcs s.me s.me.flights) ∧
         (0 < n → ∃ (t : State) (a : Access) (h : Nat), exec i s = .next t ∧ t.seq = s.seq + 1 ∧ t.free = s.free + 2 ∧
           s.now + s.tagNominal s.cur op.blocks ≤ h ∧
           Becomes s t
             { s with accs := s.accs ++ [a]
                      lanes := if s.me.commit && !s.me.arrived then
                          (s.applyTags s.me.task.asid s.me.task.gslot s.me.task.member op.tags).lanes
                        else s.lanes } srcs
             { s.me with holdUntil := h } s.me.flights ∧
           IssuesAccess s .L op .none a)
     (∀ o : LP, moves (.publ o) [o.a, o.b] (s.read o.b).toNat (.publ (s.read o.a).toNat (s.read o.b).toNat)) ∧
     (∀ o : LY, moves (.hand o) [o.a, o.b, o.c] (s.read o.b).toNat
       (.hand (s.read o.a).toNat (s.read o.b).toNat ((s.read o.c).setWidth 10)))) ∧
  (∀ (s : State) (o : LR), s.ready (.vref o) = true → ∃ t, exec (.vref o) s = .next t ∧ t.seq = s.seq ∧ t.free = s.free + 1 ∧
     Becomes s t { s with refresh := t.refresh } [] s.me s.me.flights ∧
     (∀ sl g, sl < 4 → g < 64 → (sl ≠ o.slice.toNat ∨ g ≠ o.group.toNat) → t.refGroup sl g = s.refGroup sl g) ∧
     (t.refGroup o.slice.toNat o.group.toNat).last = s.now ∧
     (t.refGroup o.slice.toNat o.group.toNat).executed =
       ((s.refGroup o.slice.toNat o.group.toNat).hot || !(s.refGroup o.slice.toNat o.group.toNat).executed) ∧
     s.me.task.refresh = true ∧ o.slice.toNat = s.coreNo.toNat / 128) ∧
  (∀ (t : Stream) (k : Nat), k < 8 →
     (t.swapShape k).shape k true = t.shape k false ∧ (t.swapShape k).shape k false = t.shape k true ∧
     (∀ j b, j < 8 → j ≠ k → (t.swapShape k).shape j b = t.shape j b))

/-- SBIND binds a port with its shape at the start of its walk, SUNB unbinds one, with what it still has to drain; SAEGO hands
entries of two bound ports to the scatter-accumulate engine (R203 to R206). SAEF closes the window of the scatter-accumulate
engine, BCOPY starts a copy, SYNCI issues a sync-word write. While a rewound segment's words of these kinds are still to be
skipped, each is skipped instead; a skipped SYNCI makes its late checks, in a commit bundle before it issues (R192, R199, R206,
R357). -/
def Obligations.PortsAndTransfers : Prop :=
  (∀ s : State,
     (∀ o : XP, s.ready (.sbind o) = true →
       let k := o.port.toNat
       let x := 4 + o.xsh.toNat
       let me := if o.swap then s.me.swapShape x else s.me
       ∃ (t : State) (next : Nat) (ps : SMap (Option Port)), exec (.sbind o) s = .next t ∧ t.seq = s.seq + 1 ∧ t.free = s.free + 1 ∧
         s.now < next ∧ s.me.port k = none ∧
         Becomes s t s [] { me with ports := ps } s.me.flights ∧
         ∀ j, SMap.get none ps j = if j = k then
             some ⟨if o.out then .output else if k = 7 then .feed else .input, s.me.shape x o.swap, 0, [], next, 0, [], false, false,
               s.seq, hdrScope s.bundle.hdr⟩
           else s.me.port j) ∧
     (∀ o : XPU, s.ready (.sunb o) = true →
       let k := o.port.toNat
       ∃ (t : State) (ps : SMap (Option Port)) (p : Port), exec (.sunb o) s = .next t ∧ t.seq = s.seq ∧ t.free = s.free ∧
         Becomes s t s [] { s.me with ports := ps } s.me.flights ∧ s.me.port k = some p ∧ p.closing = false ∧
         ∀ j, SMap.get none ps j = if j = k then
             (if (p.kind = .output ∧ p.fed ≠ []) ∨ (p.kind = .feed ∧ s.shadow.st = .filling ∧ s.shadow.readyAt = 0) then
               some { p with closing := true } else none)
           else s.me.port j) ∧
     (∀ o : XA, s.ready (.saego o) = true →
       let n := (s.read o.b).toNat
       let ip := o.ip.toNat
       let vp := o.vp.toNat
       let owes (k : Nat) : Nat := (if k = ip then n else 0) + (if k = vp then n else 0)
       (n = 0 → ∃ t, exec (.saego o) s = .next t ∧ t.seq = s.seq ∧ Becomes s t s [o.a, o.b] s.me s.me.flights) ∧
       (n ≠ 0 → s.me.boundIn ip = true ∧ s.me.boundIn vp = true ∧
         ∃ (t : State) (ps : SMap (Option Port)) (next : Nat), exec (.saego o) s = .next t ∧
           t.seq = s.seq + 1 ∧ t.free = s.free + 1 ∧ s.now < next ∧ s.me.sae.next ≤ next ∧
           (∀ k, SMap.get none ps k = (s.me.port k).map (fun p => { p with sae := p.sae + owes k })) ∧
           Becomes s t s [o.a, o.b]
             { s.me with ports := ps, sae := { s.me.sae with
                 subs := s.me.sae.subs ++ [.updates ip vp (s.read o.a).toNat n ⟨s.seq, hdrScope s.bundle.hdr⟩], next } }
             s.me.flights))) ∧
  (∀ s : State,
     (∀ i srcs swaps, (match i with
         | .saef o => srcs = [o.a] ∧ swaps = []
         | .bcopy o => srcs = [o.a] ∧ swaps = (if o.swap then [4 + 2 * o.pair.toNat, 5 + 2 * o.pair.toNat] else [])
         | _ => False) →
       (s.ready i = true ∨ s.rouses i = true) → 0 < s.me.skip → ∃ t, exec i s = .next t ∧ t.seq = s.seq ∧
         Becomes s t s srcs { swaps.foldl Stream.swapShape s.me with skip := s.me.skip - 1 } s.me.flights) ∧
     (∀ o : XQ, (s.ready (.synci o) = true ∨ s.rouses (.synci o) = true) → 0 < s.me.skip →
       let me : Stream := { s.me with skip := s.me.skip - 1 }
       (s.me.commit = true → ∃ t, exec (.synci o) s = .next t ∧ t.seq = s.seq ∧ Becomes s t s [o.a, o.b] me s.me.flights) ∧
       (s.me.commit = false → ∃ (t : State) (a : Access), exec (.synci o) s = .next t ∧ t.seq = s.seq + 1 ∧ t.free = s.free + 1 ∧
         Becomes s t { s with accs := s.accs ++ [a] } [o.a, o.b] me s.me.flights ∧
         IssuesAccess s .X (.probe (s.read o.a).toNat) .none a)) ∧
     (∀ o : XF, s.ready (.saef o) = true → s.me.skip = 0 → ∃ (t : State) (next : Nat), exec (.saef o) s = .next t ∧
       t.seq = s.seq + 1 ∧ t.free = s.free + 1 ∧ s.now < next ∧ s.me.sae.next ≤ next ∧
       Becomes s t s [o.a]
         { s.me with worked := s.me.worked + 1, sae := { s.me.sae with
             subs := s.me.sae.subs ++
               [.close (if o.a = .zero then none else some (s.read o.a).toNat) ⟨s.seq, hdrScope s.bundle.hdr⟩], next } }
         s.me.flights) ∧
     (∀ o : XQ, (s.ready (.synci o) = true ∨ s.rouses (.synci o) = true) → s.me.skip = 0 → ∃ (t : State) (a : Access),
       exec (.synci o) s = .next t ∧ t.seq = s.seq + 1 ∧ t.free = s.free + 1 ∧
       Becomes s t { s with accs := s.accs ++ [a] } [o.a, o.b] { s.me with worked := s.me.worked + 1 } s.me.flights ∧
       IssuesAccess s .X (.synci (s.read o.a).toNat (s.read o.b).toNat) .none a) ∧
     (∀ o : XB, s.ready (.bcopy o) = true → s.me.skip = 0 →
       let k := 4 + 2 * o.pair.toNat
       let src := s.me.shape k o.swap
       let dst := s.me.shape (k + 1) o.swap
       let ls := (List.range 6).map s.me.sc.level
       let total := (ls.map (·.c)).foldl (· * ·) 1
       let me := if o.swap then (s.me.swapShape k).swapShape (k + 1) else s.me
       (total = 0 → ∃ t, exec (.bcopy o) s = .next t ∧ t.seq = s.seq + 1 ∧ t.free = s.free + 1 ∧
         Becomes s t { s with copies := s.copies.filter (fun c => c.id != s.seq),
                              rowOps := s.rowOps.filter (fun r => r.acc != some s.seq), mem := t.mem } [o.a]
           { me with worked := s.me.worked + 1 } s.me.flights ∧
         (o.ring = false → t.mem = s.mem) ∧
         (o.ring = true → let e := (s.read o.a).toNat + 16
           KeepsBytes s t e 16 ∧ t.load e 4 = (s.load e 4 + 1) % 2 ^ 32 ∧ t.load (e + 4) 12 = 0)) ∧
       (total ≠ 0 → ∃ (t : State) (c : Copy) (ops : List RowOp), exec (.bcopy o) s = .next t ∧ t.seq = s.seq + 1 ∧
         t.free = s.free + 1 ∧
         Becomes s t { s with copies := s.copies ++ [c], rowOps := s.rowOps ++ ops } [o.a] { me with worked := s.me.worked + 1 }
           s.me.flights ∧
         c.id = s.seq ∧ c.sid = s.cur ∧ c.src = src ∧ c.dst = dst ∧ c.levels = ls ∧ c.total = total ∧ c.done = [] ∧ c.posted = 0 ∧
         c.flying = [] ∧ c.scope = hdrScope s.bundle.hdr ∧ c.fabric = copyFabric src dst ls ∧ c.fault = none ∧ c.ring = o.ring ∧ c.sync = (if o.a = .zero then none else some (s.read o.a).toNat) ∧
         (c.asid, c.gslot, c.member) = (s.me.task.asid, s.me.task.gslot, s.me.task.member) ∧ s.now < c.next ∧
         ops.map (·.row) = copyRows s src dst ls ∧
         ∀ r ∈ ops, r.sid = s.cur ∧ r.ready = false ∧ r.acc = some s.seq ∧ r.mask = 0 ∧ r.unit = true)))

/-- SEND numbers a message described in scratchpad memory, destination, source, length, tag and deadline, with the class's rate, and
queues each of its fragments whose path is up; its source is read in a later cycle. RECV waits for a message in posting order,
matched to one that is in reception, or releases the length of one that is already decoded, behind a sync-word write still to perform
(R192, R207, R271, R305, R311; when a RECV is matched is the model's reading, log 34). -/
def Obligations.MessageWords : Prop :=
  ∀ (s : State) (o : XM),
    let a := (s.read o.a).toNat
    let cls := o.cls.toNat
    (s.ready (.send o) = true →
      let n := SMap.get 0 s.fabric.seqs cls
      ∃ (t : State) (m : Sent) (qs : SMap Nat), exec (.send o) s = .next t ∧ t.seq = s.seq + 1 ∧ t.free = s.free + 1 ∧
        Becomes s t { s with fabric := { s.fabric with
            sent := s.fabric.sent ++ [m], seqs := qs
            queue := s.fabric.queue ++
              ((List.range (m.k + m.m)).filter (fun j => !(s.fabric.pathOf m j).isEmpty &&
                (s.fabric.pathOf m j).all (fun l => !s.fabric.linksDown.contains l))).map
                (fun j => ⟨m.id, j, false, s.now⟩) } } [o.a] s.me s.me.flights ∧
        (∀ c, SMap.get 0 qs c = if c = cls then (n + 1) % 2 ^ 32 else SMap.get 0 s.fabric.seqs c) ∧
        m.id = s.seq ∧ m.sid = s.cur ∧ m.cls = cls ∧ m.seq = n ∧ m.dest = s.load a 8 / 2 ^ 40 % 2 ^ 15 ∧
        m.offset = s.load a 8 % 2 ^ 40 ∧ m.src = s.load (a + 8) 8 ∧ m.len = s.load (a + 16) 4 ∧ m.tag = s.load (a + 20) 2 ∧
        m.deadline = s.load (a + 24) 8 ∧ (m.k, m.m, m.retx) = s.rate cls ∧ m.read = false ∧ m.copy = none ∧ m.live = true ∧
        m.asked = false ∧ s.now < m.readAt) ∧
    (s.ready (.recv o) = true →
      let src := s.load a 8
      let tag := s.load (a + 20) 2
      let sync := s.load (a + 8) 8
      let known := (s.sessionOf s.cur).bind (fun x => x.decoded.find? (fun m => m.1 == src && m.2.1 == cls && m.2.2.1 == tag))
      (known = none → ∃ (t : State) (hit : Option Nat), exec (.recv o) s = .next t ∧ t.seq = s.seq + 1 ∧
        Becomes s t s [o.a] { s.me with recvs := s.me.recvs ++ [⟨s.seq, cls, src, tag, sync, hit⟩] } s.me.flights ∧
        let free (r : Reception) : Prop := r ∈ s.fabric.rx ∧ r.source = src ∧ r.cls = cls ∧ r.tag = tag ∧
          r.asid = s.me.task.asid.toNat ∧ ∀ v ∈ s.prim.recvs ++ s.sec.recvs ++ s.saved.flatMap (·.stream.recvs),
            ¬ (v.source = src ∧ v.cls = cls ∧ v.seq = some r.seq)
        (∀ q, hit = some q → ∃ r, free r ∧ r.seq = q) ∧ (hit = none → ∀ r, ¬ free r)) ∧
      (∀ c k g q len, known = some (c, k, g, q, len) →
        ∃ t, exec (.recv o) s = .next t ∧ t.seq = s.seq + 1 ∧
          let u : State := { s with
            sessions := s.sessions.map (fun y => if y.asid = s.me.task.asid then
              { y with decoded := y.decoded.erase (c, k, g, q, len) } else y)
            fabric := { s.fabric with doneMsgs := s.fabric.doneMsgs.map (fun m =>
              if m.1 = c ∧ m.2.1 = k ∧ m.2.2.1 = q then (c, k, q, true) else m) } }
          let behind : Prop := ∃ a ∈ s.accs, a.sid = s.cur ∧ a.done = false ∧ a.seq < s.seq ∧ a.op.isSynci = true
          (behind → Becomes s t u [o.a] { s.me with owed := s.me.owed ++ [(s.seq, sync, len)] } s.me.flights) ∧
          (¬ behind → s.isBad (blockOf sync) = false → (syncAdd (s.word sync) len).2 = false →
            Becomes s t { u with mem := (s.store sync (toBytes 8 (syncAdd (s.word sync) len).1.toNat)).mem } [o.a] s.me
              s.me.flights) ∧
          (¬ behind → s.isBad (blockOf sync) = true → s.me.status ≠ .idle →
            Becomes s t { u with bb := t.bb, bbCount := t.bbCount } [o.a]
              { s.me with xfault := some (s.me.xfault.getD ⟨.uncorrectable, blockOf sync, 0⟩) } s.me.flights)))

/-! ### Events: landings and accesses -/

/-- LAND: every result, row write, mask write, VDOT result and engine mark that is due lands: results in issue order into latches,
queues and out-ports; the writes of a row, a mask or a vector accumulator in issue order, each behind the earlier ones; a filling
half whose rows are due is full. The first landing of the current segment's own writes on an item is journaled; a write by a unit
behind the program or by another core goes into what the journal keeps of the row (R25, R31, R32, R47, R87, R130, R131, R133, R148,
R159, R355; the journal of a row another writer has changed is log 65). -/
def Obligations.LandingLands : Prop :=
  ∀ s : State, ∃ t, exec .land s = .next t ∧
    t = { s with
      prim := t.prim, sec := t.sec, tiles := t.tiles, rowOps := t.rowOps, masks := t.masks, maskOps := t.maskOps, xvs := t.xvs
      xvOps := s.xvOps.filter (fun o => decide (s.now < o.due))
      busy := s.busy.filter (fun b => decide (s.now < b.due))
      shadow := if s.shadow.st = .filling ∧ s.shadow.readyAt ≠ 0 ∧ s.shadow.readyAt ≤ s.now then
          { s.shadow with st := .full, readyAt := 0 } else s.shadow } ∧
    (∀ i, (s.str i).Landed (t.str i) ((s.str i).flights.filter (fun f => decide (f.due ≤ s.now))) ∧
      (t.str i).flights = (s.str i).flights.filter (fun f => decide (s.now < f.due)) ∧
      (∃ js, (t.str i).journal = js ++ (s.str i).journal.map s.unitKept) ∧
      ∀ c, (s.str i).ckpt = some c →
        (∀ k, ∀ o ∈ s.landing k, o.sid = i → o.unit = false → c.seq ≤ o.seq →
          (t.str i).journal.any (JEntry.same (.row k (s.row k))) = true) ∧
        (∀ m, ∀ o ∈ s.maskLanding m, o.sid = i → c.seq ≤ o.seq →
          (t.str i).journal.any (JEntry.same (.mask m (SMap.get 0 s.masks m))) = true) ∧
        (∀ k, ∀ o ∈ s.xvLanding k, o.sid = i → c.seq ≤ o.seq → (t.str i).journal.any (JEntry.same (.xv k (s.xv k))) = true)) ∧
    (∀ k, t.row k = (s.landing k).foldl (fun r o => o.apply r) (s.row k) ∧
      s.rowOps.filter (fun o => o.row == k) = s.landing k ++ t.rowOps.filter (fun o => o.row == k)) ∧
    (∀ m, SMap.get 0 t.masks m = (((s.maskLanding m).map (·.val)).getLast?).getD (SMap.get 0 s.masks m) ∧
      s.maskOps.filter (fun o => o.m == m) = s.maskLanding m ++ t.maskOps.filter (fun o => o.m == m)) ∧
    ∀ k, t.xv k = (((s.xvLanding k).map (·.val)).getLast?).getD (s.xv k)

/-- ACCESS_PERFORMS of this core. An access that is ready and meets no failing late check performs as one step: its tag transitions
are made, its blocks, read where they stand, are changed as its operation says and nothing else of memory (of an operation whose word
has made sure of its alignment, `MemOp.sound`, as every word that issues one has), and what it brings waits for its arrival; a rejected
LAUNCH also posts its event, and writes nothing else. One that an earlier access stands before does nothing yet; a push to a full
mailbox begins to wait there; one whose late check fails leaves no trace: the stream keeps the first detection, or the stored error
that reaches it with the data or where the access performs. A SEND reads its source, with Read tags (R22, R23, R31, R32, R39, R98, R177,
R178, R183 to R193, R196, R197, R217, R242, R246, R247, R253, R270, R287, R356, R357, R380; that a PUBL or HAND makes all its transitions
in one step is log 57, that passed tag checks are noted log 96, the order of a word over several paths log 97, the header of a row of a
RAW TLD log 109). -/
def Obligations.AccessPerforms : Prop :=
  (∀ (s : State) (a : Access),
    let who := (s.str a.sid).task
    let bs := a.op.blocks
    let s1 := if a.checked then s else s.applyTags who.asid who.gslot who.member a.op.tags
    s.performs a = true → s.apart who.asid bs →
    ∃ (t0 u w : State) (v : Option W64),
      exec (.accessPerforms (.own a.id)) s = .next (if a.op.lands then t0.payOwed a.sid else t0) ∧
      Seen s1 u who.asid bs ∧ ActsOn u w v a.op ∧ (a.op.sound = true → (∀ r, a.op ≠ .launch r) → KeepsOutside u w bs) ∧
      (KeepsOutside u w bs → Leaves s1 t0 w who.asid bs) ∧ (∀ b, t0.tagOf b = s1.tagOf b) ∧
      t0.accs = (if a.op.lands then s.accs.map (fun x => if x.id = a.id then { x with done := true, val := v } else x)
        else s.accs.filter (fun x => x.id != a.id)) ∧
      (a.op.plain u = true →
        t0 = { s.notePassed a with accs := t0.accs, rowOps := t0.rowOps, mem := t0.mem, lanes := t0.lanes, free := t0.free }) ∧
      let mine (x : State) : List RowOp := x.rowOps.filter (fun o => o.acc == some a.id)
      let others (x : State) : List RowOp := x.rowOps.filter (fun o => o.acc != some a.id)
      match a.op with
      | .tld _ tile sh fmt rnd seed step grp => others t0 = others s ∧
          (∀ (j : Nat) (o : RowOp), (mine s)[j]? = some o → ∃ p h, (mine t0)[j]? = some { o with bits := p, hdr := h }) ∧
          (fmt = 0xF → ∀ (j p : Nat) (o : RowOp), j < shE1 sh → elemPos sh (tileIdx sh 0 j) = some p → (mine s)[j]? = some o →
            (mine t0)[j]? = some { o with bits := BitVec.ofNat 512 (u.load (p / 8) 64), hdr := .fixed (u.hdrOf (p / 8)) }) ∧
          (fmt = 0xF → ∀ (j : Nat) (o : RowOp), j < shE1 sh → elemPos sh (tileIdx sh 0 j) = none → (mine s)[j]? = some o →
            (mine t0)[j]? = some { o with
              bits := BitVec.ofNat 512 (packElems (moveBits (shFmt sh)) (List.replicate (shE0 sh) (shPad sh)))
              hdr := .fixed (mkHdr (shFmt sh)) }) ∧
          (fmt ≠ 0xF → ∀ (j : Nat) (o : RowOp), j < shE1 sh → (mine s)[j]? = some o →
            let el := u.tldElem sh tile fmt rnd seed step grp j
            let n := moveBits fmt
            ∃ bits h, (mine t0)[j]? = some { o with bits, hdr := .fixed h } ∧
              (∀ c, (c + 1) * n ≤ 512 → elemAt n bits c = if c < shE0 sh then (el c).1 % 2 ^ n else 0) ∧
              h = (if fmt = 1 then
                  (match (List.range (shE0 sh)).findSome? (fun c => elemPos sh (tileIdx sh c j)) with
                   | some p => u.hdrOf (blockOf (p / 8))
                   | none => mkHdr (shFmt sh))
                else if fmt = 2 ∧ ∃ c, c < shE0 sh ∧ (el c).2 = true then 0xFF20 else mkHdr fmt))
      | .tlda _ n ad => others t0 = others s ∧ ∀ (j : Nat) (o : RowOp), j < n → (mine s)[j]? = some o → (mine t0)[j]? = some { o with
            bits := BitVec.ofNat 512 (u.load (blockOf ad + 64 * j) 64), hdr := .fixed (u.hdrOf (blockOf ad + 64 * j)) }
      | .push c q sec x =>
        let i : Sid := if sec then .sec else .prim
        t0.rowOps = s.rowOps ∧
        (c = s.coreNo.toNat →
          t0.setStr i (s.str i) = { s with accs := t0.accs, free := t0.free } ∧
          t0.str i = { (s.str i).setQueue q ((s.str i).queue q ++ [x]) with mailLog := (s.str i).mailLog ++ [(q, x)] }) ∧
        (c ≠ s.coreNo.toNat → t0 = { s with accs := t0.accs, free := t0.free })
      | .launch r =>
        let ws := (List.range 8).map (fun k => u.word (r + 8 * k))
        t0.rowOps = s.rowOps ∧
        match s.sessionOf a.sid with
        | none => v = some 0x601 ∧ KeepsBytes s t0 0 0 ∧
            t0 = { s.notePassed a with accs := t0.accs, mem := t0.mem, lanes := t0.lanes, free := t0.free }
        | some x =>
          let sub := s.launchCheck x who.queue ws false
          v = some (BitVec.ofNat 64 (if sub = 0 then 0 else 256 * sub + 1)) ∧
          (sub = 0 → KeepsBytes s t0 0 0 ∧ t0 = { s.notePassed a with
            accs := t0.accs, stepNums := t0.stepNums, mem := t0.mem, lanes := t0.lanes, free := t0.free
            queues := s.queues ++ [⟨who.queue, SMap.get 0 s.stepNums who.queue, x.asid, ws, []⟩] }) ∧
          (sub ≠ 0 →
            let ev := (rw ws 7).toNat
            let fine : Prop := ev ≠ 0 ∧ ev < 2 ^ 56 ∧ ev % 16 = 0 ∧ ∃ c k, areaOf ev = .scratch c k ∧ x.hasCore c = true
            t0 = { s.notePassed a with
              accs := t0.accs, mem := t0.mem, lanes := t0.lanes, free := t0.free, bb := t0.bb, bbCount := t0.bbCount } ∧
            (fine ∧ s.bankUp ev = true → KeepsBytes s t0 ev 16 ∧ t0.load ev 4 = (s.load ev 4 + 1) % 2 ^ 32 ∧
              t0.load (ev + 4) 1 = 2 ∧ t0.load (ev + 5) 1 = sub ∧ t0.load (ev + 6) 10 = 0) ∧
            (¬ (fine ∧ s.bankUp ev = true) → KeepsBytes s t0 0 0) ∧
            (fine ∧ s.bankUp ev = false →
              Logs s t0 [s.coreLog a.sid 0x0049 r sub 0, (0x0112, 0xFFFF, x.asid.toNat, ev, 2 + sub * 2 ^ 8, 0)]) ∧
            (¬ (fine ∧ s.bankUp ev = false) → Logs s t0 [s.coreLog a.sid 0x0049 r sub 0]))
      | op => t0.rowOps = s1.rowsLeft w (fillRowOp a.id) (op.rowOp a.sid a.id) bs) ∧
  (∀ (s : State) (a b : Access), s.access a.id = some a → s.standsBefore b a →
    exec (.accessPerforms (.own a.id)) s = .next s) ∧
  (∀ (s : State) (a : Access), s.access a.id = some a → a.checked = false → s.accReady a = true →
    (s.pushWaits a.op = true → exec (.accessPerforms (.own a.id)) s = .next { s with
      accs := s.accs.map (fun x => if x.id = a.id then { x with arrive := s.now } else x) }) ∧
    ∀ c, s.pushWaits a.op = false → s.lateCheck a.sid a.slot a.ord a.op = some c →
      let f := s.str a.sid
      let here : Prop := (f.status = .running ∨ f.status = .trapped) ∧ f.error = none
      exec (.accessPerforms (.own a.id)) s = .next (
        if c.rank = 9 ∧ a.op.lands = true then
          { s with accs := s.accs.map (fun x => if x.id = a.id then { x with done := true, err := some c } else x) }
        else ({ s with
          accs := s.accs.filter (fun x => x.id != a.id)
          rowOps := s.rowOps.filter (fun o => o.acc != some a.id) } : State).setStr a.sid
            (if c.rank = 9 then (if here ∧ f.consumed = none then { f with consumed := some c } else f)
             else if here then
               { f with error := some c, replay := some ⟨a.ord, if a.op.isTagOp then c else { c with replay := true }⟩ }
             else f))) ∧
  ∀ (s : State) (x : Sent), s.access x.id = none → s.fabric.sent.find? (fun y => y.id == x.id && !y.read) = some x →
    s.sendReady x = true →
    let d : Ident := ⟨x.asid, x.gslot, x.member⟩
    let bs := blocksOf x.src x.len
    (∀ b ∈ bs, s.readFault s d (fun _ => none) b = none) →
    ∃ t fr, exec (.accessPerforms (.own x.id)) s = .next t ∧ fr.length = x.k + x.m ∧
      t = { s with
        free := t.free, lanes := t.lanes
        fabric := { s.fabric with
          sent := s.fabric.sent.map (fun y => if y.id = x.id then { y with read := true, frags := fr } else y) } } ∧
      ∀ b, t.hdrOf b = s.hdrOf b ∧ t.tagOf b = (s.unitTags d .read bs).tagOf b

/-- ITEM_ARRIVAL: a performed access's value is in flight, its rows may land, at its nominal cycle or now if it is late; a stored error that
comes in its place waits for the next bundle that issues.
REMOTE_PUSH_LANDS: a declared mailbox with room takes the value, a full one keeps it waiting in its place, without a mailbox nothing
happens here. Another core's access that its late checks pass makes its tag transitions and its change of this core's memory; one of
a whole block brings its header, one into a tile row of this core lands there before the core's own results of its cycle; one that
fails a late check does nothing here (R22, R23, R39, R131, R177, R180, R196, R246, R247, R259, R356; what a push meets at a mailbox being
restored is log 68, which entries a push waits for is log 78). -/
def Obligations.ItemsArrive : Prop :=
  (∀ (s : State) (a : Access) (c : Cause), s.access a.id = some a → a.done = true → a.err = some c →
    let f := s.str a.sid
    exec (.itemArrival a.id) s = .next (({ s with
      accs := s.accs.filter (fun x => x.id != a.id), rowOps := s.rowOps.filter (fun o => o.acc != some a.id) } : State).setStr a.sid
        (if (f.status = .running ∨ f.status = .trapped) ∧ f.error = none ∧ f.consumed = none then { f with consumed := some c } else f))) ∧
  (∀ (s : State) (a : Access), s.access a.id = some a → a.done = true → a.err = none →
    let due := max a.land s.now
    ∃ t fl, exec (.itemArrival a.id) s = .next t ∧
      t.setStr a.sid (s.str a.sid) = { s with
        accs := s.accs.filter (fun x => x.id != a.id), bb := t.bb, bbCount := t.bbCount
        rowOps := s.rowOps.map (fun o => if o.acc = some a.id then { o with ready := true, due, acc := none } else o) } ∧
      Logs s t (if s.strict = true ∧ a.land + 4096 < s.now then
        [s.coreLog a.sid 0x0102 (a.op.blocks.headD 0) (s.now - a.land) 0] else []) ∧
      t.str a.sid = { s.str a.sid with flights := fl } ∧
      (match a.val, a.op.isSynci with
       | some v, false => ∃ xs ys, (s.str a.sid).flights = xs ++ ys ∧ fl = xs ++ ⟨a.slot, v, a.q, due, a.seq⟩ :: ys ∧
           (∀ g ∈ xs, g.seq ≤ a.seq) ∧ ∀ g, ys.head? = some g → a.seq < g.seq
       | _, _ => fl = (s.str a.sid).flights)) ∧
  (∀ (s : State) (i : Sid) (q : BitVec 5) (v : W64),
    let a := s.str i
    let live := a.isMail q.toNat && (a.status == .running || a.status == .trapped)
    ∃ t, exec (.remotePushLands i q v) s = .next t ∧
      if live = false then t = s
      else if s.mailFull (i == .sec) q.toNat = true then t = { s with inbox := s.inbox ++ [(s.now, .remotePushLands i q v)] }
      else t.setStr i a = s ∧ t.str i = { a.setQueue q.toNat (a.queue q.toNat ++ [v]) with mailLog := a.mailLog ++ [(q.toNat, v)] }) ∧
  (∀ (s : State) (p : Peer) (o : PeerOp),
    let bs := peerBlocks o
    let s1 := s.applyTags p.asid p.gslot p.member (peerTags o)
    (s.peerPasses p o = false → exec (.accessPerforms (.peer p o)) s = .next s) ∧
    (s.peerPasses p o = true → s.apart p.asid bs →
      ∃ t u w, exec (.accessPerforms (.peer p o)) s = .next t ∧ Seen s1 u p.asid bs ∧ Leaves s1 t w p.asid bs ∧
        (∀ b, t.tagOf b = s1.tagOf b) ∧ t.rowOps = s1.rowsLeft w remotePlace (peerRowOp o s.seq) bs ∧
        ((∀ op, peerMemOp o = some op → op.plain u = true) →
          t = { s with rowOps := t.rowOps, mem := t.mem, lanes := t.lanes, free := t.free, seq := s.seq + 1 }) ∧
        match o with
        | .block ad x m h _ => KeepsOutside u w [blockOf ad.toNat] ∧ w.hdrOf (blockOf ad.toNat) = h ∧
            ∀ j, j < 512 → (w.load (blockOf ad.toNat) 64).testBit j =
              if m.getLsbD j then x.getLsbD j else (u.load (blockOf ad.toNat) 64).testBit j
        | .ring ad st f n => KeepsBytes u w ad.toNat 16 ∧ w.load ad.toNat 4 = (u.load ad.toNat 4 + 1) % 2 ^ 32 ∧
            w.load (ad.toNat + 4) 1 = st.toNat ∧ w.load (ad.toNat + 5) 1 = f.toNat ∧ w.load (ad.toNat + 6) 2 = 0 ∧
            w.load (ad.toNat + 8) 8 = n.toNat
        | o => ∃ op v, peerMemOp o = some op ∧ ActsOn u w v op))

/-! ### Events: segments, waits and domains -/

/-- SEGMENT_CHECKPOINT keeps the scalar state, the ports, the mark of a commit bundle and the place in the slice of tiles once the
segment's scalars and accesses are there, and starts a new journal. LATE_CHECK_REPLAY and REWIND go back to the segment entry when
everything in flight is over; a rewind counts a retry and is noted, the fourth for one cause within 1 s makes one probe of every engine slot
due. An error that is reported at a bundle starts a rewind there; the third of a segment, or one of a commit bundle's reads, traps there with
UNCORRECTABLE (R48, R87, R88, R100, R177, R354, R356 to R358, R360; the cycle in which the stream may issue again is the model's reading,
log 17, the probes of a sweep log 93, that passed tag checks are forgotten at a checkpoint log 96). -/
def Obligations.SegmentsGoBack : Prop :=
  (∀ (s : State) (i : Sid),
    let a := s.str i
    let ended : Prop := a.status = .running ∧ s.quiet i = true ∧ s.portsDrained i = true
    (a.ckptDue.isSome = true → s.segReady i = true → ∃ t, exec (.segmentCheckpoint i) s = .next t ∧
      t = s.setStr i { a with ckpt := some ⟨a.sc, a.ports, s.seq, a.commit, a.task.tix, a.task.ended, a.segId⟩, ckptDue := none,
                              journal := [], retries := 0, skip := 0, worked := 0, ord := 0, replay := none, mailLog := [],
                              passed := [] }) ∧
    (∀ c k, a.error = some c → a.ckpt = some k → ended →
      (c.rank ≠ 9 → ∃ t, exec (.lateCheckReplay i) s = .next t ∧ GoesBack s t i k a.retries ∧ t.bb = s.bb ∧
        t.bbCount = s.bbCount ∧ t.service = s.service ∧ t.free = s.free) ∧
      (c.rank = 9 → ∃ t, exec (.rewind i) s = .next t ∧ GoesBack s t i k (a.retries + 1) ∧ t.free = s.free + 1 ∧
        Logs s t [s.coreLog i 0x0100 c.code.num a.segId.toNat (a.retries + 1)] ∧
        (let recent := (c.code.num, s.now) :: s.service.rewinds.filter (fun x => decide (s.now < x.2 + 1200000000))
         let often : Prop := 4 ≤ recent.countP (fun x => x.1 == c.code.num)
         t.service = { s.service with rewinds := recent, sweep := t.service.sweep } ∧
         (often → t.service.sweep.map (·.1) = List.range 8) ∧ (¬ often → t.service.sweep = s.service.sweep))))) ∧
  (∀ (i : Instr) (m : WordSem) (s : State) (c : Cause), semOf i = some m → s.reaches m = true → Reported (s.mainCauses [m]) c →
    c.rank = 9 → c.code ≠ .refreshLate → c.code ≠ .fabricHoldTimeout →
    let last : Prop := s.me.retries = 2 ∨ (s.me.commit = true ∧ c.code = .uncorrectable)
    ∃ t, exec i s = .next t ∧
      (last → Traps s t { c with code := .uncorrectable, rank := 10 }) ∧
      (¬ last → t = s.setStr s.cur { s.me with
        error := some c, consumed := none, xfault := if c.pending then none else s.me.xfault }))

/-- Waits that end from outside: BARRIER_COMPLETE advances the phase of the gang slot and releases the member, RENDEZVOUS_COMPLETE
releases it; a mismatch traps a member that is at one, from the end of its stalls on, with ILLEGAL_OPERAND; a pending pre-emption
keeps it waiting, and one with an error to go back for is not waiting; the barrier of a gang on other cores advances its slot's phase. WAITG_WAKE, WAITR_WAKE and FENCE_RELEASE issue the
waiting bundle, with its own effect, once its wait has ended. SECONDARY_HOLD lets the secondary, or the filler gang there, issue.
A phase that wraps makes every tag of the slot FRESH, and WRAP_SWEEP_DONE ends the wait for its sweep (R19, R90, R91, R92, R95, R96, R190,
R252, R330, R344, R359; when the held bundle issues is log 55, the filler gangs are log 43, that a swept tag reads FRESH from the wrap on is
the model's reading, log 100). -/
def Obligations.WaitsEndByEvents : Prop :=
  (∀ (s : State) (i : Sid) (bar : Bool),
    let ev (b : Bool) : Instr := if bar then .barrierComplete (.here i) b else .rendezvousComplete i b
    (∀ b, (s.str i).preempt = true ∨ s.erring i = true → exec (ev b) s = .next s) ∧
    ((s.str i).preempt = false → s.erring i = false →
      ((if bar then ∃ n, (s.str i).wait = some (.bar n) else ∃ n d, (s.str i).wait = some (.rdv n d)) →
        ∃ t, exec (ev false) s = .next t ∧ t.str i = { s.str i with wait := some .released } ∧
        t.setStr i (s.str i) = { s with sessions := t.sessions, lanes := t.lanes, free := t.free } ∧
        t.sessions.map (fun x => { x with phases := [], sweeps := [] }) = s.sessions.map (fun x => { x with phases := [], sweeps := [] }) ∧
        (bar = true → PhaseAdvances s t (s.str i).task.asid (s.str i).task.gslot.toNat) ∧
        (bar = false → t.sessions = s.sessions ∧ t.lanes = s.lanes)) ∧
      ((∃ n, (s.str i).wait = some (.bar n)) ∨ (∃ n d, (s.str i).wait = some (.rdv n d)) ∨ (s.str i).wait = some .arriving →
        ∃ t r, exec (ev true) s = .next t ∧ (t.str i).status = .trapped ∧ (t.str i).record = some r ∧
          RecordOf s i { rank := 7, slot := 0, code := .illegalOperand, aux := s.ctlWord i } r))) ∧
  (∀ (s : State) (q : BitVec 6) (n : Nat) (g : Gang),
    s.gangs.find? (fun g => g.step.queue == q.toNat && g.step.num == n && !s.onCore g) = some g →
    ∃ t, exec (.barrierComplete (.away q n) false) s = .next t ∧
      t = { s with sessions := t.sessions, lanes := t.lanes, free := t.free } ∧
      PhaseAdvances s t g.step.asid g.slot) ∧
  (∀ (s : State) (i : Sid) (x : Instr), (s.str i).status = .running → s.nextInstrs i = [x] → s.early i = [] →
    let u := s.atIssue i
    u.rouses x = true →
    let ends (ev : Instr) (srcs : List Src) (a : Stream) : Prop :=
      ∃ t, exec ev s = .next t ∧ BecomesAs ⟨false, false, false, none⟩ u t u srcs a u.me.flights ∧ t.seq = s.seq
    match x with
    | .waitg o => ends (.waitgWake i) [o.a, o.b] { u.me with overshoot := none }
    | .fence _ => ends (.fenceRelease i) [] u.me
    | .waitr o => ∃ t, exec (.waitrWake i) s = .next t ∧
        let e := (u.read o.a).toNat
        Lands u t [o.a, o.b] .C o.d (BitVec.ofNat 64 (u.load (e + 4) 2 + 2 ^ 16 * u.load (e + 8) 6)) 2
    | _ => True) ∧
  (∀ s : State,
    (s.fillerDue = true → exec .secondaryHold s = .next { s with primMask := 0, turn := .sec, free := s.free + 1, filler := some 0 }) ∧
    (s.holdsPrimary = true → s.fillerDue = false → ∃ t, exec .secondaryHold s = .next t ∧
      t = (({ s.issueNow .sec with primMask := 0, turn := .sec } : State).setStr .sec { (s.issueNow .sec).sec with ready19 := 0 }) ∧
      t.sec.progress ≠ s.sec.progress ∧ 4096 ≤ s.sec.ready19)) ∧
  (∀ (s : State) (g : BitVec 4), s.sessions.Pairwise (fun x y => x.asid ≠ y.asid) →
    let due (x : Session) : Bool := x.sweeps.any (fun p => p.1 == g.toNat && decide (p.2 ≤ s.now))
    let lives (x : Session) : Prop :=
      (∃ i, (s.str i).status ≠ .idle ∧ (s.str i).task.asid = x.asid ∧ (s.str i).task.gslot = g) ∨
      ∃ a ∈ s.gangs, a.step.asid = x.asid ∧ a.slot = g.toNat
    ∃ t, exec (.wrapSweepDone g) s = .next t ∧ t = { s with sessions := t.sessions } ∧
      t.sessions.length = s.sessions.length ∧ ∀ (n : Nat) (x y : Session), s.sessions[n]? = some x → t.sessions[n]? = some y →
        (due x = false → y = x) ∧
        (due x = true → y = { x with sweeps := x.sweeps.filter (fun p => p.1 != g.toNat), taken := y.taken } ∧
          (lives x → y.taken = x.taken) ∧ (¬ lives x → y.taken = x.taken.filter (fun z => z != g.toNat))))

/-- DOMAIN_AWAKE: a domain of this core that is waking is awake at the end of its latency, and the wakes of the pair's queue that now
may be are admitted; one that took more than 1 µs is noted; of the other core of the pair, a wake stops counting at the end of its
latency, or its wakes of the cycle join the queue. REFRESH_DUE refreshes a group that is due in place of the task with the duty and
raises one REFRESH_LATE; CONTROLLER_REFRESH refreshes a group without a duty. COLUMN_DEGRADED at a repetition of the slot table halves
the column's width and degrades the device, else waits for one. Where nothing is due nothing happens (R13, R93, R195, R291, R292,
R363, R364; the logs 18, 19 and 41 say what is the model's reading, and log 60 that a column that degrades is also written as a retired
unit). -/
def Obligations.DomainsAndRefresh : Prop :=
  ∀ s : State,
    (∀ d : BitVec 5,
      let v := s.dom d.toNat
      (v.st = .waking → v.due ≤ s.now → ∃ t u, exec (.domainAwake (.own d)) s = .next t ∧ Admits u t ∧
        u = { s with doms := u.doms, bb := u.bb, bbCount := u.bbCount } ∧
        (∀ e, u.dom e = if e = d.toNat then { s.dom e with st := .awake } else s.dom e) ∧
        Logs s u (if v.since + 1200 < s.now then [s.coreLog (v.owner.getD .prim) 0x0101 d.toNat (s.now - v.since) 0] else [])) ∧
      (¬ (v.st = .waking ∧ v.due ≤ s.now) → exec (.domainAwake (.own d)) s = .next s)) ∧
    (∀ d : BitVec 5,
      let out := s.power.partner.find? (fun p => p.1 == d.toNat && decide (p.2 ≤ s.now))
      let here := s.power.ahead.filter (fun p => decide (p.1 ≤ s.now))
      (∀ p, out = some p → ∃ t, exec (.domainAwake (.pair d)) s = .next t ∧
        Admits { s with power := { s.power with partner := s.power.partner.erase p } } t) ∧
      (out = none → here ≠ [] → ∃ t, exec (.domainAwake (.pair d)) s = .next t ∧ Admits { s with
        wakeQ := s.wakeQ ++ here.map (fun p => ⟨false, p.2⟩)
        power := { s.power with ahead := s.power.ahead.filter (fun p => decide (s.now < p.1)) } } t) ∧
      (out = none → here = [] → exec (.domainAwake (.pair d)) s = .next s)) ∧
    (∀ (sl : BitVec 2) (g : BitVec 6),
      let r := s.refGroup sl.toNat g.toNat
      let due : Prop := r.last + (if r.hot then 600000 else 1200000) ≤ s.now
      let fresh (t : State) : Prop := ∀ x y, x < 4 → y < 64 →
        t.refGroup x y = if x = sl.toNat ∧ y = g.toNat then { r with last := s.now } else s.refGroup x y
      (∀ i, s.dutyOf sl.toNat = some i →
        (due → ∃ t, exec (.refreshDue sl g) s = .next t ∧ fresh t ∧
          t.setStr i (s.str i) = { s with refresh := t.refresh, bb := t.bb, bbCount := t.bbCount } ∧
          t.str i = { s.str i with refreshDue := some ((s.str i).refreshDue.getD (sl.toNat, g.toNat)) } ∧
          Logs s t [s.coreLog i 0x0111 sl.toNat g.toNat 0]) ∧
        (¬ due → exec (.refreshDue sl g) s = .next s) ∧ exec (.controllerRefresh sl g) s = .next s) ∧
      (s.dutyOf sl.toNat = none → exec (.refreshDue sl g) s = .next s ∧
        ∃ t, exec (.controllerRefresh sl g) s = .next t ∧ fresh t ∧ t = { s with refresh := t.refresh })) ∧
    (∀ c : BitVec 7,
      (s.now % 8 = 0 → ∃ t m, exec (.columnDegraded c) s = .next t ∧ m = { s with bb := m.bb, bbCount := m.bbCount } ∧
        Logs s m [(0x0059, 0xFFFF, 0, 0, c.toNat, 0)] ∧ Retires m t (2, c.toNat)) ∧
      (s.now % 8 ≠ 0 → exec (.columnDegraded c) s = .next { s with
        inbox := s.inbox ++ [(s.now + (8 - s.now % 8), .columnDegraded c)] }))

/-! ### Events: the units behind the program -/

/-- COPY_BLOCK_POST. A copy that may begins one of its remaining blocks, which posts no earlier than its read and write latencies allow.
A block in flight that is due is done. Of a copy into memory, its blocks read and written without a fault: a verbatim copy's destination
block is the whole source block or pad, a converting copy's element is converted; every other byte of memory stands, tile rows of this
core are written behind the pending writes before them, the bytes count at the sync word, and the last block completes the copy, with
its ring entry. Of a fabric-scope copy its rows become messages of class 0. With nothing to do nothing happens (R32, R179, R181, R183,
R199 to R201, R242, R319; one whole block at a time is the model's choice, log 23, the messages' deadline and size its reading, log
50). -/
def Obligations.CopyBlocks : Prop :=
  ∀ (s : State) (c : Copy), s.copies.find? (fun x => x.id == c.id) = some c →
    let d : Ident := ⟨c.asid, c.gslot, c.member⟩
    let verb := copyVerbatim c.src c.dst c.levels
    let ps (n : Nat) : List CopyPiece := copyPieces c verb n
    let rd (n : Nat) : List Nat := ((ps n).flatMap (·.reads)).eraseDups
    let s1 (n : Nat) : State := s.unitTags d .read (rd n)
    let readable (n : Nat) : Prop := ∀ b ∈ rd n, s.readFault (s.view c.asid (rd n)) d (copyNeeds verb (shFmt c.src)) b = none
    let stays (n : Nat) (x : Copy) (posted : Nat) : Copy :=
      if x.id = c.id then { x with done := n :: x.done, flying := x.flying.filter (fun p => p.1 != n), posted } else x
    (s.copyDue c = none → s.copyBegins c = false → exec (.copyBlockPost c.id) s = .next s) ∧
    (s.copyDue c = none → s.copyBegins c = true →
      ∃ t n at', exec (.copyBlockPost c.id) s = .next t ∧ n ∈ c.left ∧ s.now + s.copyLatency c n < at' ∧
        t = { s with
          free := s.free + 1
          copies := s.copies.map (fun x => if x.id = c.id then { x with flying := x.flying ++ [(n, at')], next := s.now + 1 } else x) }) ∧
    (∀ n, s.copyDue c = some n → c.fabric = false → readable n →
      let wr := copyWrites c n
      let s2 := (s1 n).unitTags d .write wr
      let w := moveBits (shFmt c.dst)
      (∀ b ∈ wr, (s1 n).writeFault d b = none) → s.apart c.asid wr → (∀ b ∈ wr, b % 64 = 0) →
      ∃ t x u y z, exec (.copyBlockPost c.id) s = .next t ∧ Seen s u c.asid (rd n) ∧ Seen s2 y c.asid wr ∧ Leaves s2 x z c.asid wr ∧
        (∀ b, x.tagOf b = s2.tagOf b ∧ t.tagOf b = x.tagOf b ∧ t.hdrOf b = x.hdrOf b) ∧
        (verb = true → ∀ p ∈ ps n, (∀ q ∈ ps n, q.dst / 8 = p.dst / 8 → q = p) → (∀ q, p.src = some q → q % 512 = 0) →
          match p.src with
          | some q => z.load (p.dst / 8) 64 = u.load (q / 8) 64 ∧ z.hdrOf (p.dst / 8) = u.hdrOf (q / 8)
          | none => z.hdrOf (p.dst / 8) = mkHdr (shFmt c.dst)) ∧
        (verb = false → w ≠ 0 → (∀ p ∈ ps n, p.dst % w = 0) →
          (∀ p ∈ ps n, (∀ q ∈ ps n, q.dst = p.dst → q = p) → z.memBits p.dst w = (match p.src with
            | some q => convElem (if shFmt c.src = 1 then mkHdr 1 else u.hdrOf (blockOf (q / 8))) (shFmt c.src)
                (u.memBits q (moveBits (shFmt c.src))) (shFmt c.dst) 0 0
            | none => convElem (mkHdr (shFmt c.src)) (shFmt c.src) (shPad c.src) (shFmt c.dst) 0 0) % 2 ^ w) ∧
          (∀ r, r % w = 0 → blockOf (r / 8) ∈ wr → (∀ p ∈ ps n, p.dst ≠ r) → z.memBits r w = y.memBits r w) ∧
          (shFmt c.dst ≠ 2 → ∀ b ∈ wr, z.hdrOf b = mkHdr (shFmt c.dst))) ∧
        let last : Prop := c.done.length + 1 = c.total ∧ s.fabric.sent.any (fun x => x.copy == some c.id) = false
        (let mask (b : Nat) : BitVec 512 := if verb then BitVec.allOnes 512 else writeMask b ((ps n).map (fun p => ⟨p.dst, w, 0, 0⟩))
         let left := s.tileRowsOf (((List.range c.total).filter (fun m => !(n :: c.done).contains m)).flatMap (copyWrites c))
         let rows := s.rowsLeft z (insertRowOp c.id) (unitRow c.sid s.seq mask) wr
         (last → t.rowOps = rows.filter (fun o => o.acc != some c.id)) ∧
         (¬ last → t.rowOps = rows.filter (fun o => o.acc != some c.id || left.contains o.row))) ∧
        (last → t.copies = s.copies.filter (fun x => x.id != c.id)) ∧
        (¬ last → t.copies = s.copies.map (fun x => stays n x (x.posted + copyPost c))) ∧
        (∀ a, (∀ y, c.sync = some y → ¬ (y ≤ a ∧ a < y + 32)) → t.byte a = x.byte a) ∧
        (∀ y, c.sync = some y → s.isBad (blockOf y) = true → KeepsBytes x t (y + 16) 16) ∧
        ∀ y, c.sync = some y → s.isBad (blockOf y) = false →
          t.word y = (syncAdd (x.word y) (copyPost c)).1 ∧
          (¬ (last ∧ c.ring = true) → KeepsBytes x t y 8) ∧
          (last → c.ring = true → s.isBad (blockOf (y + 16)) = false →
            t.load (y + 16) 4 = (x.load (y + 16) 4 + 1) % 2 ^ 32 ∧ t.load (y + 20) 1 = (if c.fault.isSome then 1 else 0) ∧
            t.load (y + 24) 8 = (c.posted + copyPost c) % 2 ^ 64)) ∧
    (∀ n, s.copyDue c = some n → c.fabric = true → readable n →
      ∃ t ms, exec (.copyBlockPost c.id) s = .next t ∧ t.mem = s.mem ∧ t.copies = s.copies.map (fun x => stays n x x.posted) ∧
        t.fabric.sent = s.fabric.sent ++ ms ∧
        (∀ m ∈ ms, m.copy = some c.id ∧ m.cls = 0 ∧ m.sid = c.sid ∧ m.read = true ∧ m.live = true ∧
          m.deadline = s.fabric.period + 2 ∧ m.frags.length = m.k + m.m ∧ m.len ≤ min 65536 (4096 * m.k)) ∧
        (ms.map (·.len)).sum = shE1 c.src * ((shE0 c.src * moveBits (shFmt c.dst) + 7) / 8))

/-- PORT_PREFETCH: the block of an in-port's next element leaves, and comes back no earlier than its latency; then the element becomes
the newest entry, sign-extended where the format is a signed integer; a pad element needs no block. OUT_PORT_WRITE: the block of the
next element leaves likewise; then the oldest fed entry goes to it, its low bits, and no other bit changes; past the walk's end it
is discarded with a transfer fault. ROW_BUFFER_FEED_FILL: a feed begins to fill an empty shadow half, and the rows of a fill
arrive (R32, R159, R179, R181, R202 to R204, R242; the fault of an entry past the end is the model's reading, log 33, that passed tag
checks are noted log 96). -/
def Obligations.PortsMove : Prop :=
  ∀ (s : State) (i : Sid) (k : BitVec 3) (p : Port), (s.str i).port k.toNat = some p →
    let f := shFmt p.shape
    let w := moveBits f
    let d := s.ident i
    let put (t : State) (x : Option Port) : Prop := ∀ j, (t.str i).port j = if j = k.toNat then x else (s.str i).port j
    let only (t : State) : Prop :=
      t.setStr i (s.str i) = { s with mem := t.mem, lanes := t.lanes, rowOps := t.rowOps, free := t.free, seq := t.seq } ∧
      t.str i = { s.str i with ports := (t.str i).ports, passed := (t.str i).passed }
    let passed (t : State) (bs : List Nat) : Prop := (t.str i).passed = bs.map (fun b => (p.pos, 256 + k.toNat, b)) ++ (s.str i).passed
    let same (t : State) : Prop := t.mem = s.mem ∧ t.rowOps = s.rowOps ∧ t.seq = s.seq
    let flies (t : State) (q : Nat) : Prop := ∃ nx, s.now + s.nominal i false 1 (q / 8) ≤ nx ∧
      only t ∧ passed t [] ∧ same t ∧ t.lanes = s.lanes ∧ put t (some { p with flying := true, next := nx })
    let tagged (t : State) (x : State) : Prop := ∀ b, t.tagOf b = x.tagOf b
    (s.fetchReady i p = true →
      (∀ q, p.flying = false → p.element = some q → ∃ t, exec (.portPrefetch i k) s = .next t ∧ flies t q) ∧
      (p.flying = true ∨ p.element = none →
        (∀ q, p.element = some q →
          s.readFault (s.view d.asid [blockOf (q / 8)]) d (portNeeds f) (blockOf (q / 8)) = none) →
        ∃ t u nx, exec (.portPrefetch i k) s = .next t ∧ only t ∧ same t ∧ s.now < nx ∧ (∀ b, t.hdrOf b = s.hdrOf b) ∧
          passed t ((p.element.map (fun q => blockOf (q / 8))).toList) ∧
          tagged t (s.unitTags d .read ((p.element.map (fun q => blockOf (q / 8))).toList)) ∧
          (∀ q, p.element = some q → Seen s u d.asid [blockOf (q / 8)]) ∧
          let x : Nat := match p.element with | some q => u.memBits q w | none => shPad p.shape
          put t (some { p with
            pos := p.pos + 1, next := nx, flying := false
            entries := p.entries ++
              [⟨if f = 8 ∨ f = 10 ∨ f = 11 then wrap64 (signedNat w (x % 2 ^ w)) else BitVec.ofNat 64 x, none⟩] }))) ∧
    (∀ x rest, p.fed = x :: rest → s.drainReady i p = true →
      let out (nx : Nat) : Option Port :=
        if p.closing = true ∧ rest = [] then none else some { p with pos := p.pos + 1, fed := rest, next := nx, flying := false }
      (∀ q, p.pos < walkTotal p.shape → p.element = some q →
        (p.flying = false → ∃ t, exec (.outPortWrite i k) s = .next t ∧ flies t q) ∧
        (let b := blockOf (q / 8)
         let s1 := s.unitTags d .write [b]
         p.flying = true → w ≠ 0 → q % w = 0 → s.writeFault d b = none →
          ∃ t y z nx, exec (.outPortWrite i k) s = .next t ∧ only t ∧ passed t [b] ∧ s.now < nx ∧ put t (out nx) ∧
            Seen s1 y d.asid [b] ∧ Leaves s1 t z d.asid [b] ∧ tagged t s1 ∧ z.memBits q w = x.toNat % 2 ^ w ∧
            (∀ r, r % w = 0 → blockOf (r / 8) = b → r ≠ q → z.memBits r w = y.memBits r w) ∧ z.hdrOf b = mkHdr f ∧
            t.rowOps = s.rowsLeft z (insertRowOp 0) (unitRow i s.seq (fun b => writeMask b [⟨q, w, 0, 0⟩])) [b])) ∧
      (p.pos < walkTotal p.shape → p.element = none →
        ∃ t nx, exec (.outPortWrite i k) s = .next t ∧ only t ∧ same t ∧ t.lanes = s.lanes ∧ s.now < nx ∧ put t (out nx)) ∧
      (walkTotal p.shape ≤ p.pos → (s.str i).status ≠ .idle →
        ∃ t nx, exec (.outPortWrite i k) s = .next t ∧ same t ∧ t.lanes = s.lanes ∧ s.now < nx ∧ put t (out nx) ∧
          Logs s t [s.coreLog i 0x0103 (shBase p.shape) TrapCode.permission.num 0] ∧
          (t.str i).xfault = some ((s.str i).xfault.getD ⟨.permission, shBase p.shape, 0⟩))) ∧
    (k = 7 → s.feedDue i p = true →
      (s.shadow.st = .empty → ∃ t nx, exec (.rowBufferFeedFill i) s = .next t ∧ same t ∧ t.lanes = s.lanes ∧
        s.now + s.nominal i true 16 (((feedBlocks p).filterMap id).headD 0) ≤ nx ∧
        t.shadow = { Half.empty with st := .filling } ∧ put t (some { p with next := nx, flying := true }) ∧
        (t.str i).journal = (s.str i).journaled (.rowBuf s.active s.shadow s.pass)) ∧
      (s.shadow.st = .filling →
        let bs := feedBlocks p
        let row (u : State) (b : Option Nat) : BitVec 512 × BitVec 16 := match b with
          | some b => (BitVec.ofNat 512 (u.load b 64), u.hdrOf b)
          | none => (BitVec.ofNat 512 (packElems w (List.replicate (movePer f) (shPad p.shape))), mkHdr f)
        let v := s.view d.asid (bs.filterMap id)
        (∀ b, some b ∈ bs → s.readFault v d (copyNeeds false f) b = none) →
        matFormatCauses (bs.map (fun b => (row v b).2)) = [] →
        ∃ t u nx, exec (.rowBufferFeedFill i) s = .next t ∧ same t ∧ s.now < nx ∧ Seen s u d.asid (bs.filterMap id) ∧
          tagged t (s.unitTags d .read (bs.filterMap id)) ∧ (∀ b, t.hdrOf b = s.hdrOf b) ∧
          t.shadow = { st := .full, rows := bs.map (row u), fmt := hFmt (row u (bs.headD none)).2, counter := 0, prof := 0,
                       readyAt := 0, bad := none } ∧
          put t (if p.closing then none else some { p with pos := p.pos + 16, next := nx, flying := false }) ∧
          (t.str i).journal = (s.str i).journaled (.rowBuf s.active s.shadow s.pass)))

/-- SAE_WINDOW_APPLY: the engine takes an update whose index and value have arrived into its open window, and the 64th closes it; an
SAEF closes the window and puts its sync word behind it; the oldest item begins once the stream's earlier stores and sync-word writes
have performed and its request entries are free; the item in flight is done: an SAEF's sync word counts, the updates of a window to one
address are one rounded addition of their exact sum, a block headed NONE counting as zeros, and nothing else of memory changes. With
nothing to do nothing happens (R181, R192, R205, R206, R217, R242). -/
def Obligations.SaeApplies : Prop :=
  ∀ (s : State) (i : Sid),
    let a := s.str i
    let e := a.sae
    let d := s.ident i
    (¬ (e.next ≤ s.now ∧ s.saeReady i = true) → exec (.saeWindowApply i) s = .next s) ∧
    (e.next ≤ s.now →
    (∀ ip vp base n p x v xs vs, e.subs = [.updates ip vp base n p] → e.items = [] → e.flying = false → 0 < n → ip ≠ vp →
      (∀ p q, a.port ip = some p → a.port vp = some q → p.kind = .input ∧ q.kind = .input ∧
        p.entries = ⟨x, none⟩ :: xs ∧ q.entries = ⟨v, none⟩ :: vs ∧ (2 ≤ n → xs = [] ∧ p.pos < walkTotal p.shape)) →
      (a.port ip).isSome = true → (a.port vp).isSome = true → e.opened.length < 64 →
      let o := e.opened ++ [((base + 4 * x.toNat) % 2 ^ 64, v.setWidth 32)]
      let item : SaeItem := .window o p
      let closes : Bool := e.opened.length == 63
      ∃ t nx, exec (.saeWindowApply i) s = .next t ∧ t.setStr i a = { s with free := s.free + 1 } ∧ s.now < nx ∧
        t.str i = { a with
          ports := (t.str i).ports
          sae := { subs := if n = 1 then [] else [.updates ip vp base (n - 1) p], opened := if closes then [] else o
                   items := if closes then [item] else [], next := nx, last := p
                   flying := closes && !s.workBehind i p && (s.setStr i (t.str i).saeIdle).entriesFree item.entries } } ∧
        ∀ k, (t.str i).port k = (a.port k).map (fun p =>
          if k = ip ∨ k = vp then { p with entries := p.entries.drop 1, sae := p.sae - 1 } else p)) ∧
    (∀ sync p, e.subs = [.close sync p] → e.items = [] → e.flying = false →
      let items : List SaeItem := (if e.opened = [] then [] else [.window e.opened e.last]) ++
        (match sync with | some y => [.flush y p] | none => [])
      ∃ t nx, exec (.saeWindowApply i) s = .next t ∧ t.setStr i a = { s with free := s.free + 1 } ∧ s.now < nx ∧
        t.str i = { a with sae := { e with
          subs := [], opened := [], items, next := nx
          flying := items.head?.any (fun x => !s.workBehind i x.place && s.entriesFree x.entries) } }) ∧
    (∀ x items, e.subs = [] → e.items = x :: items → e.flying = false → s.workBehind i x.place = false →
      s.entriesFree x.entries = true →
      ∃ t nx, exec (.saeWindowApply i) s = .next t ∧ s.now < nx ∧
        t = { s.setStr i { a with sae := { e with flying := true, next := nx } } with free := s.free + 1 }) ∧
    (∀ x items, e.subs = [] → e.items = x :: items → e.flying = true →
      let done (t : State) : Prop := ∃ nx, s.now < nx ∧ (t.str i).sae = { e with items, flying := false, next := nx }
      (∀ y p, x = .flush y p → ∃ t, exec (.saeWindowApply i) s = .next t ∧ done t ∧ KeepsBytes s t y 8 ∧
        (s.isBad (blockOf y) = false → t.word y = (syncAdd (s.word y) 1).1) ∧
        (s.isBad (blockOf y) = true → t.word y = s.word y ∧ (a.status ≠ .idle → (t.str i).xfault.isSome = true))) ∧
      (∀ (ad : Nat) (vs : List W32) (p : Place), x = .window (vs.map (fun v => (ad, v))) p → vs ≠ [] → ad % 4 = 0 →
        let b := blockOf ad
        let s1 := s.unitTags d .atomic [b]
        let v := s.view d.asid [b]
        s.saeFault v i ad = none →
        ∃ t y z, exec (.saeWindowApply i) s = .next t ∧ done t ∧ Seen s1 y d.asid [b] ∧ Leaves s1 t z d.asid [b] ∧
          (∀ k, t.tagOf k = s1.tagOf k) ∧
          (let h := y.hdrOf b
           let z0 (x : Nat) : Nat := if h = 0 then 0 else x
           KeepsOutside y z [b] ∧ z.hdrOf b = (if h = 0 then 0x7F70 else h) ∧
           z.load ad 4 = toF32 (exactSum (f32 (z0 (y.load ad 4)) :: vs.map (fun v => f32 v.toNat))) ∧
           (∀ j, blockOf j = b → ¬ (ad ≤ j ∧ j < ad + 4) → (z.byte j).toNat = z0 (y.byte j).toNat) ∧
           t.rowOps = s.rowsLeft z (insertRowOp 0)
             (unitRow i s.seq (fun k => if h = 0 then BitVec.allOnes 512 else writeMask k [⟨8 * ad, 32, 0, 0⟩])) [b]))))

/-! ### Events: traps, pre-emption, gangs -/

/-- TRAP_HANDLING: REFRESH_LATE resumes at its bundle, a SOFTWARE trap of the service's range after it (at the pending target,
or at the next bundle in sequence), with all scalar state as it stood; every other code discards the gang, the page of a block stored
with an error retired. WATCHDOG_SAMPLE counts the
samples of a gang alone on its core without an advance, the first after a start or a resume aside, from its first bundle on, issued or
held by a wait; the hundredth forces a pre-emption,
that of a gang that has not advanced since a forced one kills it; WATCHDOG_KILL discards a gang whose forced save is late. Where
nothing is due nothing happens (R342, R343, R351, R352, R362; where a SOFTWARE trap resumes is the model's reading, log 44, that a commit
bundle's mark stays is its choice, log 82, when a page is retired its reading, log 94, that a bundle held by a wait counts log 101). -/
def Obligations.RecoveryActs : Prop :=
  ∀ (s : State) (i : Sid),
    let a := s.str i
    let resumed (t : State) (pc : W64) (delay : Option W64) : Prop := t = s.setStr i { a with
      status := .running, record := none, la := [], lb := [], presented := false, sc := { a.sc with pc, delay } }
    (∀ r, a.record = some r → a.status = .trapped → a.actAt ≤ s.now →
      let code := (r.extractLsb' 0 8).toNat
      let imm := (r.extractLsb' 256 64).toNat
      ∃ t, exec (.trapHandling i) s = .next t ∧
        (code = TrapCode.refreshLate.num → resumed t a.sc.pc a.sc.delay) ∧
        (code = TrapCode.software.num → 0xFF00 ≤ imm →
          (∀ p, a.sc.delay = some p → resumed t p none) ∧
          (a.sc.delay = none → (∀ l, a.sc.loops.head? = some l → l.last ≠ a.sc.pc) →
            resumed t (BitVec.ofNat 64 (s.seqNext i a.sc.pc.toNat)) none)) ∧
        (code ≠ TrapCode.refreshLate.num → ¬ (code = TrapCode.software.num ∧ 0xFF00 ≤ imm) →
          ∃ m, Discards m t i .faulted ∧ t.service = m.service ∧
            (∀ p, s.brokenPage i r = some p → Retires s m (5, p)) ∧ (s.brokenPage i r = none → m = s))) ∧
    (¬ (a.record.isSome = true ∧ a.status = .trapped ∧ a.actAt ≤ s.now) → exec (.trapHandling i) s = .next s) ∧
    (let o := s.str (Sid.other i)
     o.sampled false = false → o.task.members.toNat ≤ 1 → a.task.members.toNat ≤ 1 →
      (a.sampled false = false → exec .watchdogSample s = .next { s with nextGrid := s.nextGrid + 1200000, free := s.free + 2 }) ∧
      (a.status = .running ∨ a.status = .trapped ∨ a.status = .finished → a.unsampled = false ∨ a.wait.isSome = true →
        let moved : Bool := a.lastProg.isSome && a.lastProg != some a.progress
        let still := if a.lastProg = none ∨ moved = true then 0 else a.still + 1
        let noted : Stream := { a with lastProg := some a.progress, still, resumed := a.resumed && !moved, unsampled := false }
        let becomes (t : State) (x : Stream) : Prop :=
          t = { s.setStr i x with nextGrid := s.nextGrid + 1200000, free := s.free + 2 }
        ∃ t, exec .watchdogSample s = .next t ∧ t.nextGrid = s.nextGrid + 1200000 ∧
          (still ≠ 100 → becomes t noted) ∧
          (still = 100 → a.resumed = false → becomes t { noted with preempt := true, saveBy := some (s.now + 12000000) }) ∧
          (still = 100 → a.resumed = true → Discards s t i .killed))) ∧
    (∀ c, a.saveBy = some c → c ≤ s.now → ∃ t, exec (.watchdogKill i) s = .next t ∧ Discards s t i .killed) ∧
    ((∀ c, a.saveBy = some c → s.now < c) → exec (.watchdogKill i) s = .next s)

/-- The segments of a saved context: header, payload and CRC, pieces of at most 4096 bytes in order, the End segment with their number.
PREEMPTION_REQUEST marks a stream that has a task on the core. CONTEXT_SAVE writes the context of a stopped, quiet stream to its save
area, puts its domains to sleep and takes its copies with it. CONTEXT_RESTORE checks the segments of a context that fits again and
queues its wakes, and brings scalars, rows, masks, banks and copies back when every domain is awake, a sync word of a message written
meanwhile counting then; segments that fail trap the gang with UNCORRECTABLE (R89, R286, R297, R341, R344 to R350; the layout of
payloads and the save area's place are the model's, log 83, that a save and a restore take one step and a context resumes as soon as it
fits is the model's choice, log 43). -/
def Obligations.ContextsSwitch : Prop :=
  (∀ (q kind : Nat) (data : List Byte), q < 2 ^ 32 → kind < 2 ^ 16 → data.length ≤ 4096 →
    let b := segBytes q kind data
    let at' (lo n : Nat) : Nat := ofBytes ((b.drop lo).take n)
    b.length = 16 + data.length ∧ at' 0 4 = q ∧ at' 4 2 = kind ∧ at' 6 2 = 0 ∧ at' 8 4 = data.length ∧
    at' 12 4 = crc32c (12 + data.length) (ofBytes (b.take 12 ++ data)) % 2 ^ 32 ∧ b.drop 16 = data) ∧
  (∀ items : List (Nat × List Byte),
    let segs := segments items
    (∀ x ∈ segs, 1 ≤ x.2.length ∧ x.2.length ≤ 4096) ∧ segs.dropLast.flatMap (·.2) = items.flatMap (·.2) ∧
    segs.getLast? = some (0x0F, toBytes 4 (segs.length - 1))) ∧
  ∀ (s : State) (i : Sid),
    let a := s.str i
    (a.status = .running ∨ a.status = .trapped ∨ a.status = .finished →
      exec (.preemptionRequest i) s = .next (s.setStr i { a with preempt := true })) ∧
    (a.status = .idle ∨ a.status = .saved ∨ a.status = .restoring → exec (.preemptionRequest i) s = .next s) ∧
    (s.stopped i = true → s.saveQuiet i = true → ∃ t c, exec (.contextSave i) s = .next t ∧ t.saved = c :: s.saved ∧
      (let bs := saveBytes (s.contents c)
       let mine (x : Nat) : Prop := ∃ b, b < 16 ∧ (s.dom (7 + b)).owner = some i ∧ bankBase s.coreNo.toNat b ≤ x ∧
         x < bankBase s.coreNo.toNat b + 0x2_0000
       (∀ k x, bs[k]? = some x → ¬ mine (s.saveArea i + k) → t.byte (s.saveArea i + k) = x) ∧
       ∀ x, ¬ (s.saveArea i ≤ x ∧ x < s.saveArea i + bs.length) → (mine x → t.byte x = 0) ∧ (¬ mine x → t.byte x = s.byte x)) ∧
      t.copies = s.copies.filter (fun x => x.sid != i) ∧
      t.rowOps = s.rowOps.filter (fun o => !(s.copies.filter (fun x => x.sid == i)).any (fun x => o.acc == some x.id)) ∧
      t.str i = { a with
        status := .saved, saveBy := none, preempt := false, la := [], lb := [], ports := [], recvs := [], owed := []
        sae := { a.sae with subs := [], opened := [] } } ∧
      (∀ d, d < 23 → (s.dom d).owner = some i → t.dom d = Dom.off) ∧
      c.sid = i ∧ c.forced = a.saveBy.isSome ∧ c.posts = [] ∧
      c.stream = { a with ports := a.ports.map (fun p => (p.1, p.2.map Port.saved)), la := [], lb := [], presented := false,
                          lateAt := none } ∧
      (∀ d v, (d, v) ∈ c.doms ↔ d < 23 ∧ (s.dom d).owner = some i ∧ v = s.dom d) ∧
      (∀ k, SMap.get Row.start c.rows k =
        let lo := 64 * physTile i a.task.tiles 0
        if lo ≤ k ∧ k < lo + 64 * a.task.tiles then s.row k else Row.start) ∧
      (∀ x, SMap.get 0 c.bytes x = if (List.range 16).any (fun b => s.hasAwake i (7 + b) &&
        decide (bankBase s.coreNo.toNat b ≤ x) && decide (x < bankBase s.coreNo.toNat b + 0x2_0000)) then s.byte x else 0) ∧
      (s.hasAwake i 0 = true → c.masks = s.masks ∧ c.xvs = s.xvs) ∧
      (s.hasAwake i 5 = true → c.rowBuf = (s.active, s.shadow, s.pass) ∧ c.banks = (s.bank0, s.bank1, s.work1)) ∧
      c.copies = s.copies.filter (fun x => x.sid == i)) ∧
    (¬ (s.stopped i = true ∧ s.saveQuiet i = true) → exec (.contextSave i) s = .next s) ∧
    (∀ c, s.savedOf i = some c → a.status = .saved →
      (s.fitsBack i = false → exec (.contextRestore i) s = .next s) ∧
      (s.fitsBack i = true → s.savePasses i = true → ∃ t, exec (.contextRestore i) s = .next t ∧
        t.str i = { a with status := .restoring } ∧
        t.setStr i a = { s with doms := t.doms, wakeQ := t.wakeQ, power := t.power } ∧
        ∀ p ∈ c.doms, (s.dom p.1).st = .asleep → ⟨true, p.1⟩ ∉ s.wakeQ →
          (t.dom p.1).owner = some i ∧ ((t.dom p.1).st = .queued ∨ (t.dom p.1).st = .waking)) ∧
      (s.fitsBack i = true → s.savePasses i = false → ∃ t r, exec (.contextRestore i) s = .next t ∧
        t.saved = s.saved.filter (fun x => x.sid != i) ∧ (t.str i).status = .trapped ∧ (t.str i).record = some r ∧
        RecordOf s i { rank := 9, slot := 0xFF, code := .uncorrectable, addr := s.saveArea i, sub := 0 } r)) ∧
    (∀ c, s.savedOf i = some c → a.status = .restoring →
      (s.unqueued c = false → s.allBack i c = false → exec (.contextRestore i) s = .next s) ∧
      (s.unqueued c = false → s.allBack i c = true → SMap.wf Row.start c.rows = true → SMap.wf 0 c.bytes = true →
      ∃ t m, exec (.contextRestore i) s = .next t ∧ t.saved = s.saved.filter (fun x => x.sid != i) ∧
        t.copies = s.copies ++ c.copies ∧ t.rowOps = s.rowOps ++ c.copies.flatMap s.copyHolds ∧
        t.str i = { c.stream with
          status := if c.stream.status = .finished then .finished else .running
          preempt := false, saveBy := none, atSafe := false, resumed := c.forced, still := 0, lastProg := none, unsampled := true
          refreshDue := c.stream.refreshDue.orElse (fun _ => a.refreshDue), holdTmo := c.stream.holdTmo.orElse (fun _ => a.holdTmo)
          xfault := c.stream.xfault.orElse (fun _ => a.xfault), overshoot := (t.str i).overshoot
          sc := { c.stream.sc with safeCount := 0 } } ∧
        (∀ k, let lo := 64 * physTile i c.stream.task.tiles 0
          (k ∈ c.rows.map (·.1) → t.row k = SMap.get Row.start c.rows k) ∧
          (k ∉ c.rows.map (·.1) → t.row k =
            if lo ≤ k ∧ k < lo + 64 * c.stream.task.tiles then Row.start else s.row k)) ∧
        (∀ x, State.byte m x = if x ∈ c.bytes.map (·.1) then SMap.get 0 c.bytes x else s.byte x) ∧
        (c.posts = [] → t.mem = m.mem) ∧
        (∀ y n, c.posts = [(y, n)] → KeepsBytes m t y 8 ∧ t.word y = (syncAdd (m.word y) n).1) ∧
        ((∃ v, (0, v) ∈ c.doms ∧ v.st = .awake) → t.masks = c.masks ∧ t.xvs = c.xvs) ∧
        ((∃ v, (5, v) ∈ c.doms ∧ v.st = .awake) →
          (t.active, t.shadow, t.pass) = c.rowBuf ∧ (t.bank0, t.bank1, t.work1) = c.banks)))

/-- GANG_START: a step of the queue that ends without running ends: out of order FAULTED, with a failed predecessor ABORTED, empty DONE.
Else the head of the queue, if it may, starts: its gang takes the session's lowest free gang slot; the member of this core begins its
slice of the tiles with a fresh stream, cleared tile rows, its wake set queued and a segment checkpoint, and one with an empty slice is
finished; or the secondary gangs in its way are asked to leave. GANG_COMPLETION: a finished gang ends DONE with its tile count and its
slot's phase advances; another member's trap discards it, the watchdog kills it, also where it runs on other cores (R195, R252, R275 to
R277, R280 to R287, R289, R342, R352; the numbers of steps are log 40; that every refresh group counts from the task's start is the
model's reading, log 21, and that a member with an empty slice holds no tiles and banks log 89). -/
def Obligations.GangsRun : Prop :=
  (∀ (s : State) (q : BitVec 6) (p : PlanStep), s.endingStep q.toNat = some p →
    let fs := p.preds.map (s.predFate p)
    let order : Prop := PredFate.unknown ∈ fs ∧ s.head p.queue = some p
    ∃ t st fault, exec (.gangStart q) s = .next t ∧ StepEnds s t p st fault 0 ∧
      t = { s with mem := t.mem, bb := t.bb, bbCount := t.bbCount, results := t.results, queues := t.queues, gangs := t.gangs,
                   headSince := t.headSince } ∧
      (order → (st, fault) = (.faulted, 0x48)) ∧ (¬ order → PredFate.failed ∈ fs → (st, fault) = (.aborted, 0)) ∧
      (¬ order → PredFate.failed ∉ fs → (st, fault) = (.done, 0) ∧ recTiles p.record = 0 ∧ ∀ f ∈ fs, f = .done)) ∧
  (∀ (s : State) (q : BitVec 6), s.endingStep q.toNat = none →
    (s.headAct q.toNat = .wait → exec (.gangStart q) s = .next s) ∧
    (∀ g, s.headAct q.toNat = .displace g →
      let here := s.inTheWayHere g || (s.inTheWay g).any s.onCore
      ∃ t u out, exec (.gangStart q) s = .next t ∧ s.now < out ∧
        u = { s with
          free := s.free + 1
          gangs := s.gangs.map (fun o => if (s.inTheWay g).contains o && !s.onCore o && o.out.isNone then { o with out := some out } else o) } ∧
        t = if here then State.setStr u .sec { s.sec with preempt := true } else u) ∧
    (∀ g k, s.headAct q.toNat = .start g → 
      (s.sessions.find? (fun y => y.asid == g.step.asid)).bind (fun x => x.kernel g.step.record) = some k →
      let p := g.step
      let i : Sid := if g.sec then .sec else .prim
      ∃ t x, exec (.gangStart q) s = .next t ∧ s.head q.toNat = some p ∧ g.sec = (rw p.record 2).getLsbD 18 ∧
        s.sessions.find? (fun y => y.asid == p.asid) = some x ∧ g.cores = s.placed x k p.record ∧
        (∀ h, h < g.slot → h ∈ x.taken) ∧ g.slot ∉ x.taken ∧
        t.sessions = s.sessions.map (fun y => if y.asid = p.asid then { y with taken := g.slot :: y.taken } else y) ∧
        t.queues = s.queues.filter (fun y => !(y.queue == p.queue && y.num == p.num)) ∧ t.gangs = g :: s.gangs ∧
        t.headSince = SMap.set 0 s.headSince p.queue 0 ∧
        (s.coreNo.toNat ∉ g.cores →
          t = { s with sessions := t.sessions, queues := t.queues, gangs := t.gangs, headSince := t.headSince }) ∧
        ∀ m, g.cores.findIdx? (fun c => c == s.coreNo.toNat) = some m →
          let n := g.cores.length
          let total := recTiles p.record
          let task := mkTask p k g.slot m n
          let pr := (rw p.record 5).toNat / 2 ^ 18 % 16
          let sc : Scalars := { Scalars.start with
            pc := BitVec.ofNat 64 ((rw p.record 0).toNat % 2 ^ 56), profile := BitVec.ofNat 4 (if pr = 0 then k.profile else pr) }
          task.tix = m * total / n ∧ task.tixEnd = (m + 1) * total / n ∧ task.param = rw p.record 6 ∧ task.tiles = k.tiles ∧
          (task.tixEnd ≤ task.tix →
            t.str i = { Stream.idle with status := .finished, task := { task with tiles := 0, banks := 0 }, sc } ∧
            ∀ r, t.row r = s.row r) ∧
          (task.tix < task.tixEnd →
            t.str i = { Stream.idle with status := .running, task, sc, ckpt := some ⟨sc, [], s.seq, false, task.tix, 0, 0⟩ } ∧
            (∀ d, d < 23 → (wf k.w1 0 23).testBit d = true →
              let e := if d < 7 then d else d + (match i with | .prim => 0 | .sec => 16 - k.banks)
              (s.dom e).st = .asleep → ⟨true, e⟩ ∉ s.wakeQ → (t.dom e).owner = some i ∧ ((t.dom e).st = .queued ∨ (t.dom e).st = .waking)) ∧
            (k.refresh = true → ∀ r, r < 64 → (t.refGroup (coreL s.coreNo.toNat) r).last = s.now) ∧
            ∀ r, let lo := 64 * physTile i k.tiles 0
              t.row r = if lo ≤ r ∧ r < lo + 64 * k.tiles then Row.start else s.row r))) ∧
  (∀ (s : State) (i : Sid) (f : BitVec 8) (killed : Bool),
    let a := s.str i
    let k := a.task
    (a.status = .finished → ∃ t, exec (.gangCompletion (.here i 0 killed)) s = .next t ∧ t.str i = Stream.idle ∧
      StepEnds s t k.step .done 0 (if k.members.toNat ≤ 1 then k.ended else k.ext.foldl (· * ·) 1) ∧
      PhaseAdvances s t k.asid k.gslot.toNat) ∧
    (f ≠ 0 → 1 < k.members.toNat → a.status ≠ .idle → ∃ t, exec (.gangCompletion (.here i f killed)) s = .next t ∧
      Discards s t i (if killed then .killed else .faulted))) ∧
  (∀ (s : State) (g : Gang) (q : BitVec 6) (n : Nat) (f : BitVec 8) (killed : Bool),
    s.gangs.find? (fun x => x.step.queue == q.toNat && x.step.num == n && !s.onCore x) = some g →
    ∃ t count, exec (.gangCompletion (.away q n f killed)) s = .next t ∧ (f = 0 → count = recTiles g.step.record) ∧
      StepEnds s t g.step (if f = 0 then .done else if killed then .killed else .faulted) f.toNat count ∧
      PhaseAdvances s t g.step.asid g.slot)

/-! ### Requests of hosts -/

/-- CREATE, LOAD, POST and TEARDOWN, as the service hears them: what refuses each, and what an accepted one does: a session with the
lowest free ASID, its frames reading NONE, zero and FRESH, its first rates, and the fabric domain to be joined; an object's sections
written where the session's pages put them, with their block headers, and measured; a plan's steps queued in order, none of which names
another session's queue; a queue cut, its gangs and steps and the session's steps that depend on them ABORTED; a session released (R37, R78, R275, R284, R288, R324 to R328, R331, R333,
R336, R337, R382; the order in which CREATE's statuses are judged and the choice of the lowest ASID are the model's, log 39, the time
an ASID is kept back is log 37, the number of kernel headers log 46, a page that is retired log 94, an object past
its end log 84, at most 255 measurements log 86, that a predecessor's queue of another session is NOSESSION log 115). -/
def Obligations.SessionRequests : Prop :=
  ∀ s : State,
    (∀ r : CreateReq, s.serves 1 r.hdr = true →
      let bad : Prop := r.xmax < r.xmin ∨ r.ymax < r.ymin ∨ 8 < (r.keys.getD []).length
      let pages : Bool := r.pages.all (fun m => mappingFine r m && !s.onRetired m) && mappingsApart r.pages
      let rates : Bool := r.classes.all (fun c => rateFine c.2 && Config.rateCarried c.2.toNat)
      ∃ t, exec (.create r) s = .next t ∧
        (bad → OnlyAnswers s t 1 r.hdr 2 0 []) ∧
        (¬ bad → s.createBusy r = true → OnlyAnswers s t 1 r.hdr 5 0 []) ∧
        (¬ bad → s.createBusy r = false → pages = false → OnlyAnswers s t 1 r.hdr 4 0x0201 []) ∧
        (¬ bad → s.createBusy r = false → pages = true → rates = false → OnlyAnswers s t 1 r.hdr 4 0x0202 []) ∧
        (¬ bad → s.createBusy r = false → pages = true → rates = true → ∃ n x,
          let inside (a : Nat) : Prop := ∃ m ∈ r.pages, m.entry.getLsbD 0 = true ∧ frameAddr m.entry m.va ≤ a ∧
            a < frameAddr m.entry m.va + pageSize m.entry
          s.freeAsid = some n ∧ Answers s t 1 { r.hdr with asid := BitVec.ofNat 12 n } 0 0 [n] ∧ t.sessions = s.sessions ++ [x] ∧
          x.asid = BitVec.ofNat 12 n ∧ (x.xmin, x.xmax, x.ymin, x.ymax) = (r.xmin.toNat, r.xmax.toNat, r.ymin.toNat, r.ymax.toNat) ∧
          x.pages = r.pages ∧ x.queues = r.queues.map (fun q => (q.1.toNat, q.2.toNat)) ∧ x.assoc = r.assoc ∧
          x.classes = r.classes.map (·.1.toNat) ∧ x.keys = r.keys ∧ x.kernels = [] ∧ x.phases = [] ∧ x.taken = [] ∧
          (∀ a, (inside a → t.byte a = 0 ∧ t.lane a = 0 ∧ t.isBad a = false) ∧
            (¬ inside a → t.byte a = s.byte a ∧ t.lane a = s.lane a ∧ t.isBad a = s.isBad a)) ∧
          (x.hasCore s.coreNo.toNat = true → t.window = r.window.getD true ∧ t.strict = r.strict.getD false) ∧
          (x.hasCore s.coreNo.toNat = false → t.window = s.window ∧ t.strict = s.strict) ∧
          (r.classes ≠ [] → s.fabric.member = false → s.fabric.cut = false → s.fabric.joining = none → ∃ k, t.fabric.joining = some k) ∧
          (r.classes = [] ∨ s.fabric.member = true ∨ s.fabric.cut = true ∨ s.fabric.joining ≠ none → t.fabric = s.fabric) ∧
          (r.classes.Pairwise (fun c d => c.1 ≠ d.1) → ∀ c ∈ r.classes, SMap.get 1 t.fabRates c.1.toNat = c.2))) ∧
    (∀ r : LoadReq, s.serves 2 r.hdr (some r.object.length) = true →
      let o := r.object
      ∃ t, exec (.load r) s = .next t ∧
        (s.reqSession r.hdr = none → OnlyAnswers s t 2 r.hdr 3 0 []) ∧
        ∀ x, s.reqSession r.hdr = some x →
          let why := State.loadRefusal (some x) (r.hdr.flags.getLsbD 0) o
          let apart : Prop := ∀ a b, inSections o a → inSections o b → s.phys x.asid a = s.phys x.asid b → a = b
          (objFields o = false → OnlyAnswers s t 2 r.hdr 2 0 []) ∧
          (objFields o = true → 255 ≤ s.service.measures.length → OnlyAnswers s t 2 r.hdr 5 0 []) ∧
          (objFields o = true → s.service.measures.length < 255 → why ≠ 0 → OnlyAnswers s t 2 r.hdr 4 why []) ∧
          (objFields o = true → s.service.measures.length < 255 → why = 0 →
            Answers s t 2 r.hdr 0 0 [] ∧
            (apart → ∀ c ∈ objSections o, ∀ j, j < c.size → t.byte (s.phys x.asid (c.base + j)) = o.getD (c.offset + j) 0) ∧
            (∀ a, (∀ v, inSections o v → s.phys x.asid v ≠ a) → t.byte a = s.byte a) ∧
            (apart → (∀ c ∈ objSections o, c.base % 64 = 0) → ∀ c ∈ objSections o, ∀ j, 64 * j < c.size →
              c.kind = 1 ∨ c.base + 64 * j ∈ objHeaders o → t.hdrOf (s.phys x.asid (c.base + 64 * j)) = 0x7F10) ∧
            t.service = { s.service with measures := s.service.measures ++ [(3, x.asid.toNat, Config.digest o)] } ∧
            ∀ a ∈ objHeaders o, ∃ y ∈ t.sessions, y.asid = x.asid ∧
              (⟨a, rw (objKernel o a) 0, rw (objKernel o a) 1, rw (objKernel o a) 2⟩ : Kernel) ∈ y.kernels)) ∧
    (∀ r : PostReq, s.serves 3 r.hdr = true →
      let q := r.queue.toNat
      let odd : Prop := r.steps = [] ∨ 1024 < r.steps.length ∨ ∃ p ∈ r.steps, 8 < p.preds.length ∨ p.record.length ≠ 8
      ∃ t, exec (.post r) s = .next t ∧
        (s.reqSession r.hdr = none → OnlyAnswers s t 3 r.hdr 3 0 []) ∧
        ∀ x, s.reqSession r.hdr = some x →
          let preds (p : PostStep) : List (Nat × Nat) := p.preds.map (fun y => (y.1.toNat, y.2))
          let check (p : PostStep) : Nat := s.launchCheck x q p.record
            (s.endsAtOnce s.atOnce ⟨q, SMap.get 0 s.stepNums q, x.asid, p.record, preds p⟩).isNone
          let strange : Prop := ∃ p ∈ r.steps, ∃ y ∈ p.preds, ∃ z ∈ s.sessions, z.asid ≠ x.asid ∧ ∃ k ∈ z.queues, k.1 = y.1.toNat
          ((∀ y ∈ x.queues, y.1 ≠ q) ∨ strange → OnlyAnswers s t 3 r.hdr 3 0 []) ∧
          ((∃ y ∈ x.queues, y.1 = q) → ¬ strange →
            (odd → OnlyAnswers s t 3 r.hdr 2 0 []) ∧
            (¬ odd → ∀ p, r.steps.head? = some p → check p ≠ 0 → OnlyAnswers s t 3 r.hdr 4 (check p) []) ∧
            (¬ odd → (∀ p ∈ r.steps, check p = 0) →
              (s.queues.filter (fun p => p.queue == q)).length + r.steps.length ≤ 1024 →
              Answers s t 3 r.hdr 0 0 [] ∧
              t = { s with queues := t.queues, stepNums := t.stepNums, responses := t.responses } ∧
              t.queues = s.queues ++ r.steps.zipIdx.map (fun (p, j) =>
                ⟨q, SMap.get 0 s.stepNums q + j, x.asid, p.record, preds p⟩)))) ∧
    (∀ (h : ReqHdr) (q : BitVec 6), s.serves 4 h = true → ∃ t, exec (.teardownQueue h q) s = .next t ∧
      (s.reqSession h = none → OnlyAnswers s t 4 h 3 0 []) ∧
      ∀ x, s.reqSession h = some x →
        ((∀ y ∈ x.queues, y.1 ≠ q.toNat) → OnlyAnswers s t 4 h 3 0 []) ∧
        ((∃ y ∈ x.queues, y.1 = q.toNat) →
          let ended (p : PlanStep) : Prop := ((p.queue, p.num), EvStatus.aborted) ∈ t.results
          t.responses.head? = some ⟨0x84, h.id, h.asid, 0, 0, []⟩ ∧ (∀ p ∈ t.queues, p.queue ≠ q.toNat) ∧
          (∀ i, (s.str i).status ≠ .idle → (s.str i).task.queue = q.toNat → (t.str i).status = .idle) ∧
          (∀ p ∈ s.queues, p.queue = q.toNat → ended p) ∧
          ∀ p ∈ s.queues, ∀ o ∈ s.queues, o.queue = q.toNat → (∀ i, (s.str i).task.stepNo ≠ o.num) →
            p.asid = x.asid → (o.queue, o.num) ∈ p.preds → ended p)) ∧
    (∀ h : ReqHdr, s.serves 4 h = true → ∃ t, exec (.teardownSession h) s = .next t ∧
      (s.reqSession h = none → OnlyAnswers s t 4 h 3 0 []) ∧
      ∀ x, s.reqSession h = some x →
        t.responses.head? = some ⟨0x84, h.id, h.asid, 0, 0, []⟩ ∧ (∀ y ∈ t.sessions, y.asid ≠ h.asid) ∧
        (∀ c ∈ x.classes, SMap.get 1 t.fabRates c = 1) ∧ (∀ r ∈ t.results, ∀ y ∈ x.queues, r.1.1 ≠ y.1) ∧
        (∃ n, (x.asid.toNat, n) ∈ t.service.freed ∧ s.fabric.period + 65536 < n) ∧
        (x.hasCore s.coreNo.toNat = true → t.window = true ∧ t.strict = false))

/-- What every request meets: with no service running nothing happens; a packet of another service is counted and dropped; one over
another association has no effect; a broken header is BADFIELD; tethered mode refuses every kind but DIAG and FWUPDATE, with the lowest
detail that holds. TELEMETRY, BLACKBOX and ATTEST answer with their report and change nothing; DIAG answers with the stage and clears
retirements; FWUPDATE writes the other image, which is measured, and the power firmware is absent meanwhile; an unlisted kind is
BADKIND; the operator's settings write the ramp register unless the value is excluded (R36, R37, R300, R301, R332, R333, R336, R337,
R362, R366, R370; what a request over another association meets is the model's choice, log 85, at most 255 measurements are kept, log
86, which bodies' lengths are compared and when a connection is up log 114, the details of a LOAD without a session log 115). -/
def Obligations.ReportRequests : Prop :=
  ∀ s : State,
    (∀ (i : Instr) (kind : Nat) (h : ReqHdr) (body : Option Nat) (detail : Nat), s.requestOf i = some (kind, h, body, detail) →
      let answered (status d : Nat) : Prop := ∃ t, exec i s = .next t ∧ OnlyAnswers s t kind h status d s.report
      (s.serving = false → exec i s = .next s) ∧
      (s.serving = true → h.rud = false →
        exec i s = .next { s with service := { s.service with dropped := s.service.dropped + 1 } }) ∧
      (s.serving = true → h.rud = true → s.secured h = false → exec i s = .next s) ∧
      (s.serving = true → h.rud = true → s.secured h = true → headerFine kind h body = false → answered 2 0) ∧
      (s.hears kind h body = true → s.service.health = .tethered → kind ≠ 8 → kind ≠ 9 →
        answered 4 (if detail = 0 then 0x0301 else detail))) ∧
    (∀ h : ReqHdr,
      (s.serves 5 h = true → ∃ t, exec (.telemetry h) s = .next t ∧
        (s.reportFor h = false → OnlyAnswers s t 5 h 3 0 []) ∧
        (s.reportFor h = true → OnlyAnswers s t 5 h 0 0
          ([s.service.health.num, s.service.failCode.getD 0, s.fabric.late, s.service.dropped] ++
            s.power.samples.reverse.flatMap (fun x => (toBytes 32 x.toNat).map (·.toNat))))) ∧
      (s.serves 6 h = true → ∃ t, exec (.blackbox h) s = .next t ∧
        (s.reportFor h = false → OnlyAnswers s t 6 h 3 0 []) ∧
        (s.reportFor h = true → OnlyAnswers s t 6 h 0 0 (s.bb.reverse.flatMap (fun e => (toBytes 32 e.data.toNat ++
          toBytes 6 (e.stamp / 10 ^ 9) ++ toBytes 4 (e.stamp % 10 ^ 9) ++ toBytes 2 e.kind ++ toBytes 4 e.num.toNat).map (·.toNat))))) ∧
      ∀ nonce : BitVec 512, s.serves 7 h (some 64) = true → ∃ t body, exec (.attest h nonce) s = .next t ∧ OnlyAnswers s t 7 h 0 0 body ∧
        let ms := s.service.measures
        let at' (lo : Nat) (bs : List Byte) : Prop := (body.drop lo).take bs.length = bs.map (·.toNat)
        body.length = 88 + 72 * ms.length + 4627 ∧ at' 0 (toBytes 64 nonce.toNat) ∧ at' 64 (toBytes 16 Config.serial.toNat) ∧
        at' 80 (toBytes 4 ms.length ++ toBytes 4 0) ∧
        ∀ j m, ms[j]? = some m → at' (88 + 72 * j) (toBytes 4 m.1 ++ toBytes 4 m.2.1 ++ toBytes 64 m.2.2.toNat)) ∧
    (∀ h : ReqHdr,
      (∀ clear, s.hears 8 h = true → ∃ t, exec (.diag h clear false) s = .next t ∧
        Answers s t 8 h 0 0 [s.service.stage, s.service.failCode.getD 0] ∧
        t = { s with responses := t.responses, halfWidth := if clear then false else s.halfWidth
                     fabric := if clear then { s.fabric with linksDown := [] } else s.fabric
                     service := { s.service with retired := if clear then [] else s.service.retired } }) ∧
      (∀ image : List Byte, s.hears 9 h (some image.length) = true → ∃ t, exec (.fwupdate h image) s = .next t ∧
        Answers s t 9 h 0 0 s.report ∧ t.power.firmware = false ∧
        t.service = { s.service with
          written := true, measures := (s.service.measures ++ [(2, 0, Config.digest image)]).take 255
          imgA := if s.service.imageB then image else s.service.imgA
          imgB := if s.service.imageB then s.service.imgB else image }) ∧
      (∀ (kind : BitVec 8) (bytes : List Byte), s.serves kind.toNat h (some bytes.length) = true →
        (kind = 0 ∨ 9 < kind.toNat → ∃ t, exec (.badkind h kind bytes) s = .next t ∧ OnlyAnswers s t kind.toNat h 1 0 []) ∧
        (kind ≠ 0 → kind.toNat ≤ 9 → exec (.badkind h kind bytes) s = .next s))) ∧
    (∀ (ramp : W64) (assoc : Nat), ∃ t, exec (.redfishSettings ramp assoc) s = .next t ∧
      let up := ramp.toNat % 2 ^ 16
      let down := ramp.toNat / 2 ^ 16 % 2 ^ 16
      t = { s with
        pwrRamp := if 1 ≤ up ∧ up ≤ 1000 ∧ 1 ≤ down ∧ down ≤ 1000 ∧ ramp.toNat < 2 ^ 32 then ramp else s.pwrRamp
        service := { s.service with tetherKey := assoc } })

/-! ### Events: power -/

/-- The power envelope. BALANCE_WINDOW acts by the table of R293 on the pair's powers, compares the pair's limit, sets the bridle of
the window to the highest of its sources and admits wakes; the other core's wakes of the window are to come. RAMP_STEP moves the
reference, the ramp bridle and the ballast, places filler gangs where ballast does not reach, and restarts the reference where both do
not. THERMAL_OBSERVER_STEP moves valves, zone bridles and requests while its firmware is present, and counts its silence; on a PVF40-P it
writes the openings to the valve targets one after the other, each opening its valve for 5 ms.
THERMAL_TRIP at 105 °C, and its clearing when every sensor reads below 100 °C. POWER_SAMPLE keeps the 32 bytes of a sample. The
firmware's absence opens every valve, its presence ends the silence (R292 to R296, R298 to R301, R320, R321, R377, R378). Powers are in units of
0.01 W; what is measured is any value. That the level of a window is taken at its start is the model's reading, log 41, what a trip and
a hold do to the reference is log 42, over which segments ballast spreads is log 79; that filler gangs leave when the target does not
exceed the ballast is the model's choice, log 43, as are the times of the valve writes, log 105, and which sensors are hot its reading,
log 64. -/
def Obligations.PowerActs : Prop :=
  ∀ s : State,
    let p := s.power
    let zone := s.coreNo.toNat / 16 % 8
    let burn := 75 * ((List.range 512).filter (fun k => k ∈ p.ballast ∨ k ∈ p.pairSegs ∨ k ∈ p.otherSegs)).length
    burn ≤ 38400 ∧
    (∃ t u mine other, exec .balanceWindow s = .next t ∧ Admits u t ∧
      u = { s with wakeQ := u.wakeQ, power := u.power, free := s.free + 1 } ∧
      let q := u.power
      let d := if mine < other then other - mine else mine - other
      let slow := if s.fabric.member then s.fabric.throttle else max p.rampBridle (p.zones.getD zone 0)
      let seg := pairSegments s.coreNo.toNat
      let lighter := if other < mine then seg.2 else seg.1
      let on := if p.tripped then [] else if lighter ∈ p.pairSegs then p.pairSegs else p.pairSegs ++ [lighter]
      q = { p with
        balBridle := q.balBridle, balPeer := q.balPeer, pairSegs := q.pairSegs, otherSegs := q.otherSegs, deferred := q.deferred
        partner := q.partner, ahead := q.ahead, level := q.level, pairOver := decide (p.pairLimit < mine + other)
        nextWindow := (s.now / 8 + 1) * 8 } ∧
      (u.wakeQ = s.wakeQ ∧ q.partner = p.partner ∨ u.wakeQ = s.wakeQ.filter (·.mine) ∧ q.partner = []) ∧
      (∀ w ∈ q.ahead, s.now / 8 * 8 ≤ w.1 ∧ w.1 < s.now / 8 * 8 + 8 ∧ w.2 < 23) ∧
      (d ≤ 60 → q.balBridle = p.balBridle - 1 ∧ q.balPeer = p.balPeer - 1 ∧ q.deferred = none ∧
        q.pairSegs = if q.balBridle = 0 ∧ q.balPeer = 0 then [] else p.pairSegs) ∧
      (60 < d → d ≤ 135 → q.balBridle = p.balBridle ∧ q.balPeer = p.balPeer ∧ q.deferred = none ∧
        q.pairSegs = if d ≤ 120 ∧ p.pairSegs ≠ [] ∧ p.balBridle = 0 ∧ p.balPeer = 0 then [] else on) ∧
      (135 < d → q.pairSegs = on ∧ q.deferred = some (decide (other < mine)) ∧
        q.balBridle = (if other < mine then min 7 (p.balBridle + 1) else p.balBridle) ∧
        q.balPeer = if other < mine then p.balPeer else min 7 (p.balPeer + 1)) ∧
      (p.tripped = true → q.otherSegs = []) ∧ (∀ k ∈ q.otherSegs, k < 512 ∧ k ≠ seg.1 ∧ k ≠ seg.2) ∧
      q.level = [q.balBridle, slow, if q.pairOver then 7 else 0, if p.tripped then 8 else 0].foldl max 0) ∧
    (∃ t power fill, exec .rampStep s = .next t ∧
      t = { s with power := t.power, free := s.free + 1, bb := t.bb, bbCount := t.bbCount, filler := t.filler } ∧
      let d := power - burn
      let up := s.pwrRamp.toNat % 2 ^ 16
      let down := s.pwrRamp.toNat / 2 ^ 16 % 2 ^ 16
      let hold := s.fabric.hold
      let r := if hold then
          (if 38400 < p.ref - d then max (d + 38400) (if p.tripped then 0 else p.ref - down) else p.ref)
        else if p.ref < d then min d (p.ref + up) else if p.tripped then d else max d (p.ref - down)
      let bridle := if hold then p.rampBridle else if r < d then min 7 (p.rampBridle + 1)
        else if 1000 * d < 995 * r ∨ p.rampBridle = 0 then p.rampBridle - 1 else p.rampBridle
      let restarts : Prop := p.tripped = false ∧ hold = false ∧ 38400 + fill < r - d
      let q := t.power
      q = { p with ref := q.ref, rampBridle := bridle, target := q.target, ballast := q.ballast, nextRamp := p.nextRamp + 12000 } ∧
      (¬ restarts → q.ref = r ∧ q.target = r - d ∧ Logs s t []) ∧
      (restarts → q.ref = d + burn ∧ q.target = burn ∧ Logs s t [(0x010B, 0xFFFF, 0, r / 10, d / 10, 0)]) ∧
      q.ballast = (if p.tripped then [] else ((List.range 512).filter (fun k => !(p.pairSegs ++ p.otherSegs).contains k)).take
        (min 512 ((q.target + 74) / 75) - (p.pairSegs ++ p.otherSegs).length)) ∧
      (r - d ≤ 38400 → t.filler = none) ∧
      (38400 < r - d → t.filler = s.filler ∨ (s.sec.status = .idle ∧ s.filler = none ∧ t.filler = some 0))) ∧
    (∀ b v rest, p.i3c = (b, v) :: rest → p.i3cAt ≤ s.now → ∃ t c, exec .thermalObserverStep s = .next t ∧
      t = { s with
        free := if rest = [] then s.free else s.free + 1
        power := { p with i3c := rest, i3cAt := if rest = [] then p.i3cAt else c, board := p.board.set (b - 0x30) (v, s.now + 6000000) } } ∧
      s.now < c ∧ c < s.now + 150000) ∧
    (∀ z v c, p.board[z]? = some (v, c) → s.boardOpening z = if c ≤ s.now then 100 else min 100 v) ∧
    (p.i3c = [] ∨ s.now < p.i3cAt →
     p.zones.length = 8 → p.valves.length = 8 → p.temps.length = 8 → ∃ t u, exec .thermalObserverStep s = .next t ∧
      u = { s with power := u.power, bb := u.bb, bbCount := u.bbCount, free := s.free + 1 } ∧
      let q := u.power
      q = { p with zones := q.zones, valves := q.valves, temps := q.temps, pump := q.pump, pairLimit := q.pairLimit
                   nextZone := p.nextZone + 1200000, silent := q.silent } ∧
      (q.silent = 0 ∨ q.silent = p.silent + 1) ∧
      (p.firmware = false → (q.zones, q.valves, q.temps, q.pump, q.pairLimit) = (p.zones, p.valves, p.temps, p.pump, p.pairLimit) ∧
        t = u ∧ Logs s u []) ∧
      (p.firmware = true → WritesValves u t q.valves ∧
        (∀ z, z < 8 →
          let c := q.temps.getD z 0
          let l := p.zones.getD z 0
          q.valves.getD z 0 ≤ 100 ∧ q.zones.getD z 0 = if 98 ≤ c then min 7 (l + 1) else if c < 95 then l - 1 else l) ∧
        Logs s u ((List.range 8).flatMap (fun z =>
          let l := q.zones.getD z 0
          let v := q.valves.getD z 0
          let was := p.valves.getD z 0
          (if l ≠ p.zones.getD z 0 then [(0x0107, 0xFFFF, 0, z, l, 0)] else []) ++
          (if v + 10 < was ∨ was + 10 < v then [(0x0108, 0xFFFF, 0, z, v, 0)] else []))))) ∧
    (∀ sensor temp,
      let hot := sensor :: p.hot.filter (fun k => k != sensor)
      let cool := p.hot.filter (fun k => k != sensor)
      (temp < 100 → exec (.thermalTrip sensor temp) s = .next s) ∧
      (105 ≤ temp → p.tripped = false → ∃ t, exec (.thermalTrip sensor temp) s = .next t ∧
        t = { s with power := { p with hot, tripped := true, ballast := [], pairSegs := [], otherSegs := [] }, bb := t.bb
                     bbCount := t.bbCount } ∧
        Logs s t [(0x0109, 0xFFFF, 0, sensor, temp, 0)]) ∧
      (100 ≤ temp → temp < 105 ∨ p.tripped = true →
        exec (.thermalTrip sensor temp) s = .next { s with power := { p with hot } }) ∧
      (100 ≤ temp → exec (.thermalTripClear sensor temp) s = .next s) ∧
      (temp < 100 → p.tripped = true → cool = [] → ∃ t u power, exec (.thermalTripClear sensor temp) s = .next t ∧ Admits u t ∧
        u = { s with power := { p with hot := [], tripped := false, ref := power - burn }, bb := u.bb, bbCount := u.bbCount
                     free := s.free + 1 } ∧
        Logs s u [(0x010A, 0xFFFF, 0, sensor, temp, 0)]) ∧
      (temp < 100 → p.tripped = false ∨ cool ≠ [] →
        exec (.thermalTripClear sensor temp) s = .next { s with power := { p with hot := cool } })) ∧
    (∃ t x power, exec .powerSample s = .next t ∧ t.redfishSample = some x ∧
      t = { s with power := { p with samples := (x :: p.samples).take 65536, nextSample := p.nextSample + 120000 }
                   free := s.free + 1 } ∧
      let at' (byte n : Nat) : Nat := (x.extractLsb' (8 * byte) (8 * n)).toNat
      at' 0 6 = Config.ptpTime s.now / 10 ^ 9 % 2 ^ 48 ∧ at' 6 4 = Config.ptpTime s.now % 10 ^ 9 ∧ at' 10 2 = power / 10 % 2 ^ 16 ∧
      at' 12 2 = burn / 10 % 2 ^ 16 ∧ at' 14 2 = p.ref / 10 % 2 ^ 16 ∧
      ∀ k, k < 8 → at' (16 + k) 1 = p.temps.getD k 0 % 256 ∧ at' (24 + k) 1 = p.valves.getD k 0 % 256) ∧
    (p.firmware = true →
      (∃ t u, exec .powerFirmwareAbsent s = .next t ∧ WritesValves u t (List.replicate 8 100) ∧
        u = { s with power := { p with firmware := false, silent := max 5 p.silent, valves := List.replicate 8 100 }, bb := u.bb
                     bbCount := u.bbCount } ∧
        Logs s u [(0x010C, 0xFFFF, 0, 0, 0, 0)]) ∧
      exec .powerFirmwarePresent s = .next { s with power := { p with silent := 0 } }) ∧
    (p.firmware = false →
      exec .powerFirmwareAbsent s = .next s ∧
      ∃ t, exec .powerFirmwarePresent s = .next t ∧
        t = { s with power := { p with firmware := true, silent := 0 }, bb := t.bb, bbCount := t.bbCount } ∧
        Logs s t [(0x010D, 0xFFFF, 0, 0, 0, 0)])

/-! ### Events: the fabric -/

/-- The slot count. FABRIC_SLOT advances it outside a hold, begins a hold after a slack slot with an overrun, ends it after a clear
held slot; a device to join its domain does so at the domain's period boundary; the FSLOTs that wait for the slot that begins end; a slack
slot carries the retransmission requests and acknowledgements that wait; a period boundary moves the throttle, may install path sets that avoid the links that are down, and frees messages whose last
deadline has passed. FABRIC_STATUS_POINT judges overrun by what was queued before the slot, here or, by a free value, elsewhere on the device; HOLD_TIMEOUT ends a hold at its 1000th slot
and cuts a device that still overruns, whose streams with a SEND not fully sent take the trap; REJOIN makes it join again; LINK_DOWN
loses the fragments on a link's paths and degrades the device, or makes it FAILED (R208, R309 to R313, R316, R319, R320, R362, R365, R382;
how long a copy's messages wait is the model's choice, log 63, how a part's failure comes its reading, log 103). -/
def Obligations.FabricCounts : Prop :=
  ∀ s : State,
    let f := s.fabric
    (∃ t, exec .fabricSlot s = .next t ∧
      let g := t.fabric
      let begins : Bool := f.member && f.overrun && decide (f.slot % 8 = 7)
      let next (g : Fabric) : Prop :=
        g.slot = (if f.slot = 63 then 0 else f.slot + 1) ∧ g.period = if f.slot = 63 then f.period + 1 else f.period
      let held (n : Nat) : Prop := g.hold = true ∧ g.heldSlots = n ∧ g.nextPoint = some (s.now + 1800)
      let past (x : Sent) (n : Nat) : Bool := x.read && decide (x.deadline + (if x.retx then 1 else 0) + n ≤ g.period)
      let gone : List Nat := (f.sent.filter (fun x => past x (if x.copy.isSome then 1 else 0))).map (·.id)
      let begun (x : Stream) : Stream := if x.fslot = some g.slot then { x with fslot := none } else x
      s.now + 2399 ≤ g.nextSlot ∧ g.nextSlot ≤ s.now + 2401 ∧ g.slotAt = s.now ∧ t.prim.sc = s.prim.sc ∧ g.queue.Sublist f.queue ∧
      (f.hold = true → g.slot = f.slot ∧ g.period = f.period) ∧
      (f.hold = true → f.overrun = true → held (f.heldSlots + 1)) ∧
      (f.hold = true → f.overrun = false → g.hold = false ∧ g.heldSlots = 0 ∧ g.overrun = false ∧
        (f.slot ≠ 0 → Logs s t [(0x0104, 0xFFFF, 0, f.period, f.heldSlots + 1, 0)])) ∧
      (f.hold = false → begins = true → next g ∧ held 0 ∧ t = { s with fabric := g, free := t.free }) ∧
      (f.hold = false → begins = false → g.hold = false ∧
        (f.joining = none → next g ∧ g.joining = none ∧ g.member = f.member ∧ g.cut = f.cut) ∧
        (∀ n, f.joining = some (n + 1) → next g ∧ g.joining = some n ∧ g.member = f.member ∧ g.cut = f.cut) ∧
        (f.joining = some 0 → g.member = true ∧ g.cut = false ∧ g.slot = 0 ∧ g.joining = none ∧ g.overrun = false ∧
          g.device = Config.deviceNo % 2 ^ 15)) ∧
      (g.hold = false →
        g.nextPoint = (if g.member = true ∧ g.slot % 8 = 7 then some (s.now + 1800) else none) ∧
        (g.slot % 8 = 7 → g.rx = f.rx.map (fun r => if r.want then { r with asked := true } else r) ∧
          g.requests = (f.rx.filter (fun r => r.want && !r.asked)).map (fun r => (r.source, r.cls, r.seq, r.missing)) ++ f.requests ∧
          g.acks = f.acksDue ++ f.acks ∧ g.acksDue = []) ∧
        (g.slot % 8 ≠ 7 → g.rx = f.rx ∧ g.requests = f.requests ∧ g.acks = f.acks ∧ g.acksDue = f.acksDue) ∧
        (∀ i, (t.str i).fslot = (begun (s.str i)).fslot) ∧
        (g.slot ≠ 0 → g.throttle = f.throttle ∧ g.sent = f.sent ∧ g.paths = f.paths ∧
          t = { s with fabric := g, free := t.free, bb := t.bb, bbCount := t.bbCount, prim := begun s.prim, sec := begun s.sec }) ∧
        (g.slot = 0 →
          g.sent = (f.sent.filter (fun x => !gone.contains x.id)).map (fun x => if past x 0 then { x with frags := [] } else x) ∧
          (∀ q ∈ g.queue, ∃ x ∈ f.sent, x.id = q.msg ∧ past x 0 = false) ∧
          (g.paths = f.paths ∧ g.shunned = f.shunned ∨ g.shunned = f.linksDown) ∧
          let d := max s.power.rampBridle (s.power.zones.foldl max 0)
          g.throttle = if g.member = true ∧ (f.throttle < d ∨ (d < f.throttle ∧ 16 ≤ f.dwell + 1)) then d else f.throttle))) ∧
    (∃ t peer others, exec .fabricStatusPoint s = .next t ∧
      let mine := f.queue.any (fun q => decide (q.at' < f.slotAt)) || others
      t = { s with free := s.free + 1, fabric := { f with mine, overrun := mine || peer, nextPoint := none } }) ∧
    (f.hold = true → 999 ≤ f.heldSlots → f.slot ≠ 0 → ∃ t, exec .holdTimeout s = .next t ∧ t.fabric.hold = false ∧
      t.fabric.heldSlots = 0 ∧ t.fabric.slot = f.slot ∧ t.fabric.period = f.period ∧
      Logs s t [(0x0104, 0xFFFF, 0, f.period, 1000, 0)] ∧
      let begun (x : Stream) : Stream := if x.fslot = some f.slot then { x with fslot := none } else x
      (f.mine = false → t.fabric.cut = f.cut ∧ t.fabric.member = f.member ∧ t.prim = begun s.prim ∧ t.sec = begun s.sec) ∧
      (f.mine = true → t.fabric.cut = true ∧ t.fabric.member = false ∧ t.fabric.queue = [] ∧
        ∀ i, t.str i = begun
          (if f.sent.any (fun x => x.sid == i && x.live && x.copy.isNone && f.queue.any (fun q => q.msg == x.id)) then
            { s.str i with holdTmo := some ((s.str i).holdTmo.getD f.period) } else s.str i))) ∧
    (f.hold = false ∨ f.heldSlots < 999 → exec .holdTimeout s = .next s) ∧
    (f.cut = true → f.joining = none → ∃ t k, exec .rejoin s = .next t ∧
      t = { s with free := s.free + 1, fabric := { f with joining := some k } }) ∧
    (f.cut = false ∨ f.joining ≠ none → exec .rejoin s = .next s) ∧
    (∀ n, (∃ t, exec (.linkDown (.link n)) s = .next t ∧ Retires s t (3, n)) ∧
      ∃ t, exec (.linkDown (.port n)) s = .next t ∧ Retires s t (4, n)) ∧
    (∀ part, part = .serviceMemory ∨ part = .other → exec (.linkDown part) s = .next { s with
      service := { s.service with health := .failed }, doms := [], wakeQ := [] })

/-- FRAGMENT_ARRIVAL: a broken fragment is discarded with an entry, as are one that its session refuses, whose message is one in
reception all the same, opened again by its first valid fragment, and one without a decode buffer; one that comes too late counts; the first of a message opens its reception;
the k-th decodes it: its bytes and headers are written with FRESH tags where its session's pages put them, its buffer is free, the
matched RECV's sync word counts its length, and without one the message is kept. DEADLINE_EXPIRY asks once where the class allows it,
else the message is lost, at its RECV's stream or kept. RETRANSMISSION_REQUEST queues the missing fragments again, once. FABRIC_ACK
posts the bytes of the copy's message of that number; a message of class 0 that is decoded is to be acknowledged. Where nothing is due, or
the links are down, nothing happens (R207, R271, R305 to R309, R314 to R319, R331, R370, R379; that a refused fragment opens a reception is
the model's reading, log 80, which messages are acknowledged log 102, when the links are up log 114). -/
def Obligations.FabricMessages : Prop :=
  ∀ s : State,
    (∀ f : Fragment,
      let src := f.source.toNat
      let cls := f.cls.toNat % 8
      let seq := f.seq.toNat
      let good : Bool := fragmentHeader f && fragmentCrc f
      let is := sameMsg src cls seq
      let key (m : Nat × Nat × Nat × Bool) : Bool := m.1 == src && m.2.1 == cls && m.2.2.1 == seq
      let d := f.payload ++ f.heads
      let new (buf : Bool) (frags : List (Nat × List Byte)) : Reception :=
        ⟨src, cls, seq, f.asid.toNat, f.tag.toNat, f.len, f.fbytes, f.k, f.m, f.deadline, f.offset.toNat, (s.rate cls).2.2, false, false,
          buf, frags⟩
      let entry (why : Nat) : List (Nat × Nat × Nat × Nat × Nat × Nat) := [(0x0105, 0xFFFF, f.asid.toNat, src, why, seq)]
      let dropped (t : State) (why : Nat) : Prop := t = { s with bb := t.bb, bbCount := t.bbCount } ∧ Logs s t (entry why)
      let late (t : State) (matched : Bool) : Prop := t = if matched then { s with fabLate := s.fabLate + 1 }
        else { s with fabric := { s.fabric with late := s.fabric.late + 1 } }
      let buffers := (s.fabric.rx.filter (·.buf)).length
      (s.service.isUp .villafel = false → exec (.fragmentArrival f) s = .next s) ∧
      (s.service.isUp .villafel = true → ∃ t, exec (.fragmentArrival f) s = .next t ∧
        (good = false → ∃ why, (why = 1 ∨ why = 4) ∧ dropped t why) ∧
        (good = true → s.fragSession f = none →
          if s.fabric.rx.any is || s.fabric.doneMsgs.any key || f.dest.toNat != s.fabric.device ||
              !s.sessions.any (fun x => x.asid.toNat == f.asid.toNat) then dropped t 2
          else Logs s t (entry 2) ∧ t.fabric = { s.fabric with rx := s.fabric.rx ++ [new false []] } ∧ t.mem = s.mem) ∧
        (good = true → (s.fragSession f).isSome = true →
          (∀ m, s.fabric.doneMsgs.find? key = some m → late t m.2.2.2) ∧
          (s.fabric.doneMsgs.find? key = none → s.fabric.rx.find? is = none →
            (256 ≤ buffers → dropped t 3) ∧
            (buffers < 256 → f.k ≠ 1 → t.mem = s.mem ∧
              t.fabric = { s.fabric with rx := s.fabric.rx ++ [new true [(f.index, d)]] })) ∧
          (∀ r, s.fabric.doneMsgs.find? key = none → s.fabric.rx.find? is = some r →
            let tooLate : Prop := r.asked = true ∧ f.cls.getLsbD 7 = false
            (tooLate → late t (s.recvMatched src cls seq)) ∧
            (¬ tooLate → r.buf = false → 256 ≤ buffers → dropped t 3) ∧
            (¬ tooLate → r.buf = false → buffers < 256 → f.k ≠ 1 → t.mem = s.mem ∧ t.fabric = { s.fabric with
              rx := s.fabric.rx.map (fun y => if is y then { new true [(f.index, d)] with
                want := r.want, asked := r.asked, deadline := f.deadline + (if r.want then 1 else 0) } else y) }) ∧
            (¬ tooLate → r.buf = true → r.frags.any (fun p => p.1 == f.index) = true → t = s) ∧
            (¬ tooLate → r.buf = true → r.frags.any (fun p => p.1 == f.index) = false →
              (r.frags.length + 1 ≠ r.k → t = { s with fabric := { s.fabric with
                rx := s.fabric.rx.map (fun y => if is y then { r with frags := r.frags ++ [(f.index, d)] } else y) } }) ∧
              (r.frags.length + 1 = r.k → r.offset % 64 = 0 →
                let n := r.fbytes + headBytes r.fbytes
                let ds := solveFrags r.k ((r.frags ++ [(f.index, d)]).map (fun x => (x.1, (x.2.take n).map (·.toNat))))
                let msg := joinFrags r.len r.fbytes ds
                let at' (j : Nat) : Nat := s.phys (BitVec.ofNat 12 r.asid) (r.offset + j)
                let inside (a : Nat) : Prop := ∃ j, j < msg.1.length ∧ at' j = a
                let hit (x : Recv) : Bool := x.source == src && x.cls == cls && x.seq == some seq
                (∀ y ∈ t.fabric.rx, is y = false) ∧ (∃ m, (src, cls, seq, m) ∈ t.fabric.doneMsgs) ∧
                t.fabric.acksDue = s.fabric.acksDue ++ (if cls = 0 then [(src, cls, seq)] else []) ∧
                (s.recvMatched src cls seq = false →
                  ((∀ i j, i < msg.1.length → j < msg.1.length → at' i = at' j → i = j) →
                    ∀ j x, msg.1[j]? = some x → t.byte (at' j) = BitVec.ofNat 8 x) ∧
                  (∀ a, ¬ inside a → t.byte a = s.byte a) ∧
                  ((∀ i j, 64 * i < r.len → 64 * j < r.len → at' (64 * i) = at' (64 * j) → i = j) →
                    ∀ j, 64 * j < r.len → (t.lane (at' (64 * j))).toNat = msg.2.getD j 0 % 2 ^ 16) ∧
                  ∀ y ∈ t.sessions, y.asid = BitVec.ofNat 12 r.asid →
                    (src, cls, r.tag, seq, r.len) ∈ y.decoded) ∧
                ∀ x, s.prim.recvs.find? hit = some x → s.synciBehind .prim x.num = false →
                  (∀ k, k < 8 → ¬ inside (x.sync + k)) → s.isBad (blockOf x.sync) = false →
                  t.word x.sync = (syncAdd (s.word x.sync) r.len).1 ∧ t.prim.recvs = s.prim.recvs.filter (fun y => !hit y))))))) ∧
    (∀ (cls : BitVec 3) (source : BitVec 15) (seq : BitVec 32),
      let is := sameMsg source.toNat cls.toNat seq.toNat
      let ev : Instr := .deadlineExpiry cls source seq
      (s.fabric.rx.find? is = none → exec ev s = .next s) ∧
      ∀ r, s.fabric.rx.find? is = some r →
        (s.fabric.period < r.deadline → exec ev s = .next s) ∧
        (r.deadline ≤ s.fabric.period → ∃ t, exec ev s = .next t ∧
        (r.retx = true → r.want = false → t = { s with fabric := { s.fabric with
          rx := s.fabric.rx.map (fun y => if is y then { y with want := true, deadline := y.deadline + 1 } else y) } }) ∧
        (r.retx = false ∨ r.want = true → t.fabric.rx = s.fabric.rx.filter (fun y => !is y) ∧ t.mem = s.mem ∧
          (s.recvMatched source.toNat cls.toNat seq.toNat = true → t.sessions = s.sessions ∧
            ∀ i, let hit (x : Recv) : Bool := x.source == source.toNat && x.cls == cls.toNat && x.seq == some seq.toNat
              (t.str i).losses = (s.str i).losses ++
                (if (s.str i).recvs.any hit then [(source.toNat, cls.toNat, r.tag, seq.toNat)] else []) ∧
              (t.str i).recvs = (s.str i).recvs.filter (fun x => !hit x)) ∧
          (s.recvMatched source.toNat cls.toNat seq.toNat = false → t.prim = s.prim ∧ t.sec = s.sec ∧
            ∀ x ∈ t.sessions, x.asid = BitVec.ofNat 12 r.asid →
              (source.toNat, cls.toNat, r.tag, seq.toNat) ∈ x.losses)))) ∧
    (∀ (cls : BitVec 3) (seq : BitVec 32) (missing : BitVec 24),
      let f := s.fabric
      let mine := f.sent.find? (fun x =>
        x.cls == cls.toNat && x.seq == seq.toNat && x.retx && x.read && !x.asked && !x.frags.isEmpty && s.service.isUp .villafel)
      (mine = none → exec (.retransmissionRequest cls seq missing) s = .next s) ∧
      ∀ x, mine = some x → ∃ t, exec (.retransmissionRequest cls seq missing) s = .next t ∧
        t = { s with fabric := { f with
          sent := f.sent.map (fun y => if y.id = x.id then { y with asked := true } else y)
          queue := f.queue ++ ((List.range (x.k + x.m)).filter (fun j => missing.getLsbD j && f.pathUp x j)).map
            (fun j => ⟨x.id, j, true, s.now⟩) } }) ∧
    (∀ (id : Nat) (seq : BitVec 32),
      let mine := s.fabric.sent.find? (fun y => y.copy == some id && y.seq == seq.toNat && s.service.isUp .villafel)
      (mine = none → exec (.fabricAck id seq) s = .next s) ∧
      ∀ c x, mine = some x → s.copies.find? (fun y => y.id == id) = some c → c.done.length < c.total →
        let n := x.len
        ∃ t, exec (.fabricAck id seq) s = .next t ∧ t.fabric = { s.fabric with sent := s.fabric.sent.filter (fun y => y.id != x.id) } ∧
          t.copies = s.copies.map (fun y => if y.id = id then { y with posted := y.posted + n } else y) ∧
          (c.sync = none → t.mem = s.mem) ∧
          (∀ y, c.sync = some y → s.isBad (blockOf y) = true → t.mem = s.mem) ∧
          ∀ y, c.sync = some y → s.isBad (blockOf y) = false → KeepsBytes s t y 8 ∧ t.word y = (syncAdd (s.word y) n).1)

/-! ### Events: starts and probes -/

/-- Starts of the device: RESET restarts every register, counts the start, keeps the black box, the measurements and the ASIDs not to
be given out yet, and leaves absent firmware absent with its valves open; BOOT_STAGE completes a stage, retires the units that it finds
failing, and the next stage, read from the image that runs, is measured; a stage whose image does not verify, or that finds a fault, fails
with its code; the last makes the device ready, or FAILED where no core or port is
usable; START_TIMEOUT fails a stage after 120 s; a start in tethered mode still reports the stage and the code of the failed one; a rail out
of range holds the device in reset without its state; retired links stay down and valves keep their openings over all of these; a DIAG
restart clears
the counter first; PROBE_OPERATION compares lanes and retires the core at the third failing attempt of one signature in a row, and a sweep's
probes run at a gap (R20, R301, R331, R336, R337, R360 to R362, R365, R366, R368 to R370, R376 to R378; which failing start changes the image is the model's reading, log 36, for how
long a freed ASID is kept back log 37, at most 255 measurements are kept, log 86, the retirements of a start log 92, the cycles of a probe
and of a sweep log 93, when an image is verified log 104; that a device held in reset stops with the fault heldInReset is the model's
choice, log 47). -/
def Obligations.DeviceStarts : Prop :=
  ∀ s : State,
    let v := s.service
    let fresh (t : State) : Prop :=
      t = { State.reset with
        coreNo := s.coreNo, halfWidth := t.halfWidth, bb := t.bb, bbCount := t.bbCount, service := t.service, free := s.free
        power := t.power, fabric := t.fabric, inbox := t.inbox } ∧
      t.inbox = s.inbox.map (fun p => (p.1 - s.now, p.2)) ∧
      ∀ x ∈ s.sessions, (x.asid.toNat, s.fabric.period + 65539) ∈ t.service.freed
    let board : List (Nat × Nat) := s.power.board.map (fun x => (x.1, x.2 - s.now))
    let restarted (t : State) (links : List Nat) : Prop := fresh t ∧ t.fabric = { Fabric.reset with linksDown := links } ∧
      (s.power.firmware = true → t.power = { Power.reset with board }) ∧
      (s.power.firmware = false → t.power =
        { Power.reset with board, firmware := false, silent := s.power.silent, valves := List.replicate 8 100 })
    let image (w : Service) : Nat := if w.imageB then 1 else 0
    let bytes (w : Service) : List Byte := if w.imageB then w.imgB else w.imgA
    let stage (n : Nat) (w : Service) : Nat × Nat × BitVec 512 := (1, 0, Config.digest (Config.stageContents n (bytes w)))
    let fails (t : State) (code : Nat) : Prop :=
      t = { s with bb := t.bb, bbCount := t.bbCount, service := t.service, free := s.free + 1 } ∧
      Logs s t [(0x0110, 0xFFFF, 0, v.stage, code, image v)] ∧ t.service.failCode = some code ∧
      (v.failures < 3 → t.service = { v with failCode := some code }) ∧
      (3 ≤ v.failures → v.newImage = true → t.service.imageB = !v.imageB ∧ t.service.failures = 0) ∧
      (3 ≤ v.failures → v.newImage = false → t.service.health = .tethered)
    (∃ t, exec .reset s = .next t ∧ restarted t s.fabric.linksDown ∧ t.halfWidth = s.halfWidth ∧
      let w := t.service
      let afresh : Prop := w.stage = 0 ∧ w.failCode = none ∧ w.health = if v.retired = [] then .healthy else .degraded
      let reported : Prop := w.health = .tethered ∧ w.stage = v.stage ∧ w.failCode = v.failCode
      w.inReset = false ∧ w.retired = v.retired ∧ w.rewinds = [] ∧ w.probeBad = [] ∧ w.sweep = [] ∧ w.started = 0 ∧
      w.written = false ∧ (w.imgA, w.imgB) = (v.imgA, v.imgB) ∧
      (v.inReset = false → t.bb = s.bb ∧ t.bbCount = s.bbCount ∧ w.measures = (v.measures ++ [stage 0 w]).take 255) ∧
      (v.inReset = true → t.bb = [] ∧ t.bbCount = 0 ∧ w.measures = [stage 0 w]) ∧
      (v.health = .tethered → reported ∧ w.failures = v.failures + 1) ∧
      (v.health ≠ .tethered → v.failures < 3 → afresh ∧ w.failures = v.failures + 1 ∧
        w.imageB = if v.written then !v.imageB else v.imageB) ∧
      (v.health ≠ .tethered → 3 ≤ v.failures →
        (v.newImage = true ∨ v.written = true → afresh ∧ w.failures = 1 ∧ w.imageB = if v.written then v.imageB else !v.imageB) ∧
        (v.newImage = false → v.written = false → reported ∧ w.failures = v.failures + 1 ∧ w.imageB = v.imageB))) ∧
    (s.starting = true → ∀ (cause : BitVec 8) (lost : List (Nat × Nat)),
      (∃ t, exec (.bootStage none lost) s = .next t ∧
        if Config.stageVerifies v.stage (bytes v) = true then ∃ m,
          RetiresAll (lost.filter (fun u =>
            (v.stage == 2 && (u.1 == 3 || u.1 == 4)) || (v.stage == 3 && (u.1 == 1 || u.1 == 2)))) s m ∧
          (v.stage < 4 → t = { m with bb := t.bb, bbCount := t.bbCount, service := { m.service with
                stage := v.stage + 1, measures := (v.measures ++ [stage (v.stage + 1) v]).take 255 } } ∧
            Logs m t [(0x0110, 0xFFFF, 0, v.stage, 0, image v)]) ∧
          (v.stage = 4 → t = { s with
              bb := t.bb, bbCount := t.bbCount, fabric := { s.fabric with nextSlot := s.now + 2400 },
              service := { v with stage := 5, failures := 0, newImage := false, health := t.service.health } } ∧
            (Unusable v → t.service.health = .failed) ∧
            (¬ Unusable v → t.service.health = if v.retired = [] then .healthy else .degraded) ∧
            Logs s t [(0x0110, 0xFFFF, 0, 4, 0, image v), (0x0110, 0xFFFF, 0, 5, 0, image v)])
        else ∃ c, c < 256 ∧ fails t (v.stage * 256 + c)) ∧
      (∃ t, exec (.bootStage (some cause) lost) s = .next t ∧ fails t (v.stage * 256 + cause.toNat)) ∧
      (v.started + 144000000000 ≤ s.now → ∃ t c, exec .startTimeout s = .next t ∧ c < 256 ∧ fails t (v.stage * 256 + c)) ∧
      (s.now < v.started + 144000000000 → exec .startTimeout s = .next s)) ∧
    (s.starting = false → exec .startTimeout s = .next s ∧ ∀ cause lost, exec (.bootStage cause lost) s = .next s) ∧
    (∃ t, exec .railOutOfRange s = .next t ∧ fresh t ∧ t.bb = [] ∧ t.halfWidth = s.halfWidth ∧
      t.service = { v with
        inReset := true, measures := [], freed := t.service.freed, stage := if v.health = .tethered then v.stage else 0
        failCode := if v.health = .tethered then v.failCode else none } ∧
      t.power = { Power.reset with board } ∧ t.fabric = { Fabric.reset with linksDown := s.fabric.linksDown } ∧
      step { t with inbox := [] } = .fault .heldInReset) ∧
    (∀ (h : ReqHdr) (clear : Bool), s.hears 8 h = true →
      ∃ t, exec (.diag h clear true) s = .next t ∧ restarted t (if clear then [] else s.fabric.linksDown) ∧ t.service.stage = 0 ∧
        t.service.failures = 1 ∧ t.halfWidth = (if clear then false else s.halfWidth) ∧
        t.service.retired = if clear then [] else v.retired) ∧
    (∀ p : Probe,
      let want := Config.probeExpected p.slot.idx p.sig
      let mine (x : Nat × Nat × Nat) : Bool := x.1 == p.slot.idx && x.2.1 == p.sig
      let others := v.probeBad.filter (fun x => !mine x)
      let n := ((v.probeBad.find? mine).map (·.2.2)).getD 0 + 1
      let swept := v.sweep.filter (fun x => x != (p.slot.idx, p.sig))
      let noted (l : List (Nat × Nat × Nat)) (sweep : List (Nat × Nat)) : State :=
        { s with free := s.free + 1, service := { v with probeBad := l, sweep } }
      (s.probeRuns p.slot = false → exec (.probeOperation p) s = .next s) ∧
      (s.probeRuns p.slot = true → ∃ t, exec (.probeOperation p) s = .next t ∧
        (p.lanes = want → t = noted others swept) ∧
        (p.lanes ≠ want → n < 3 → t = noted ((p.slot.idx, p.sig, n) :: others) v.sweep) ∧
        (p.lanes ≠ want → 3 ≤ n → ∃ m, m = { noted others swept with bb := m.bb, bbCount := m.bbCount } ∧
          Logs s m [(0x010E, s.coreNo.toNat, 0, p.slot.idx, p.sig, p.lanes ^^^ want)] ∧ Retires m t (1, s.coreNo.toNat)))) ∧
    (∀ p, s.sweepProbe = some p → s.prim.status = .idle ∧ s.sec.status = .idle ∧ s.probeRuns p.slot = true ∧
      ∃ x ∈ v.sweep, p.slot = slotOf x.1 ∧ p.sig = x.2)
end

