-- ==== Sys2Proof/Laws/State.lean ====
section
/-! SUPPORT. Sys2Proof/Laws/State.lean: one lemma per field per update of the state, true by definition. -/

namespace Sys2Proof.Machine

/-! ### Streams -/

@[simp] theorem State.str_setStr_self (s : State) (i : Sid) (t : Stream) : (s.setStr i t).str i = t := by cases i <;> rfl

theorem State.str_setStr (s : State) (i j : Sid) (t : Stream) :
    (s.setStr i t).str j = if j = i then t else s.str j := by cases i <;> cases j <;> rfl

@[simp] theorem State.str_modStr_self (s : State) (i : Sid) (f : Stream → Stream) :
    (s.modStr i f).str i = f (s.str i) := by cases i <;> rfl

theorem State.str_modStr (s : State) (i j : Sid) (f : Stream → Stream) :
    (s.modStr i f).str j = if j = i then f (s.str j) else s.str j := by cases i <;> cases j <;> rfl

@[simp] theorem State.setStr_str (s : State) (i : Sid) : s.setStr i (s.str i) = s := by cases i <;> rfl

@[simp] theorem State.setStr_setStr (s : State) (i : Sid) (t u : Stream) : (s.setStr i t).setStr i u = s.setStr i u := by
  cases i <;> rfl

@[simp] theorem State.me_modMe (s : State) (f : Stream → Stream) : (s.modMe f).me = f s.me := by
  cases s with | mk => rename_i cur _ _ _ _ _ _ _; cases cur <;> rfl

@[simp] theorem State.me_modSc (s : State) (f : Scalars → Scalars) :
    (s.modSc f).me = { s.me with sc := f s.me.sc } := State.me_modMe s _

@[simp] theorem State.str_drawn (s : State) (i : Sid) : s.drawn.str i = s.str i := by cases i <;> rfl
@[simp] theorem State.str_seqd (s : State) (i : Sid) : s.seqd.str i = s.str i := by cases i <;> rfl
@[simp] theorem State.str_setByte (s : State) (a : Nat) (b : Byte) (i : Sid) : (s.setByte a b).str i = s.str i := by
  cases i <;> rfl
@[simp] theorem State.str_setLane (s : State) (a : Nat) (v : W64) (i : Sid) : (s.setLane a v).str i = s.str i := by
  cases i <;> rfl
@[simp] theorem State.str_addRowOp (s : State) (o : RowOp) (i : Sid) : (s.addRowOp o).str i = s.str i := by
  cases i <;> rfl

/-! ### `setStr` -/

@[simp] theorem State.setStr_coreNo (s : State) (i : Sid) (t : Stream) : (s.setStr i t).coreNo = s.coreNo := by cases i <;> rfl
@[simp] theorem State.setStr_cycle (s : State) (i : Sid) (t : Stream) : (s.setStr i t).cycle = s.cycle := by cases i <;> rfl
@[simp] theorem State.setStr_tiles (s : State) (i : Sid) (t : Stream) : (s.setStr i t).tiles = s.tiles := by cases i <;> rfl
@[simp] theorem State.setStr_rowOps (s : State) (i : Sid) (t : Stream) : (s.setStr i t).rowOps = s.rowOps := by cases i <;> rfl
@[simp] theorem State.setStr_masks (s : State) (i : Sid) (t : Stream) : (s.setStr i t).masks = s.masks := by cases i <;> rfl
@[simp] theorem State.setStr_maskOps (s : State) (i : Sid) (t : Stream) : (s.setStr i t).maskOps = s.maskOps := by cases i <;> rfl
@[simp] theorem State.setStr_xvs (s : State) (i : Sid) (t : Stream) : (s.setStr i t).xvs = s.xvs := by cases i <;> rfl
@[simp] theorem State.setStr_xvOps (s : State) (i : Sid) (t : Stream) : (s.setStr i t).xvOps = s.xvOps := by cases i <;> rfl
@[simp] theorem State.setStr_prows (s : State) (i : Sid) (t : Stream) : (s.setStr i t).prows = s.prows := by cases i <;> rfl
@[simp] theorem State.setStr_pfmts (s : State) (i : Sid) (t : Stream) : (s.setStr i t).pfmts = s.pfmts := by cases i <;> rfl
@[simp] theorem State.setStr_active (s : State) (i : Sid) (t : Stream) : (s.setStr i t).active = s.active := by cases i <;> rfl
@[simp] theorem State.setStr_shadow (s : State) (i : Sid) (t : Stream) : (s.setStr i t).shadow = s.shadow := by cases i <;> rfl
@[simp] theorem State.setStr_pass (s : State) (i : Sid) (t : Stream) : (s.setStr i t).pass = s.pass := by cases i <;> rfl
@[simp] theorem State.setStr_bank0 (s : State) (i : Sid) (t : Stream) : (s.setStr i t).bank0 = s.bank0 := by cases i <;> rfl
@[simp] theorem State.setStr_bank1 (s : State) (i : Sid) (t : Stream) : (s.setStr i t).bank1 = s.bank1 := by cases i <;> rfl
@[simp] theorem State.setStr_work1 (s : State) (i : Sid) (t : Stream) : (s.setStr i t).work1 = s.work1 := by cases i <;> rfl
@[simp] theorem State.setStr_mHold (s : State) (i : Sid) (t : Stream) : (s.setStr i t).mHold = s.mHold := by cases i <;> rfl
@[simp] theorem State.setStr_busy (s : State) (i : Sid) (t : Stream) : (s.setStr i t).busy = s.busy := by cases i <;> rfl
@[simp] theorem State.setStr_doms (s : State) (i : Sid) (t : Stream) : (s.setStr i t).doms = s.doms := by cases i <;> rfl
@[simp] theorem State.setStr_wakeQ (s : State) (i : Sid) (t : Stream) : (s.setStr i t).wakeQ = s.wakeQ := by cases i <;> rfl
@[simp] theorem State.setStr_filler (s : State) (i : Sid) (t : Stream) : (s.setStr i t).filler = s.filler := by cases i <;> rfl
@[simp] theorem State.setStr_halfWidth (s : State) (i : Sid) (t : Stream) : (s.setStr i t).halfWidth = s.halfWidth := by cases i <;> rfl
@[simp] theorem State.setStr_window (s : State) (i : Sid) (t : Stream) : (s.setStr i t).window = s.window := by cases i <;> rfl
@[simp] theorem State.setStr_strict (s : State) (i : Sid) (t : Stream) : (s.setStr i t).strict = s.strict := by cases i <;> rfl
@[simp] theorem State.setStr_fabLate (s : State) (i : Sid) (t : Stream) : (s.setStr i t).fabLate = s.fabLate := by cases i <;> rfl
@[simp] theorem State.setStr_accs (s : State) (i : Sid) (t : Stream) : (s.setStr i t).accs = s.accs := by cases i <;> rfl
@[simp] theorem State.setStr_copies (s : State) (i : Sid) (t : Stream) : (s.setStr i t).copies = s.copies := by cases i <;> rfl
@[simp] theorem State.setStr_refresh (s : State) (i : Sid) (t : Stream) : (s.setStr i t).refresh = s.refresh := by cases i <;> rfl
@[simp] theorem State.setStr_mem (s : State) (i : Sid) (t : Stream) : (s.setStr i t).mem = s.mem := by cases i <;> rfl
@[simp] theorem State.setStr_lanes (s : State) (i : Sid) (t : Stream) : (s.setStr i t).lanes = s.lanes := by cases i <;> rfl
@[simp] theorem State.setStr_stored (s : State) (i : Sid) (t : Stream) : (s.setStr i t).stored = s.stored := by cases i <;> rfl
@[simp] theorem State.setStr_fabRates (s : State) (i : Sid) (t : Stream) : (s.setStr i t).fabRates = s.fabRates := by cases i <;> rfl
@[simp] theorem State.setStr_pwrRamp (s : State) (i : Sid) (t : Stream) : (s.setStr i t).pwrRamp = s.pwrRamp := by cases i <;> rfl
@[simp] theorem State.setStr_sessions (s : State) (i : Sid) (t : Stream) : (s.setStr i t).sessions = s.sessions := by cases i <;> rfl
@[simp] theorem State.setStr_queues (s : State) (i : Sid) (t : Stream) : (s.setStr i t).queues = s.queues := by cases i <;> rfl
@[simp] theorem State.setStr_stepNums (s : State) (i : Sid) (t : Stream) : (s.setStr i t).stepNums = s.stepNums := by cases i <;> rfl
@[simp] theorem State.setStr_results (s : State) (i : Sid) (t : Stream) : (s.setStr i t).results = s.results := by cases i <;> rfl
@[simp] theorem State.setStr_gangs (s : State) (i : Sid) (t : Stream) : (s.setStr i t).gangs = s.gangs := by cases i <;> rfl
@[simp] theorem State.setStr_headSince (s : State) (i : Sid) (t : Stream) : (s.setStr i t).headSince = s.headSince := by cases i <;> rfl
@[simp] theorem State.setStr_saved (s : State) (i : Sid) (t : Stream) : (s.setStr i t).saved = s.saved := by cases i <;> rfl
@[simp] theorem State.setStr_power (s : State) (i : Sid) (t : Stream) : (s.setStr i t).power = s.power := by cases i <;> rfl
@[simp] theorem State.setStr_fabric (s : State) (i : Sid) (t : Stream) : (s.setStr i t).fabric = s.fabric := by cases i <;> rfl
@[simp] theorem State.setStr_service (s : State) (i : Sid) (t : Stream) : (s.setStr i t).service = s.service := by cases i <;> rfl
@[simp] theorem State.setStr_bb (s : State) (i : Sid) (t : Stream) : (s.setStr i t).bb = s.bb := by cases i <;> rfl
@[simp] theorem State.setStr_bbCount (s : State) (i : Sid) (t : Stream) : (s.setStr i t).bbCount = s.bbCount := by cases i <;> rfl
@[simp] theorem State.setStr_responses (s : State) (i : Sid) (t : Stream) : (s.setStr i t).responses = s.responses := by cases i <;> rfl
@[simp] theorem State.setStr_nextGrid (s : State) (i : Sid) (t : Stream) : (s.setStr i t).nextGrid = s.nextGrid := by cases i <;> rfl
@[simp] theorem State.setStr_cur (s : State) (i : Sid) (t : Stream) : (s.setStr i t).cur = s.cur := by cases i <;> rfl
@[simp] theorem State.setStr_turn (s : State) (i : Sid) (t : Stream) : (s.setStr i t).turn = s.turn := by cases i <;> rfl
@[simp] theorem State.setStr_bundle (s : State) (i : Sid) (t : Stream) : (s.setStr i t).bundle = s.bundle := by cases i <;> rfl
@[simp] theorem State.setStr_primMask (s : State) (i : Sid) (t : Stream) : (s.setStr i t).primMask = s.primMask := by cases i <;> rfl
@[simp] theorem State.setStr_jump (s : State) (i : Sid) (t : Stream) : (s.setStr i t).jump = s.jump := by cases i <;> rfl
@[simp] theorem State.setStr_free (s : State) (i : Sid) (t : Stream) : (s.setStr i t).free = s.free := by cases i <;> rfl
@[simp] theorem State.setStr_seq (s : State) (i : Sid) (t : Stream) : (s.setStr i t).seq = s.seq := by cases i <;> rfl
@[simp] theorem State.setStr_inbox (s : State) (i : Sid) (t : Stream) : (s.setStr i t).inbox = s.inbox := by cases i <;> rfl

/-! ### `modStr` -/

@[simp] theorem State.modStr_coreNo (s : State) (i : Sid) (f : Stream → Stream) : (s.modStr i f).coreNo = s.coreNo := by cases i <;> rfl
@[simp] theorem State.modStr_cycle (s : State) (i : Sid) (f : Stream → Stream) : (s.modStr i f).cycle = s.cycle := by cases i <;> rfl
@[simp] theorem State.modStr_tiles (s : State) (i : Sid) (f : Stream → Stream) : (s.modStr i f).tiles = s.tiles := by cases i <;> rfl
@[simp] theorem State.modStr_rowOps (s : State) (i : Sid) (f : Stream → Stream) : (s.modStr i f).rowOps = s.rowOps := by cases i <;> rfl
@[simp] theorem State.modStr_masks (s : State) (i : Sid) (f : Stream → Stream) : (s.modStr i f).masks = s.masks := by cases i <;> rfl
@[simp] theorem State.modStr_maskOps (s : State) (i : Sid) (f : Stream → Stream) : (s.modStr i f).maskOps = s.maskOps := by cases i <;> rfl
@[simp] theorem State.modStr_xvs (s : State) (i : Sid) (f : Stream → Stream) : (s.modStr i f).xvs = s.xvs := by cases i <;> rfl
@[simp] theorem State.modStr_xvOps (s : State) (i : Sid) (f : Stream → Stream) : (s.modStr i f).xvOps = s.xvOps := by cases i <;> rfl
@[simp] theorem State.modStr_prows (s : State) (i : Sid) (f : Stream → Stream) : (s.modStr i f).prows = s.prows := by cases i <;> rfl
@[simp] theorem State.modStr_pfmts (s : State) (i : Sid) (f : Stream → Stream) : (s.modStr i f).pfmts = s.pfmts := by cases i <;> rfl
@[simp] theorem State.modStr_active (s : State) (i : Sid) (f : Stream → Stream) : (s.modStr i f).active = s.active := by cases i <;> rfl
@[simp] theorem State.modStr_shadow (s : State) (i : Sid) (f : Stream → Stream) : (s.modStr i f).shadow = s.shadow := by cases i <;> rfl
@[simp] theorem State.modStr_pass (s : State) (i : Sid) (f : Stream → Stream) : (s.modStr i f).pass = s.pass := by cases i <;> rfl
@[simp] theorem State.modStr_bank0 (s : State) (i : Sid) (f : Stream → Stream) : (s.modStr i f).bank0 = s.bank0 := by cases i <;> rfl
@[simp] theorem State.modStr_bank1 (s : State) (i : Sid) (f : Stream → Stream) : (s.modStr i f).bank1 = s.bank1 := by cases i <;> rfl
@[simp] theorem State.modStr_work1 (s : State) (i : Sid) (f : Stream → Stream) : (s.modStr i f).work1 = s.work1 := by cases i <;> rfl
@[simp] theorem State.modStr_mHold (s : State) (i : Sid) (f : Stream → Stream) : (s.modStr i f).mHold = s.mHold := by cases i <;> rfl
@[simp] theorem State.modStr_busy (s : State) (i : Sid) (f : Stream → Stream) : (s.modStr i f).busy = s.busy := by cases i <;> rfl
@[simp] theorem State.modStr_doms (s : State) (i : Sid) (f : Stream → Stream) : (s.modStr i f).doms = s.doms := by cases i <;> rfl
@[simp] theorem State.modStr_wakeQ (s : State) (i : Sid) (f : Stream → Stream) : (s.modStr i f).wakeQ = s.wakeQ := by cases i <;> rfl
@[simp] theorem State.modStr_filler (s : State) (i : Sid) (f : Stream → Stream) : (s.modStr i f).filler = s.filler := by cases i <;> rfl
@[simp] theorem State.modStr_halfWidth (s : State) (i : Sid) (f : Stream → Stream) : (s.modStr i f).halfWidth = s.halfWidth := by cases i <;> rfl
@[simp] theorem State.modStr_window (s : State) (i : Sid) (f : Stream → Stream) : (s.modStr i f).window = s.window := by cases i <;> rfl
@[simp] theorem State.modStr_strict (s : State) (i : Sid) (f : Stream → Stream) : (s.modStr i f).strict = s.strict := by cases i <;> rfl
@[simp] theorem State.modStr_fabLate (s : State) (i : Sid) (f : Stream → Stream) : (s.modStr i f).fabLate = s.fabLate := by cases i <;> rfl
@[simp] theorem State.modStr_accs (s : State) (i : Sid) (f : Stream → Stream) : (s.modStr i f).accs = s.accs := by cases i <;> rfl
@[simp] theorem State.modStr_copies (s : State) (i : Sid) (f : Stream → Stream) : (s.modStr i f).copies = s.copies := by cases i <;> rfl
@[simp] theorem State.modStr_refresh (s : State) (i : Sid) (f : Stream → Stream) : (s.modStr i f).refresh = s.refresh := by cases i <;> rfl
@[simp] theorem State.modStr_mem (s : State) (i : Sid) (f : Stream → Stream) : (s.modStr i f).mem = s.mem := by cases i <;> rfl
@[simp] theorem State.modStr_lanes (s : State) (i : Sid) (f : Stream → Stream) : (s.modStr i f).lanes = s.lanes := by cases i <;> rfl
@[simp] theorem State.modStr_stored (s : State) (i : Sid) (f : Stream → Stream) : (s.modStr i f).stored = s.stored := by cases i <;> rfl
@[simp] theorem State.modStr_fabRates (s : State) (i : Sid) (f : Stream → Stream) : (s.modStr i f).fabRates = s.fabRates := by cases i <;> rfl
@[simp] theorem State.modStr_pwrRamp (s : State) (i : Sid) (f : Stream → Stream) : (s.modStr i f).pwrRamp = s.pwrRamp := by cases i <;> rfl
@[simp] theorem State.modStr_sessions (s : State) (i : Sid) (f : Stream → Stream) : (s.modStr i f).sessions = s.sessions := by cases i <;> rfl
@[simp] theorem State.modStr_queues (s : State) (i : Sid) (f : Stream → Stream) : (s.modStr i f).queues = s.queues := by cases i <;> rfl
@[simp] theorem State.modStr_stepNums (s : State) (i : Sid) (f : Stream → Stream) : (s.modStr i f).stepNums = s.stepNums := by cases i <;> rfl
@[simp] theorem State.modStr_results (s : State) (i : Sid) (f : Stream → Stream) : (s.modStr i f).results = s.results := by cases i <;> rfl
@[simp] theorem State.modStr_gangs (s : State) (i : Sid) (f : Stream → Stream) : (s.modStr i f).gangs = s.gangs := by cases i <;> rfl
@[simp] theorem State.modStr_headSince (s : State) (i : Sid) (f : Stream → Stream) : (s.modStr i f).headSince = s.headSince := by cases i <;> rfl
@[simp] theorem State.modStr_saved (s : State) (i : Sid) (f : Stream → Stream) : (s.modStr i f).saved = s.saved := by cases i <;> rfl
@[simp] theorem State.modStr_power (s : State) (i : Sid) (f : Stream → Stream) : (s.modStr i f).power = s.power := by cases i <;> rfl
@[simp] theorem State.modStr_fabric (s : State) (i : Sid) (f : Stream → Stream) : (s.modStr i f).fabric = s.fabric := by cases i <;> rfl
@[simp] theorem State.modStr_service (s : State) (i : Sid) (f : Stream → Stream) : (s.modStr i f).service = s.service := by cases i <;> rfl
@[simp] theorem State.modStr_bb (s : State) (i : Sid) (f : Stream → Stream) : (s.modStr i f).bb = s.bb := by cases i <;> rfl
@[simp] theorem State.modStr_bbCount (s : State) (i : Sid) (f : Stream → Stream) : (s.modStr i f).bbCount = s.bbCount := by cases i <;> rfl
@[simp] theorem State.modStr_responses (s : State) (i : Sid) (f : Stream → Stream) : (s.modStr i f).responses = s.responses := by cases i <;> rfl
@[simp] theorem State.modStr_nextGrid (s : State) (i : Sid) (f : Stream → Stream) : (s.modStr i f).nextGrid = s.nextGrid := by cases i <;> rfl
@[simp] theorem State.modStr_cur (s : State) (i : Sid) (f : Stream → Stream) : (s.modStr i f).cur = s.cur := by cases i <;> rfl
@[simp] theorem State.modStr_turn (s : State) (i : Sid) (f : Stream → Stream) : (s.modStr i f).turn = s.turn := by cases i <;> rfl
@[simp] theorem State.modStr_bundle (s : State) (i : Sid) (f : Stream → Stream) : (s.modStr i f).bundle = s.bundle := by cases i <;> rfl
@[simp] theorem State.modStr_primMask (s : State) (i : Sid) (f : Stream → Stream) : (s.modStr i f).primMask = s.primMask := by cases i <;> rfl
@[simp] theorem State.modStr_jump (s : State) (i : Sid) (f : Stream → Stream) : (s.modStr i f).jump = s.jump := by cases i <;> rfl
@[simp] theorem State.modStr_free (s : State) (i : Sid) (f : Stream → Stream) : (s.modStr i f).free = s.free := by cases i <;> rfl
@[simp] theorem State.modStr_seq (s : State) (i : Sid) (f : Stream → Stream) : (s.modStr i f).seq = s.seq := by cases i <;> rfl
@[simp] theorem State.modStr_inbox (s : State) (i : Sid) (f : Stream → Stream) : (s.modStr i f).inbox = s.inbox := by cases i <;> rfl

/-! ### `modMe` -/

@[simp] theorem State.modMe_coreNo (s : State) (f : Stream → Stream) : (s.modMe f).coreNo = s.coreNo := s.modStr_coreNo s.cur f
@[simp] theorem State.modMe_cycle (s : State) (f : Stream → Stream) : (s.modMe f).cycle = s.cycle := s.modStr_cycle s.cur f
@[simp] theorem State.modMe_tiles (s : State) (f : Stream → Stream) : (s.modMe f).tiles = s.tiles := s.modStr_tiles s.cur f
@[simp] theorem State.modMe_rowOps (s : State) (f : Stream → Stream) : (s.modMe f).rowOps = s.rowOps := s.modStr_rowOps s.cur f
@[simp] theorem State.modMe_masks (s : State) (f : Stream → Stream) : (s.modMe f).masks = s.masks := s.modStr_masks s.cur f
@[simp] theorem State.modMe_maskOps (s : State) (f : Stream → Stream) : (s.modMe f).maskOps = s.maskOps := s.modStr_maskOps s.cur f
@[simp] theorem State.modMe_xvs (s : State) (f : Stream → Stream) : (s.modMe f).xvs = s.xvs := s.modStr_xvs s.cur f
@[simp] theorem State.modMe_xvOps (s : State) (f : Stream → Stream) : (s.modMe f).xvOps = s.xvOps := s.modStr_xvOps s.cur f
@[simp] theorem State.modMe_prows (s : State) (f : Stream → Stream) : (s.modMe f).prows = s.prows := s.modStr_prows s.cur f
@[simp] theorem State.modMe_pfmts (s : State) (f : Stream → Stream) : (s.modMe f).pfmts = s.pfmts := s.modStr_pfmts s.cur f
@[simp] theorem State.modMe_active (s : State) (f : Stream → Stream) : (s.modMe f).active = s.active := s.modStr_active s.cur f
@[simp] theorem State.modMe_shadow (s : State) (f : Stream → Stream) : (s.modMe f).shadow = s.shadow := s.modStr_shadow s.cur f
@[simp] theorem State.modMe_pass (s : State) (f : Stream → Stream) : (s.modMe f).pass = s.pass := s.modStr_pass s.cur f
@[simp] theorem State.modMe_bank0 (s : State) (f : Stream → Stream) : (s.modMe f).bank0 = s.bank0 := s.modStr_bank0 s.cur f
@[simp] theorem State.modMe_bank1 (s : State) (f : Stream → Stream) : (s.modMe f).bank1 = s.bank1 := s.modStr_bank1 s.cur f
@[simp] theorem State.modMe_work1 (s : State) (f : Stream → Stream) : (s.modMe f).work1 = s.work1 := s.modStr_work1 s.cur f
@[simp] theorem State.modMe_mHold (s : State) (f : Stream → Stream) : (s.modMe f).mHold = s.mHold := s.modStr_mHold s.cur f
@[simp] theorem State.modMe_busy (s : State) (f : Stream → Stream) : (s.modMe f).busy = s.busy := s.modStr_busy s.cur f
@[simp] theorem State.modMe_doms (s : State) (f : Stream → Stream) : (s.modMe f).doms = s.doms := s.modStr_doms s.cur f
@[simp] theorem State.modMe_wakeQ (s : State) (f : Stream → Stream) : (s.modMe f).wakeQ = s.wakeQ := s.modStr_wakeQ s.cur f
@[simp] theorem State.modMe_filler (s : State) (f : Stream → Stream) : (s.modMe f).filler = s.filler := s.modStr_filler s.cur f
@[simp] theorem State.modMe_halfWidth (s : State) (f : Stream → Stream) : (s.modMe f).halfWidth = s.halfWidth := s.modStr_halfWidth s.cur f
@[simp] theorem State.modMe_window (s : State) (f : Stream → Stream) : (s.modMe f).window = s.window := s.modStr_window s.cur f
@[simp] theorem State.modMe_strict (s : State) (f : Stream → Stream) : (s.modMe f).strict = s.strict := s.modStr_strict s.cur f
@[simp] theorem State.modMe_fabLate (s : State) (f : Stream → Stream) : (s.modMe f).fabLate = s.fabLate := s.modStr_fabLate s.cur f
@[simp] theorem State.modMe_accs (s : State) (f : Stream → Stream) : (s.modMe f).accs = s.accs := s.modStr_accs s.cur f
@[simp] theorem State.modMe_copies (s : State) (f : Stream → Stream) : (s.modMe f).copies = s.copies := s.modStr_copies s.cur f
@[simp] theorem State.modMe_refresh (s : State) (f : Stream → Stream) : (s.modMe f).refresh = s.refresh := s.modStr_refresh s.cur f
@[simp] theorem State.modMe_mem (s : State) (f : Stream → Stream) : (s.modMe f).mem = s.mem := s.modStr_mem s.cur f
@[simp] theorem State.modMe_lanes (s : State) (f : Stream → Stream) : (s.modMe f).lanes = s.lanes := s.modStr_lanes s.cur f
@[simp] theorem State.modMe_stored (s : State) (f : Stream → Stream) : (s.modMe f).stored = s.stored := s.modStr_stored s.cur f
@[simp] theorem State.modMe_fabRates (s : State) (f : Stream → Stream) : (s.modMe f).fabRates = s.fabRates := s.modStr_fabRates s.cur f
@[simp] theorem State.modMe_pwrRamp (s : State) (f : Stream → Stream) : (s.modMe f).pwrRamp = s.pwrRamp := s.modStr_pwrRamp s.cur f
@[simp] theorem State.modMe_sessions (s : State) (f : Stream → Stream) : (s.modMe f).sessions = s.sessions := s.modStr_sessions s.cur f
@[simp] theorem State.modMe_queues (s : State) (f : Stream → Stream) : (s.modMe f).queues = s.queues := s.modStr_queues s.cur f
@[simp] theorem State.modMe_stepNums (s : State) (f : Stream → Stream) : (s.modMe f).stepNums = s.stepNums := s.modStr_stepNums s.cur f
@[simp] theorem State.modMe_results (s : State) (f : Stream → Stream) : (s.modMe f).results = s.results := s.modStr_results s.cur f
@[simp] theorem State.modMe_gangs (s : State) (f : Stream → Stream) : (s.modMe f).gangs = s.gangs := s.modStr_gangs s.cur f
@[simp] theorem State.modMe_headSince (s : State) (f : Stream → Stream) : (s.modMe f).headSince = s.headSince := s.modStr_headSince s.cur f
@[simp] theorem State.modMe_saved (s : State) (f : Stream → Stream) : (s.modMe f).saved = s.saved := s.modStr_saved s.cur f
@[simp] theorem State.modMe_power (s : State) (f : Stream → Stream) : (s.modMe f).power = s.power := s.modStr_power s.cur f
@[simp] theorem State.modMe_fabric (s : State) (f : Stream → Stream) : (s.modMe f).fabric = s.fabric := s.modStr_fabric s.cur f
@[simp] theorem State.modMe_service (s : State) (f : Stream → Stream) : (s.modMe f).service = s.service := s.modStr_service s.cur f
@[simp] theorem State.modMe_bb (s : State) (f : Stream → Stream) : (s.modMe f).bb = s.bb := s.modStr_bb s.cur f
@[simp] theorem State.modMe_bbCount (s : State) (f : Stream → Stream) : (s.modMe f).bbCount = s.bbCount := s.modStr_bbCount s.cur f
@[simp] theorem State.modMe_responses (s : State) (f : Stream → Stream) : (s.modMe f).responses = s.responses := s.modStr_responses s.cur f
@[simp] theorem State.modMe_nextGrid (s : State) (f : Stream → Stream) : (s.modMe f).nextGrid = s.nextGrid := s.modStr_nextGrid s.cur f
@[simp] theorem State.modMe_cur (s : State) (f : Stream → Stream) : (s.modMe f).cur = s.cur := s.modStr_cur s.cur f
@[simp] theorem State.modMe_turn (s : State) (f : Stream → Stream) : (s.modMe f).turn = s.turn := s.modStr_turn s.cur f
@[simp] theorem State.modMe_bundle (s : State) (f : Stream → Stream) : (s.modMe f).bundle = s.bundle := s.modStr_bundle s.cur f
@[simp] theorem State.modMe_primMask (s : State) (f : Stream → Stream) : (s.modMe f).primMask = s.primMask := s.modStr_primMask s.cur f
@[simp] theorem State.modMe_jump (s : State) (f : Stream → Stream) : (s.modMe f).jump = s.jump := s.modStr_jump s.cur f
@[simp] theorem State.modMe_free (s : State) (f : Stream → Stream) : (s.modMe f).free = s.free := s.modStr_free s.cur f
@[simp] theorem State.modMe_seq (s : State) (f : Stream → Stream) : (s.modMe f).seq = s.seq := s.modStr_seq s.cur f
@[simp] theorem State.modMe_inbox (s : State) (f : Stream → Stream) : (s.modMe f).inbox = s.inbox := s.modStr_inbox s.cur f

/-! ### `modSc` -/

@[simp] theorem State.modSc_coreNo (s : State) (f : Scalars → Scalars) : (s.modSc f).coreNo = s.coreNo := s.modStr_coreNo s.cur _
@[simp] theorem State.modSc_cycle (s : State) (f : Scalars → Scalars) : (s.modSc f).cycle = s.cycle := s.modStr_cycle s.cur _
@[simp] theorem State.modSc_tiles (s : State) (f : Scalars → Scalars) : (s.modSc f).tiles = s.tiles := s.modStr_tiles s.cur _
@[simp] theorem State.modSc_rowOps (s : State) (f : Scalars → Scalars) : (s.modSc f).rowOps = s.rowOps := s.modStr_rowOps s.cur _
@[simp] theorem State.modSc_masks (s : State) (f : Scalars → Scalars) : (s.modSc f).masks = s.masks := s.modStr_masks s.cur _
@[simp] theorem State.modSc_maskOps (s : State) (f : Scalars → Scalars) : (s.modSc f).maskOps = s.maskOps := s.modStr_maskOps s.cur _
@[simp] theorem State.modSc_xvs (s : State) (f : Scalars → Scalars) : (s.modSc f).xvs = s.xvs := s.modStr_xvs s.cur _
@[simp] theorem State.modSc_xvOps (s : State) (f : Scalars → Scalars) : (s.modSc f).xvOps = s.xvOps := s.modStr_xvOps s.cur _
@[simp] theorem State.modSc_prows (s : State) (f : Scalars → Scalars) : (s.modSc f).prows = s.prows := s.modStr_prows s.cur _
@[simp] theorem State.modSc_pfmts (s : State) (f : Scalars → Scalars) : (s.modSc f).pfmts = s.pfmts := s.modStr_pfmts s.cur _
@[simp] theorem State.modSc_active (s : State) (f : Scalars → Scalars) : (s.modSc f).active = s.active := s.modStr_active s.cur _
@[simp] theorem State.modSc_shadow (s : State) (f : Scalars → Scalars) : (s.modSc f).shadow = s.shadow := s.modStr_shadow s.cur _
@[simp] theorem State.modSc_pass (s : State) (f : Scalars → Scalars) : (s.modSc f).pass = s.pass := s.modStr_pass s.cur _
@[simp] theorem State.modSc_bank0 (s : State) (f : Scalars → Scalars) : (s.modSc f).bank0 = s.bank0 := s.modStr_bank0 s.cur _
@[simp] theorem State.modSc_bank1 (s : State) (f : Scalars → Scalars) : (s.modSc f).bank1 = s.bank1 := s.modStr_bank1 s.cur _
@[simp] theorem State.modSc_work1 (s : State) (f : Scalars → Scalars) : (s.modSc f).work1 = s.work1 := s.modStr_work1 s.cur _
@[simp] theorem State.modSc_mHold (s : State) (f : Scalars → Scalars) : (s.modSc f).mHold = s.mHold := s.modStr_mHold s.cur _
@[simp] theorem State.modSc_busy (s : State) (f : Scalars → Scalars) : (s.modSc f).busy = s.busy := s.modStr_busy s.cur _
@[simp] theorem State.modSc_doms (s : State) (f : Scalars → Scalars) : (s.modSc f).doms = s.doms := s.modStr_doms s.cur _
@[simp] theorem State.modSc_wakeQ (s : State) (f : Scalars → Scalars) : (s.modSc f).wakeQ = s.wakeQ := s.modStr_wakeQ s.cur _
@[simp] theorem State.modSc_filler (s : State) (f : Scalars → Scalars) : (s.modSc f).filler = s.filler := s.modStr_filler s.cur _
@[simp] theorem State.modSc_halfWidth (s : State) (f : Scalars → Scalars) : (s.modSc f).halfWidth = s.halfWidth := s.modStr_halfWidth s.cur _
@[simp] theorem State.modSc_window (s : State) (f : Scalars → Scalars) : (s.modSc f).window = s.window := s.modStr_window s.cur _
@[simp] theorem State.modSc_strict (s : State) (f : Scalars → Scalars) : (s.modSc f).strict = s.strict := s.modStr_strict s.cur _
@[simp] theorem State.modSc_fabLate (s : State) (f : Scalars → Scalars) : (s.modSc f).fabLate = s.fabLate := s.modStr_fabLate s.cur _
@[simp] theorem State.modSc_accs (s : State) (f : Scalars → Scalars) : (s.modSc f).accs = s.accs := s.modStr_accs s.cur _
@[simp] theorem State.modSc_copies (s : State) (f : Scalars → Scalars) : (s.modSc f).copies = s.copies := s.modStr_copies s.cur _
@[simp] theorem State.modSc_refresh (s : State) (f : Scalars → Scalars) : (s.modSc f).refresh = s.refresh := s.modStr_refresh s.cur _
@[simp] theorem State.modSc_mem (s : State) (f : Scalars → Scalars) : (s.modSc f).mem = s.mem := s.modStr_mem s.cur _
@[simp] theorem State.modSc_lanes (s : State) (f : Scalars → Scalars) : (s.modSc f).lanes = s.lanes := s.modStr_lanes s.cur _
@[simp] theorem State.modSc_stored (s : State) (f : Scalars → Scalars) : (s.modSc f).stored = s.stored := s.modStr_stored s.cur _
@[simp] theorem State.modSc_fabRates (s : State) (f : Scalars → Scalars) : (s.modSc f).fabRates = s.fabRates := s.modStr_fabRates s.cur _
@[simp] theorem State.modSc_pwrRamp (s : State) (f : Scalars → Scalars) : (s.modSc f).pwrRamp = s.pwrRamp := s.modStr_pwrRamp s.cur _
@[simp] theorem State.modSc_sessions (s : State) (f : Scalars → Scalars) : (s.modSc f).sessions = s.sessions := s.modStr_sessions s.cur _
@[simp] theorem State.modSc_queues (s : State) (f : Scalars → Scalars) : (s.modSc f).queues = s.queues := s.modStr_queues s.cur _
@[simp] theorem State.modSc_stepNums (s : State) (f : Scalars → Scalars) : (s.modSc f).stepNums = s.stepNums := s.modStr_stepNums s.cur _
@[simp] theorem State.modSc_results (s : State) (f : Scalars → Scalars) : (s.modSc f).results = s.results := s.modStr_results s.cur _
@[simp] theorem State.modSc_gangs (s : State) (f : Scalars → Scalars) : (s.modSc f).gangs = s.gangs := s.modStr_gangs s.cur _
@[simp] theorem State.modSc_headSince (s : State) (f : Scalars → Scalars) : (s.modSc f).headSince = s.headSince := s.modStr_headSince s.cur _
@[simp] theorem State.modSc_saved (s : State) (f : Scalars → Scalars) : (s.modSc f).saved = s.saved := s.modStr_saved s.cur _
@[simp] theorem State.modSc_power (s : State) (f : Scalars → Scalars) : (s.modSc f).power = s.power := s.modStr_power s.cur _
@[simp] theorem State.modSc_fabric (s : State) (f : Scalars → Scalars) : (s.modSc f).fabric = s.fabric := s.modStr_fabric s.cur _
@[simp] theorem State.modSc_service (s : State) (f : Scalars → Scalars) : (s.modSc f).service = s.service := s.modStr_service s.cur _
@[simp] theorem State.modSc_bb (s : State) (f : Scalars → Scalars) : (s.modSc f).bb = s.bb := s.modStr_bb s.cur _
@[simp] theorem State.modSc_bbCount (s : State) (f : Scalars → Scalars) : (s.modSc f).bbCount = s.bbCount := s.modStr_bbCount s.cur _
@[simp] theorem State.modSc_responses (s : State) (f : Scalars → Scalars) : (s.modSc f).responses = s.responses := s.modStr_responses s.cur _
@[simp] theorem State.modSc_nextGrid (s : State) (f : Scalars → Scalars) : (s.modSc f).nextGrid = s.nextGrid := s.modStr_nextGrid s.cur _
@[simp] theorem State.modSc_cur (s : State) (f : Scalars → Scalars) : (s.modSc f).cur = s.cur := s.modStr_cur s.cur _
@[simp] theorem State.modSc_turn (s : State) (f : Scalars → Scalars) : (s.modSc f).turn = s.turn := s.modStr_turn s.cur _
@[simp] theorem State.modSc_bundle (s : State) (f : Scalars → Scalars) : (s.modSc f).bundle = s.bundle := s.modStr_bundle s.cur _
@[simp] theorem State.modSc_primMask (s : State) (f : Scalars → Scalars) : (s.modSc f).primMask = s.primMask := s.modStr_primMask s.cur _
@[simp] theorem State.modSc_jump (s : State) (f : Scalars → Scalars) : (s.modSc f).jump = s.jump := s.modStr_jump s.cur _
@[simp] theorem State.modSc_free (s : State) (f : Scalars → Scalars) : (s.modSc f).free = s.free := s.modStr_free s.cur _
@[simp] theorem State.modSc_seq (s : State) (f : Scalars → Scalars) : (s.modSc f).seq = s.seq := s.modStr_seq s.cur _
@[simp] theorem State.modSc_inbox (s : State) (f : Scalars → Scalars) : (s.modSc f).inbox = s.inbox := s.modStr_inbox s.cur _

/-! ### `drawn` -/

@[simp] theorem State.drawn_coreNo (s : State) : (s.drawn).coreNo = s.coreNo := rfl
@[simp] theorem State.drawn_cycle (s : State) : (s.drawn).cycle = s.cycle := rfl
@[simp] theorem State.drawn_prim (s : State) : (s.drawn).prim = s.prim := rfl
@[simp] theorem State.drawn_sec (s : State) : (s.drawn).sec = s.sec := rfl
@[simp] theorem State.drawn_tiles (s : State) : (s.drawn).tiles = s.tiles := rfl
@[simp] theorem State.drawn_rowOps (s : State) : (s.drawn).rowOps = s.rowOps := rfl
@[simp] theorem State.drawn_masks (s : State) : (s.drawn).masks = s.masks := rfl
@[simp] theorem State.drawn_maskOps (s : State) : (s.drawn).maskOps = s.maskOps := rfl
@[simp] theorem State.drawn_xvs (s : State) : (s.drawn).xvs = s.xvs := rfl
@[simp] theorem State.drawn_xvOps (s : State) : (s.drawn).xvOps = s.xvOps := rfl
@[simp] theorem State.drawn_prows (s : State) : (s.drawn).prows = s.prows := rfl
@[simp] theorem State.drawn_pfmts (s : State) : (s.drawn).pfmts = s.pfmts := rfl
@[simp] theorem State.drawn_active (s : State) : (s.drawn).active = s.active := rfl
@[simp] theorem State.drawn_shadow (s : State) : (s.drawn).shadow = s.shadow := rfl
@[simp] theorem State.drawn_pass (s : State) : (s.drawn).pass = s.pass := rfl
@[simp] theorem State.drawn_bank0 (s : State) : (s.drawn).bank0 = s.bank0 := rfl
@[simp] theorem State.drawn_bank1 (s : State) : (s.drawn).bank1 = s.bank1 := rfl
@[simp] theorem State.drawn_work1 (s : State) : (s.drawn).work1 = s.work1 := rfl
@[simp] theorem State.drawn_mHold (s : State) : (s.drawn).mHold = s.mHold := rfl
@[simp] theorem State.drawn_busy (s : State) : (s.drawn).busy = s.busy := rfl
@[simp] theorem State.drawn_doms (s : State) : (s.drawn).doms = s.doms := rfl
@[simp] theorem State.drawn_wakeQ (s : State) : (s.drawn).wakeQ = s.wakeQ := rfl
@[simp] theorem State.drawn_filler (s : State) : (s.drawn).filler = s.filler := rfl
@[simp] theorem State.drawn_halfWidth (s : State) : (s.drawn).halfWidth = s.halfWidth := rfl
@[simp] theorem State.drawn_window (s : State) : (s.drawn).window = s.window := rfl
@[simp] theorem State.drawn_strict (s : State) : (s.drawn).strict = s.strict := rfl
@[simp] theorem State.drawn_fabLate (s : State) : (s.drawn).fabLate = s.fabLate := rfl
@[simp] theorem State.drawn_accs (s : State) : (s.drawn).accs = s.accs := rfl
@[simp] theorem State.drawn_copies (s : State) : (s.drawn).copies = s.copies := rfl
@[simp] theorem State.drawn_refresh (s : State) : (s.drawn).refresh = s.refresh := rfl
@[simp] theorem State.drawn_mem (s : State) : (s.drawn).mem = s.mem := rfl
@[simp] theorem State.drawn_lanes (s : State) : (s.drawn).lanes = s.lanes := rfl
@[simp] theorem State.drawn_stored (s : State) : (s.drawn).stored = s.stored := rfl
@[simp] theorem State.drawn_fabRates (s : State) : (s.drawn).fabRates = s.fabRates := rfl
@[simp] theorem State.drawn_pwrRamp (s : State) : (s.drawn).pwrRamp = s.pwrRamp := rfl
@[simp] theorem State.drawn_sessions (s : State) : (s.drawn).sessions = s.sessions := rfl
@[simp] theorem State.drawn_queues (s : State) : (s.drawn).queues = s.queues := rfl
@[simp] theorem State.drawn_stepNums (s : State) : (s.drawn).stepNums = s.stepNums := rfl
@[simp] theorem State.drawn_results (s : State) : (s.drawn).results = s.results := rfl
@[simp] theorem State.drawn_gangs (s : State) : (s.drawn).gangs = s.gangs := rfl
@[simp] theorem State.drawn_headSince (s : State) : (s.drawn).headSince = s.headSince := rfl
@[simp] theorem State.drawn_saved (s : State) : (s.drawn).saved = s.saved := rfl
@[simp] theorem State.drawn_power (s : State) : (s.drawn).power = s.power := rfl
@[simp] theorem State.drawn_fabric (s : State) : (s.drawn).fabric = s.fabric := rfl
@[simp] theorem State.drawn_service (s : State) : (s.drawn).service = s.service := rfl
@[simp] theorem State.drawn_bb (s : State) : (s.drawn).bb = s.bb := rfl
@[simp] theorem State.drawn_bbCount (s : State) : (s.drawn).bbCount = s.bbCount := rfl
@[simp] theorem State.drawn_responses (s : State) : (s.drawn).responses = s.responses := rfl
@[simp] theorem State.drawn_nextGrid (s : State) : (s.drawn).nextGrid = s.nextGrid := rfl
@[simp] theorem State.drawn_cur (s : State) : (s.drawn).cur = s.cur := rfl
@[simp] theorem State.drawn_turn (s : State) : (s.drawn).turn = s.turn := rfl
@[simp] theorem State.drawn_bundle (s : State) : (s.drawn).bundle = s.bundle := rfl
@[simp] theorem State.drawn_primMask (s : State) : (s.drawn).primMask = s.primMask := rfl
@[simp] theorem State.drawn_jump (s : State) : (s.drawn).jump = s.jump := rfl
@[simp] theorem State.drawn_seq (s : State) : (s.drawn).seq = s.seq := rfl
@[simp] theorem State.drawn_inbox (s : State) : (s.drawn).inbox = s.inbox := rfl

/-! ### `seqd` -/

@[simp] theorem State.seqd_coreNo (s : State) : (s.seqd).coreNo = s.coreNo := rfl
@[simp] theorem State.seqd_cycle (s : State) : (s.seqd).cycle = s.cycle := rfl
@[simp] theorem State.seqd_prim (s : State) : (s.seqd).prim = s.prim := rfl
@[simp] theorem State.seqd_sec (s : State) : (s.seqd).sec = s.sec := rfl
@[simp] theorem State.seqd_tiles (s : State) : (s.seqd).tiles = s.tiles := rfl
@[simp] theorem State.seqd_rowOps (s : State) : (s.seqd).rowOps = s.rowOps := rfl
@[simp] theorem State.seqd_masks (s : State) : (s.seqd).masks = s.masks := rfl
@[simp] theorem State.seqd_maskOps (s : State) : (s.seqd).maskOps = s.maskOps := rfl
@[simp] theorem State.seqd_xvs (s : State) : (s.seqd).xvs = s.xvs := rfl
@[simp] theorem State.seqd_xvOps (s : State) : (s.seqd).xvOps = s.xvOps := rfl
@[simp] theorem State.seqd_prows (s : State) : (s.seqd).prows = s.prows := rfl
@[simp] theorem State.seqd_pfmts (s : State) : (s.seqd).pfmts = s.pfmts := rfl
@[simp] theorem State.seqd_active (s : State) : (s.seqd).active = s.active := rfl
@[simp] theorem State.seqd_shadow (s : State) : (s.seqd).shadow = s.shadow := rfl
@[simp] theorem State.seqd_pass (s : State) : (s.seqd).pass = s.pass := rfl
@[simp] theorem State.seqd_bank0 (s : State) : (s.seqd).bank0 = s.bank0 := rfl
@[simp] theorem State.seqd_bank1 (s : State) : (s.seqd).bank1 = s.bank1 := rfl
@[simp] theorem State.seqd_work1 (s : State) : (s.seqd).work1 = s.work1 := rfl
@[simp] theorem State.seqd_mHold (s : State) : (s.seqd).mHold = s.mHold := rfl
@[simp] theorem State.seqd_busy (s : State) : (s.seqd).busy = s.busy := rfl
@[simp] theorem State.seqd_doms (s : State) : (s.seqd).doms = s.doms := rfl
@[simp] theorem State.seqd_wakeQ (s : State) : (s.seqd).wakeQ = s.wakeQ := rfl
@[simp] theorem State.seqd_filler (s : State) : (s.seqd).filler = s.filler := rfl
@[simp] theorem State.seqd_halfWidth (s : State) : (s.seqd).halfWidth = s.halfWidth := rfl
@[simp] theorem State.seqd_window (s : State) : (s.seqd).window = s.window := rfl
@[simp] theorem State.seqd_strict (s : State) : (s.seqd).strict = s.strict := rfl
@[simp] theorem State.seqd_fabLate (s : State) : (s.seqd).fabLate = s.fabLate := rfl
@[simp] theorem State.seqd_accs (s : State) : (s.seqd).accs = s.accs := rfl
@[simp] theorem State.seqd_copies (s : State) : (s.seqd).copies = s.copies := rfl
@[simp] theorem State.seqd_refresh (s : State) : (s.seqd).refresh = s.refresh := rfl
@[simp] theorem State.seqd_mem (s : State) : (s.seqd).mem = s.mem := rfl
@[simp] theorem State.seqd_lanes (s : State) : (s.seqd).lanes = s.lanes := rfl
@[simp] theorem State.seqd_stored (s : State) : (s.seqd).stored = s.stored := rfl
@[simp] theorem State.seqd_fabRates (s : State) : (s.seqd).fabRates = s.fabRates := rfl
@[simp] theorem State.seqd_pwrRamp (s : State) : (s.seqd).pwrRamp = s.pwrRamp := rfl
@[simp] theorem State.seqd_sessions (s : State) : (s.seqd).sessions = s.sessions := rfl
@[simp] theorem State.seqd_queues (s : State) : (s.seqd).queues = s.queues := rfl
@[simp] theorem State.seqd_stepNums (s : State) : (s.seqd).stepNums = s.stepNums := rfl
@[simp] theorem State.seqd_results (s : State) : (s.seqd).results = s.results := rfl
@[simp] theorem State.seqd_gangs (s : State) : (s.seqd).gangs = s.gangs := rfl
@[simp] theorem State.seqd_headSince (s : State) : (s.seqd).headSince = s.headSince := rfl
@[simp] theorem State.seqd_saved (s : State) : (s.seqd).saved = s.saved := rfl
@[simp] theorem State.seqd_power (s : State) : (s.seqd).power = s.power := rfl
@[simp] theorem State.seqd_fabric (s : State) : (s.seqd).fabric = s.fabric := rfl
@[simp] theorem State.seqd_service (s : State) : (s.seqd).service = s.service := rfl
@[simp] theorem State.seqd_bb (s : State) : (s.seqd).bb = s.bb := rfl
@[simp] theorem State.seqd_bbCount (s : State) : (s.seqd).bbCount = s.bbCount := rfl
@[simp] theorem State.seqd_responses (s : State) : (s.seqd).responses = s.responses := rfl
@[simp] theorem State.seqd_nextGrid (s : State) : (s.seqd).nextGrid = s.nextGrid := rfl
@[simp] theorem State.seqd_cur (s : State) : (s.seqd).cur = s.cur := rfl
@[simp] theorem State.seqd_turn (s : State) : (s.seqd).turn = s.turn := rfl
@[simp] theorem State.seqd_bundle (s : State) : (s.seqd).bundle = s.bundle := rfl
@[simp] theorem State.seqd_primMask (s : State) : (s.seqd).primMask = s.primMask := rfl
@[simp] theorem State.seqd_jump (s : State) : (s.seqd).jump = s.jump := rfl
@[simp] theorem State.seqd_free (s : State) : (s.seqd).free = s.free := rfl
@[simp] theorem State.seqd_inbox (s : State) : (s.seqd).inbox = s.inbox := rfl

/-! ### `setDom` -/

@[simp] theorem State.setDom_coreNo (s : State) (d : Nat) (v : Dom) : (s.setDom d v).coreNo = s.coreNo := rfl
@[simp] theorem State.setDom_cycle (s : State) (d : Nat) (v : Dom) : (s.setDom d v).cycle = s.cycle := rfl
@[simp] theorem State.setDom_prim (s : State) (d : Nat) (v : Dom) : (s.setDom d v).prim = s.prim := rfl
@[simp] theorem State.setDom_sec (s : State) (d : Nat) (v : Dom) : (s.setDom d v).sec = s.sec := rfl
@[simp] theorem State.setDom_tiles (s : State) (d : Nat) (v : Dom) : (s.setDom d v).tiles = s.tiles := rfl
@[simp] theorem State.setDom_rowOps (s : State) (d : Nat) (v : Dom) : (s.setDom d v).rowOps = s.rowOps := rfl
@[simp] theorem State.setDom_masks (s : State) (d : Nat) (v : Dom) : (s.setDom d v).masks = s.masks := rfl
@[simp] theorem State.setDom_maskOps (s : State) (d : Nat) (v : Dom) : (s.setDom d v).maskOps = s.maskOps := rfl
@[simp] theorem State.setDom_xvs (s : State) (d : Nat) (v : Dom) : (s.setDom d v).xvs = s.xvs := rfl
@[simp] theorem State.setDom_xvOps (s : State) (d : Nat) (v : Dom) : (s.setDom d v).xvOps = s.xvOps := rfl
@[simp] theorem State.setDom_prows (s : State) (d : Nat) (v : Dom) : (s.setDom d v).prows = s.prows := rfl
@[simp] theorem State.setDom_pfmts (s : State) (d : Nat) (v : Dom) : (s.setDom d v).pfmts = s.pfmts := rfl
@[simp] theorem State.setDom_active (s : State) (d : Nat) (v : Dom) : (s.setDom d v).active = s.active := rfl
@[simp] theorem State.setDom_shadow (s : State) (d : Nat) (v : Dom) : (s.setDom d v).shadow = s.shadow := rfl
@[simp] theorem State.setDom_pass (s : State) (d : Nat) (v : Dom) : (s.setDom d v).pass = s.pass := rfl
@[simp] theorem State.setDom_bank0 (s : State) (d : Nat) (v : Dom) : (s.setDom d v).bank0 = s.bank0 := rfl
@[simp] theorem State.setDom_bank1 (s : State) (d : Nat) (v : Dom) : (s.setDom d v).bank1 = s.bank1 := rfl
@[simp] theorem State.setDom_work1 (s : State) (d : Nat) (v : Dom) : (s.setDom d v).work1 = s.work1 := rfl
@[simp] theorem State.setDom_mHold (s : State) (d : Nat) (v : Dom) : (s.setDom d v).mHold = s.mHold := rfl
@[simp] theorem State.setDom_busy (s : State) (d : Nat) (v : Dom) : (s.setDom d v).busy = s.busy := rfl
@[simp] theorem State.setDom_wakeQ (s : State) (d : Nat) (v : Dom) : (s.setDom d v).wakeQ = s.wakeQ := rfl
@[simp] theorem State.setDom_filler (s : State) (d : Nat) (v : Dom) : (s.setDom d v).filler = s.filler := rfl
@[simp] theorem State.setDom_halfWidth (s : State) (d : Nat) (v : Dom) : (s.setDom d v).halfWidth = s.halfWidth := rfl
@[simp] theorem State.setDom_window (s : State) (d : Nat) (v : Dom) : (s.setDom d v).window = s.window := rfl
@[simp] theorem State.setDom_strict (s : State) (d : Nat) (v : Dom) : (s.setDom d v).strict = s.strict := rfl
@[simp] theorem State.setDom_fabLate (s : State) (d : Nat) (v : Dom) : (s.setDom d v).fabLate = s.fabLate := rfl
@[simp] theorem State.setDom_accs (s : State) (d : Nat) (v : Dom) : (s.setDom d v).accs = s.accs := rfl
@[simp] theorem State.setDom_copies (s : State) (d : Nat) (v : Dom) : (s.setDom d v).copies = s.copies := rfl
@[simp] theorem State.setDom_refresh (s : State) (d : Nat) (v : Dom) : (s.setDom d v).refresh = s.refresh := rfl
@[simp] theorem State.setDom_mem (s : State) (d : Nat) (v : Dom) : (s.setDom d v).mem = s.mem := rfl
@[simp] theorem State.setDom_lanes (s : State) (d : Nat) (v : Dom) : (s.setDom d v).lanes = s.lanes := rfl
@[simp] theorem State.setDom_stored (s : State) (d : Nat) (v : Dom) : (s.setDom d v).stored = s.stored := rfl
@[simp] theorem State.setDom_fabRates (s : State) (d : Nat) (v : Dom) : (s.setDom d v).fabRates = s.fabRates := rfl
@[simp] theorem State.setDom_pwrRamp (s : State) (d : Nat) (v : Dom) : (s.setDom d v).pwrRamp = s.pwrRamp := rfl
@[simp] theorem State.setDom_sessions (s : State) (d : Nat) (v : Dom) : (s.setDom d v).sessions = s.sessions := rfl
@[simp] theorem State.setDom_queues (s : State) (d : Nat) (v : Dom) : (s.setDom d v).queues = s.queues := rfl
@[simp] theorem State.setDom_stepNums (s : State) (d : Nat) (v : Dom) : (s.setDom d v).stepNums = s.stepNums := rfl
@[simp] theorem State.setDom_results (s : State) (d : Nat) (v : Dom) : (s.setDom d v).results = s.results := rfl
@[simp] theorem State.setDom_gangs (s : State) (d : Nat) (v : Dom) : (s.setDom d v).gangs = s.gangs := rfl
@[simp] theorem State.setDom_headSince (s : State) (d : Nat) (v : Dom) : (s.setDom d v).headSince = s.headSince := rfl
@[simp] theorem State.setDom_saved (s : State) (d : Nat) (v : Dom) : (s.setDom d v).saved = s.saved := rfl
@[simp] theorem State.setDom_power (s : State) (d : Nat) (v : Dom) : (s.setDom d v).power = s.power := rfl
@[simp] theorem State.setDom_fabric (s : State) (d : Nat) (v : Dom) : (s.setDom d v).fabric = s.fabric := rfl
@[simp] theorem State.setDom_service (s : State) (d : Nat) (v : Dom) : (s.setDom d v).service = s.service := rfl
@[simp] theorem State.setDom_bb (s : State) (d : Nat) (v : Dom) : (s.setDom d v).bb = s.bb := rfl
@[simp] theorem State.setDom_bbCount (s : State) (d : Nat) (v : Dom) : (s.setDom d v).bbCount = s.bbCount := rfl
@[simp] theorem State.setDom_responses (s : State) (d : Nat) (v : Dom) : (s.setDom d v).responses = s.responses := rfl
@[simp] theorem State.setDom_nextGrid (s : State) (d : Nat) (v : Dom) : (s.setDom d v).nextGrid = s.nextGrid := rfl
@[simp] theorem State.setDom_cur (s : State) (d : Nat) (v : Dom) : (s.setDom d v).cur = s.cur := rfl
@[simp] theorem State.setDom_turn (s : State) (d : Nat) (v : Dom) : (s.setDom d v).turn = s.turn := rfl
@[simp] theorem State.setDom_bundle (s : State) (d : Nat) (v : Dom) : (s.setDom d v).bundle = s.bundle := rfl
@[simp] theorem State.setDom_primMask (s : State) (d : Nat) (v : Dom) : (s.setDom d v).primMask = s.primMask := rfl
@[simp] theorem State.setDom_jump (s : State) (d : Nat) (v : Dom) : (s.setDom d v).jump = s.jump := rfl
@[simp] theorem State.setDom_free (s : State) (d : Nat) (v : Dom) : (s.setDom d v).free = s.free := rfl
@[simp] theorem State.setDom_seq (s : State) (d : Nat) (v : Dom) : (s.setDom d v).seq = s.seq := rfl
@[simp] theorem State.setDom_inbox (s : State) (d : Nat) (v : Dom) : (s.setDom d v).inbox = s.inbox := rfl

/-! ### `setByte` -/

@[simp] theorem State.setByte_coreNo (s : State) (a : Nat) (b : Byte) : (s.setByte a b).coreNo = s.coreNo := rfl
@[simp] theorem State.setByte_cycle (s : State) (a : Nat) (b : Byte) : (s.setByte a b).cycle = s.cycle := rfl
@[simp] theorem State.setByte_prim (s : State) (a : Nat) (b : Byte) : (s.setByte a b).prim = s.prim := rfl
@[simp] theorem State.setByte_sec (s : State) (a : Nat) (b : Byte) : (s.setByte a b).sec = s.sec := rfl
@[simp] theorem State.setByte_tiles (s : State) (a : Nat) (b : Byte) : (s.setByte a b).tiles = s.tiles := rfl
@[simp] theorem State.setByte_rowOps (s : State) (a : Nat) (b : Byte) : (s.setByte a b).rowOps = s.rowOps := rfl
@[simp] theorem State.setByte_masks (s : State) (a : Nat) (b : Byte) : (s.setByte a b).masks = s.masks := rfl
@[simp] theorem State.setByte_maskOps (s : State) (a : Nat) (b : Byte) : (s.setByte a b).maskOps = s.maskOps := rfl
@[simp] theorem State.setByte_xvs (s : State) (a : Nat) (b : Byte) : (s.setByte a b).xvs = s.xvs := rfl
@[simp] theorem State.setByte_xvOps (s : State) (a : Nat) (b : Byte) : (s.setByte a b).xvOps = s.xvOps := rfl
@[simp] theorem State.setByte_prows (s : State) (a : Nat) (b : Byte) : (s.setByte a b).prows = s.prows := rfl
@[simp] theorem State.setByte_pfmts (s : State) (a : Nat) (b : Byte) : (s.setByte a b).pfmts = s.pfmts := rfl
@[simp] theorem State.setByte_active (s : State) (a : Nat) (b : Byte) : (s.setByte a b).active = s.active := rfl
@[simp] theorem State.setByte_shadow (s : State) (a : Nat) (b : Byte) : (s.setByte a b).shadow = s.shadow := rfl
@[simp] theorem State.setByte_pass (s : State) (a : Nat) (b : Byte) : (s.setByte a b).pass = s.pass := rfl
@[simp] theorem State.setByte_bank0 (s : State) (a : Nat) (b : Byte) : (s.setByte a b).bank0 = s.bank0 := rfl
@[simp] theorem State.setByte_bank1 (s : State) (a : Nat) (b : Byte) : (s.setByte a b).bank1 = s.bank1 := rfl
@[simp] theorem State.setByte_work1 (s : State) (a : Nat) (b : Byte) : (s.setByte a b).work1 = s.work1 := rfl
@[simp] theorem State.setByte_mHold (s : State) (a : Nat) (b : Byte) : (s.setByte a b).mHold = s.mHold := rfl
@[simp] theorem State.setByte_busy (s : State) (a : Nat) (b : Byte) : (s.setByte a b).busy = s.busy := rfl
@[simp] theorem State.setByte_doms (s : State) (a : Nat) (b : Byte) : (s.setByte a b).doms = s.doms := rfl
@[simp] theorem State.setByte_wakeQ (s : State) (a : Nat) (b : Byte) : (s.setByte a b).wakeQ = s.wakeQ := rfl
@[simp] theorem State.setByte_filler (s : State) (a : Nat) (b : Byte) : (s.setByte a b).filler = s.filler := rfl
@[simp] theorem State.setByte_halfWidth (s : State) (a : Nat) (b : Byte) : (s.setByte a b).halfWidth = s.halfWidth := rfl
@[simp] theorem State.setByte_window (s : State) (a : Nat) (b : Byte) : (s.setByte a b).window = s.window := rfl
@[simp] theorem State.setByte_strict (s : State) (a : Nat) (b : Byte) : (s.setByte a b).strict = s.strict := rfl
@[simp] theorem State.setByte_fabLate (s : State) (a : Nat) (b : Byte) : (s.setByte a b).fabLate = s.fabLate := rfl
@[simp] theorem State.setByte_accs (s : State) (a : Nat) (b : Byte) : (s.setByte a b).accs = s.accs := rfl
@[simp] theorem State.setByte_copies (s : State) (a : Nat) (b : Byte) : (s.setByte a b).copies = s.copies := rfl
@[simp] theorem State.setByte_refresh (s : State) (a : Nat) (b : Byte) : (s.setByte a b).refresh = s.refresh := rfl
@[simp] theorem State.setByte_lanes (s : State) (a : Nat) (b : Byte) : (s.setByte a b).lanes = s.lanes := rfl
@[simp] theorem State.setByte_stored (s : State) (a : Nat) (b : Byte) : (s.setByte a b).stored = s.stored := rfl
@[simp] theorem State.setByte_fabRates (s : State) (a : Nat) (b : Byte) : (s.setByte a b).fabRates = s.fabRates := rfl
@[simp] theorem State.setByte_pwrRamp (s : State) (a : Nat) (b : Byte) : (s.setByte a b).pwrRamp = s.pwrRamp := rfl
@[simp] theorem State.setByte_sessions (s : State) (a : Nat) (b : Byte) : (s.setByte a b).sessions = s.sessions := rfl
@[simp] theorem State.setByte_queues (s : State) (a : Nat) (b : Byte) : (s.setByte a b).queues = s.queues := rfl
@[simp] theorem State.setByte_stepNums (s : State) (a : Nat) (b : Byte) : (s.setByte a b).stepNums = s.stepNums := rfl
@[simp] theorem State.setByte_results (s : State) (a : Nat) (b : Byte) : (s.setByte a b).results = s.results := rfl
@[simp] theorem State.setByte_gangs (s : State) (a : Nat) (b : Byte) : (s.setByte a b).gangs = s.gangs := rfl
@[simp] theorem State.setByte_headSince (s : State) (a : Nat) (b : Byte) : (s.setByte a b).headSince = s.headSince := rfl
@[simp] theorem State.setByte_saved (s : State) (a : Nat) (b : Byte) : (s.setByte a b).saved = s.saved := rfl
@[simp] theorem State.setByte_power (s : State) (a : Nat) (b : Byte) : (s.setByte a b).power = s.power := rfl
@[simp] theorem State.setByte_fabric (s : State) (a : Nat) (b : Byte) : (s.setByte a b).fabric = s.fabric := rfl
@[simp] theorem State.setByte_service (s : State) (a : Nat) (b : Byte) : (s.setByte a b).service = s.service := rfl
@[simp] theorem State.setByte_bb (s : State) (a : Nat) (b : Byte) : (s.setByte a b).bb = s.bb := rfl
@[simp] theorem State.setByte_bbCount (s : State) (a : Nat) (b : Byte) : (s.setByte a b).bbCount = s.bbCount := rfl
@[simp] theorem State.setByte_responses (s : State) (a : Nat) (b : Byte) : (s.setByte a b).responses = s.responses := rfl
@[simp] theorem State.setByte_nextGrid (s : State) (a : Nat) (b : Byte) : (s.setByte a b).nextGrid = s.nextGrid := rfl
@[simp] theorem State.setByte_cur (s : State) (a : Nat) (b : Byte) : (s.setByte a b).cur = s.cur := rfl
@[simp] theorem State.setByte_turn (s : State) (a : Nat) (b : Byte) : (s.setByte a b).turn = s.turn := rfl
@[simp] theorem State.setByte_bundle (s : State) (a : Nat) (b : Byte) : (s.setByte a b).bundle = s.bundle := rfl
@[simp] theorem State.setByte_primMask (s : State) (a : Nat) (b : Byte) : (s.setByte a b).primMask = s.primMask := rfl
@[simp] theorem State.setByte_jump (s : State) (a : Nat) (b : Byte) : (s.setByte a b).jump = s.jump := rfl
@[simp] theorem State.setByte_free (s : State) (a : Nat) (b : Byte) : (s.setByte a b).free = s.free := rfl
@[simp] theorem State.setByte_seq (s : State) (a : Nat) (b : Byte) : (s.setByte a b).seq = s.seq := rfl
@[simp] theorem State.setByte_inbox (s : State) (a : Nat) (b : Byte) : (s.setByte a b).inbox = s.inbox := rfl

/-! ### `setLane` -/

@[simp] theorem State.setLane_coreNo (s : State) (a : Nat) (v : W64) : (s.setLane a v).coreNo = s.coreNo := rfl
@[simp] theorem State.setLane_cycle (s : State) (a : Nat) (v : W64) : (s.setLane a v).cycle = s.cycle := rfl
@[simp] theorem State.setLane_prim (s : State) (a : Nat) (v : W64) : (s.setLane a v).prim = s.prim := rfl
@[simp] theorem State.setLane_sec (s : State) (a : Nat) (v : W64) : (s.setLane a v).sec = s.sec := rfl
@[simp] theorem State.setLane_tiles (s : State) (a : Nat) (v : W64) : (s.setLane a v).tiles = s.tiles := rfl
@[simp] theorem State.setLane_rowOps (s : State) (a : Nat) (v : W64) : (s.setLane a v).rowOps = s.rowOps := rfl
@[simp] theorem State.setLane_masks (s : State) (a : Nat) (v : W64) : (s.setLane a v).masks = s.masks := rfl
@[simp] theorem State.setLane_maskOps (s : State) (a : Nat) (v : W64) : (s.setLane a v).maskOps = s.maskOps := rfl
@[simp] theorem State.setLane_xvs (s : State) (a : Nat) (v : W64) : (s.setLane a v).xvs = s.xvs := rfl
@[simp] theorem State.setLane_xvOps (s : State) (a : Nat) (v : W64) : (s.setLane a v).xvOps = s.xvOps := rfl
@[simp] theorem State.setLane_prows (s : State) (a : Nat) (v : W64) : (s.setLane a v).prows = s.prows := rfl
@[simp] theorem State.setLane_pfmts (s : State) (a : Nat) (v : W64) : (s.setLane a v).pfmts = s.pfmts := rfl
@[simp] theorem State.setLane_active (s : State) (a : Nat) (v : W64) : (s.setLane a v).active = s.active := rfl
@[simp] theorem State.setLane_shadow (s : State) (a : Nat) (v : W64) : (s.setLane a v).shadow = s.shadow := rfl
@[simp] theorem State.setLane_pass (s : State) (a : Nat) (v : W64) : (s.setLane a v).pass = s.pass := rfl
@[simp] theorem State.setLane_bank0 (s : State) (a : Nat) (v : W64) : (s.setLane a v).bank0 = s.bank0 := rfl
@[simp] theorem State.setLane_bank1 (s : State) (a : Nat) (v : W64) : (s.setLane a v).bank1 = s.bank1 := rfl
@[simp] theorem State.setLane_work1 (s : State) (a : Nat) (v : W64) : (s.setLane a v).work1 = s.work1 := rfl
@[simp] theorem State.setLane_mHold (s : State) (a : Nat) (v : W64) : (s.setLane a v).mHold = s.mHold := rfl
@[simp] theorem State.setLane_busy (s : State) (a : Nat) (v : W64) : (s.setLane a v).busy = s.busy := rfl
@[simp] theorem State.setLane_doms (s : State) (a : Nat) (v : W64) : (s.setLane a v).doms = s.doms := rfl
@[simp] theorem State.setLane_wakeQ (s : State) (a : Nat) (v : W64) : (s.setLane a v).wakeQ = s.wakeQ := rfl
@[simp] theorem State.setLane_filler (s : State) (a : Nat) (v : W64) : (s.setLane a v).filler = s.filler := rfl
@[simp] theorem State.setLane_halfWidth (s : State) (a : Nat) (v : W64) : (s.setLane a v).halfWidth = s.halfWidth := rfl
@[simp] theorem State.setLane_window (s : State) (a : Nat) (v : W64) : (s.setLane a v).window = s.window := rfl
@[simp] theorem State.setLane_strict (s : State) (a : Nat) (v : W64) : (s.setLane a v).strict = s.strict := rfl
@[simp] theorem State.setLane_fabLate (s : State) (a : Nat) (v : W64) : (s.setLane a v).fabLate = s.fabLate := rfl
@[simp] theorem State.setLane_accs (s : State) (a : Nat) (v : W64) : (s.setLane a v).accs = s.accs := rfl
@[simp] theorem State.setLane_copies (s : State) (a : Nat) (v : W64) : (s.setLane a v).copies = s.copies := rfl
@[simp] theorem State.setLane_refresh (s : State) (a : Nat) (v : W64) : (s.setLane a v).refresh = s.refresh := rfl
@[simp] theorem State.setLane_mem (s : State) (a : Nat) (v : W64) : (s.setLane a v).mem = s.mem := rfl
@[simp] theorem State.setLane_stored (s : State) (a : Nat) (v : W64) : (s.setLane a v).stored = s.stored := rfl
@[simp] theorem State.setLane_fabRates (s : State) (a : Nat) (v : W64) : (s.setLane a v).fabRates = s.fabRates := rfl
@[simp] theorem State.setLane_pwrRamp (s : State) (a : Nat) (v : W64) : (s.setLane a v).pwrRamp = s.pwrRamp := rfl
@[simp] theorem State.setLane_sessions (s : State) (a : Nat) (v : W64) : (s.setLane a v).sessions = s.sessions := rfl
@[simp] theorem State.setLane_queues (s : State) (a : Nat) (v : W64) : (s.setLane a v).queues = s.queues := rfl
@[simp] theorem State.setLane_stepNums (s : State) (a : Nat) (v : W64) : (s.setLane a v).stepNums = s.stepNums := rfl
@[simp] theorem State.setLane_results (s : State) (a : Nat) (v : W64) : (s.setLane a v).results = s.results := rfl
@[simp] theorem State.setLane_gangs (s : State) (a : Nat) (v : W64) : (s.setLane a v).gangs = s.gangs := rfl
@[simp] theorem State.setLane_headSince (s : State) (a : Nat) (v : W64) : (s.setLane a v).headSince = s.headSince := rfl
@[simp] theorem State.setLane_saved (s : State) (a : Nat) (v : W64) : (s.setLane a v).saved = s.saved := rfl
@[simp] theorem State.setLane_power (s : State) (a : Nat) (v : W64) : (s.setLane a v).power = s.power := rfl
@[simp] theorem State.setLane_fabric (s : State) (a : Nat) (v : W64) : (s.setLane a v).fabric = s.fabric := rfl
@[simp] theorem State.setLane_service (s : State) (a : Nat) (v : W64) : (s.setLane a v).service = s.service := rfl
@[simp] theorem State.setLane_bb (s : State) (a : Nat) (v : W64) : (s.setLane a v).bb = s.bb := rfl
@[simp] theorem State.setLane_bbCount (s : State) (a : Nat) (v : W64) : (s.setLane a v).bbCount = s.bbCount := rfl
@[simp] theorem State.setLane_responses (s : State) (a : Nat) (v : W64) : (s.setLane a v).responses = s.responses := rfl
@[simp] theorem State.setLane_nextGrid (s : State) (a : Nat) (v : W64) : (s.setLane a v).nextGrid = s.nextGrid := rfl
@[simp] theorem State.setLane_cur (s : State) (a : Nat) (v : W64) : (s.setLane a v).cur = s.cur := rfl
@[simp] theorem State.setLane_turn (s : State) (a : Nat) (v : W64) : (s.setLane a v).turn = s.turn := rfl
@[simp] theorem State.setLane_bundle (s : State) (a : Nat) (v : W64) : (s.setLane a v).bundle = s.bundle := rfl
@[simp] theorem State.setLane_primMask (s : State) (a : Nat) (v : W64) : (s.setLane a v).primMask = s.primMask := rfl
@[simp] theorem State.setLane_jump (s : State) (a : Nat) (v : W64) : (s.setLane a v).jump = s.jump := rfl
@[simp] theorem State.setLane_free (s : State) (a : Nat) (v : W64) : (s.setLane a v).free = s.free := rfl
@[simp] theorem State.setLane_seq (s : State) (a : Nat) (v : W64) : (s.setLane a v).seq = s.seq := rfl
@[simp] theorem State.setLane_inbox (s : State) (a : Nat) (v : W64) : (s.setLane a v).inbox = s.inbox := rfl

/-! ### `addRowOp` -/

@[simp] theorem State.addRowOp_coreNo (s : State) (o : RowOp) : (s.addRowOp o).coreNo = s.coreNo := rfl
@[simp] theorem State.addRowOp_cycle (s : State) (o : RowOp) : (s.addRowOp o).cycle = s.cycle := rfl
@[simp] theorem State.addRowOp_prim (s : State) (o : RowOp) : (s.addRowOp o).prim = s.prim := rfl
@[simp] theorem State.addRowOp_sec (s : State) (o : RowOp) : (s.addRowOp o).sec = s.sec := rfl
@[simp] theorem State.addRowOp_tiles (s : State) (o : RowOp) : (s.addRowOp o).tiles = s.tiles := rfl
@[simp] theorem State.addRowOp_masks (s : State) (o : RowOp) : (s.addRowOp o).masks = s.masks := rfl
@[simp] theorem State.addRowOp_maskOps (s : State) (o : RowOp) : (s.addRowOp o).maskOps = s.maskOps := rfl
@[simp] theorem State.addRowOp_xvs (s : State) (o : RowOp) : (s.addRowOp o).xvs = s.xvs := rfl
@[simp] theorem State.addRowOp_xvOps (s : State) (o : RowOp) : (s.addRowOp o).xvOps = s.xvOps := rfl
@[simp] theorem State.addRowOp_prows (s : State) (o : RowOp) : (s.addRowOp o).prows = s.prows := rfl
@[simp] theorem State.addRowOp_pfmts (s : State) (o : RowOp) : (s.addRowOp o).pfmts = s.pfmts := rfl
@[simp] theorem State.addRowOp_active (s : State) (o : RowOp) : (s.addRowOp o).active = s.active := rfl
@[simp] theorem State.addRowOp_shadow (s : State) (o : RowOp) : (s.addRowOp o).shadow = s.shadow := rfl
@[simp] theorem State.addRowOp_pass (s : State) (o : RowOp) : (s.addRowOp o).pass = s.pass := rfl
@[simp] theorem State.addRowOp_bank0 (s : State) (o : RowOp) : (s.addRowOp o).bank0 = s.bank0 := rfl
@[simp] theorem State.addRowOp_bank1 (s : State) (o : RowOp) : (s.addRowOp o).bank1 = s.bank1 := rfl
@[simp] theorem State.addRowOp_work1 (s : State) (o : RowOp) : (s.addRowOp o).work1 = s.work1 := rfl
@[simp] theorem State.addRowOp_mHold (s : State) (o : RowOp) : (s.addRowOp o).mHold = s.mHold := rfl
@[simp] theorem State.addRowOp_busy (s : State) (o : RowOp) : (s.addRowOp o).busy = s.busy := rfl
@[simp] theorem State.addRowOp_doms (s : State) (o : RowOp) : (s.addRowOp o).doms = s.doms := rfl
@[simp] theorem State.addRowOp_wakeQ (s : State) (o : RowOp) : (s.addRowOp o).wakeQ = s.wakeQ := rfl
@[simp] theorem State.addRowOp_filler (s : State) (o : RowOp) : (s.addRowOp o).filler = s.filler := rfl
@[simp] theorem State.addRowOp_halfWidth (s : State) (o : RowOp) : (s.addRowOp o).halfWidth = s.halfWidth := rfl
@[simp] theorem State.addRowOp_window (s : State) (o : RowOp) : (s.addRowOp o).window = s.window := rfl
@[simp] theorem State.addRowOp_strict (s : State) (o : RowOp) : (s.addRowOp o).strict = s.strict := rfl
@[simp] theorem State.addRowOp_fabLate (s : State) (o : RowOp) : (s.addRowOp o).fabLate = s.fabLate := rfl
@[simp] theorem State.addRowOp_accs (s : State) (o : RowOp) : (s.addRowOp o).accs = s.accs := rfl
@[simp] theorem State.addRowOp_copies (s : State) (o : RowOp) : (s.addRowOp o).copies = s.copies := rfl
@[simp] theorem State.addRowOp_refresh (s : State) (o : RowOp) : (s.addRowOp o).refresh = s.refresh := rfl
@[simp] theorem State.addRowOp_mem (s : State) (o : RowOp) : (s.addRowOp o).mem = s.mem := rfl
@[simp] theorem State.addRowOp_lanes (s : State) (o : RowOp) : (s.addRowOp o).lanes = s.lanes := rfl
@[simp] theorem State.addRowOp_stored (s : State) (o : RowOp) : (s.addRowOp o).stored = s.stored := rfl
@[simp] theorem State.addRowOp_fabRates (s : State) (o : RowOp) : (s.addRowOp o).fabRates = s.fabRates := rfl
@[simp] theorem State.addRowOp_pwrRamp (s : State) (o : RowOp) : (s.addRowOp o).pwrRamp = s.pwrRamp := rfl
@[simp] theorem State.addRowOp_sessions (s : State) (o : RowOp) : (s.addRowOp o).sessions = s.sessions := rfl
@[simp] theorem State.addRowOp_queues (s : State) (o : RowOp) : (s.addRowOp o).queues = s.queues := rfl
@[simp] theorem State.addRowOp_stepNums (s : State) (o : RowOp) : (s.addRowOp o).stepNums = s.stepNums := rfl
@[simp] theorem State.addRowOp_results (s : State) (o : RowOp) : (s.addRowOp o).results = s.results := rfl
@[simp] theorem State.addRowOp_gangs (s : State) (o : RowOp) : (s.addRowOp o).gangs = s.gangs := rfl
@[simp] theorem State.addRowOp_headSince (s : State) (o : RowOp) : (s.addRowOp o).headSince = s.headSince := rfl
@[simp] theorem State.addRowOp_saved (s : State) (o : RowOp) : (s.addRowOp o).saved = s.saved := rfl
@[simp] theorem State.addRowOp_power (s : State) (o : RowOp) : (s.addRowOp o).power = s.power := rfl
@[simp] theorem State.addRowOp_fabric (s : State) (o : RowOp) : (s.addRowOp o).fabric = s.fabric := rfl
@[simp] theorem State.addRowOp_service (s : State) (o : RowOp) : (s.addRowOp o).service = s.service := rfl
@[simp] theorem State.addRowOp_bb (s : State) (o : RowOp) : (s.addRowOp o).bb = s.bb := rfl
@[simp] theorem State.addRowOp_bbCount (s : State) (o : RowOp) : (s.addRowOp o).bbCount = s.bbCount := rfl
@[simp] theorem State.addRowOp_responses (s : State) (o : RowOp) : (s.addRowOp o).responses = s.responses := rfl
@[simp] theorem State.addRowOp_nextGrid (s : State) (o : RowOp) : (s.addRowOp o).nextGrid = s.nextGrid := rfl
@[simp] theorem State.addRowOp_cur (s : State) (o : RowOp) : (s.addRowOp o).cur = s.cur := rfl
@[simp] theorem State.addRowOp_turn (s : State) (o : RowOp) : (s.addRowOp o).turn = s.turn := rfl
@[simp] theorem State.addRowOp_bundle (s : State) (o : RowOp) : (s.addRowOp o).bundle = s.bundle := rfl
@[simp] theorem State.addRowOp_primMask (s : State) (o : RowOp) : (s.addRowOp o).primMask = s.primMask := rfl
@[simp] theorem State.addRowOp_jump (s : State) (o : RowOp) : (s.addRowOp o).jump = s.jump := rfl
@[simp] theorem State.addRowOp_free (s : State) (o : RowOp) : (s.addRowOp o).free = s.free := rfl
@[simp] theorem State.addRowOp_seq (s : State) (o : RowOp) : (s.addRowOp o).seq = s.seq := rfl
@[simp] theorem State.addRowOp_inbox (s : State) (o : RowOp) : (s.addRowOp o).inbox = s.inbox := rfl

/-! ### `modSession` -/

@[simp] theorem State.modSession_coreNo (s : State) (n : BitVec 12) (f : Session → Session) : (s.modSession n f).coreNo = s.coreNo := rfl
@[simp] theorem State.modSession_cycle (s : State) (n : BitVec 12) (f : Session → Session) : (s.modSession n f).cycle = s.cycle := rfl
@[simp] theorem State.modSession_prim (s : State) (n : BitVec 12) (f : Session → Session) : (s.modSession n f).prim = s.prim := rfl
@[simp] theorem State.modSession_sec (s : State) (n : BitVec 12) (f : Session → Session) : (s.modSession n f).sec = s.sec := rfl
@[simp] theorem State.modSession_tiles (s : State) (n : BitVec 12) (f : Session → Session) : (s.modSession n f).tiles = s.tiles := rfl
@[simp] theorem State.modSession_rowOps (s : State) (n : BitVec 12) (f : Session → Session) : (s.modSession n f).rowOps = s.rowOps := rfl
@[simp] theorem State.modSession_masks (s : State) (n : BitVec 12) (f : Session → Session) : (s.modSession n f).masks = s.masks := rfl
@[simp] theorem State.modSession_maskOps (s : State) (n : BitVec 12) (f : Session → Session) : (s.modSession n f).maskOps = s.maskOps := rfl
@[simp] theorem State.modSession_xvs (s : State) (n : BitVec 12) (f : Session → Session) : (s.modSession n f).xvs = s.xvs := rfl
@[simp] theorem State.modSession_xvOps (s : State) (n : BitVec 12) (f : Session → Session) : (s.modSession n f).xvOps = s.xvOps := rfl
@[simp] theorem State.modSession_prows (s : State) (n : BitVec 12) (f : Session → Session) : (s.modSession n f).prows = s.prows := rfl
@[simp] theorem State.modSession_pfmts (s : State) (n : BitVec 12) (f : Session → Session) : (s.modSession n f).pfmts = s.pfmts := rfl
@[simp] theorem State.modSession_active (s : State) (n : BitVec 12) (f : Session → Session) : (s.modSession n f).active = s.active := rfl
@[simp] theorem State.modSession_shadow (s : State) (n : BitVec 12) (f : Session → Session) : (s.modSession n f).shadow = s.shadow := rfl
@[simp] theorem State.modSession_pass (s : State) (n : BitVec 12) (f : Session → Session) : (s.modSession n f).pass = s.pass := rfl
@[simp] theorem State.modSession_bank0 (s : State) (n : BitVec 12) (f : Session → Session) : (s.modSession n f).bank0 = s.bank0 := rfl
@[simp] theorem State.modSession_bank1 (s : State) (n : BitVec 12) (f : Session → Session) : (s.modSession n f).bank1 = s.bank1 := rfl
@[simp] theorem State.modSession_work1 (s : State) (n : BitVec 12) (f : Session → Session) : (s.modSession n f).work1 = s.work1 := rfl
@[simp] theorem State.modSession_mHold (s : State) (n : BitVec 12) (f : Session → Session) : (s.modSession n f).mHold = s.mHold := rfl
@[simp] theorem State.modSession_busy (s : State) (n : BitVec 12) (f : Session → Session) : (s.modSession n f).busy = s.busy := rfl
@[simp] theorem State.modSession_doms (s : State) (n : BitVec 12) (f : Session → Session) : (s.modSession n f).doms = s.doms := rfl
@[simp] theorem State.modSession_wakeQ (s : State) (n : BitVec 12) (f : Session → Session) : (s.modSession n f).wakeQ = s.wakeQ := rfl
@[simp] theorem State.modSession_filler (s : State) (n : BitVec 12) (f : Session → Session) : (s.modSession n f).filler = s.filler := rfl
@[simp] theorem State.modSession_halfWidth (s : State) (n : BitVec 12) (f : Session → Session) : (s.modSession n f).halfWidth = s.halfWidth := rfl
@[simp] theorem State.modSession_window (s : State) (n : BitVec 12) (f : Session → Session) : (s.modSession n f).window = s.window := rfl
@[simp] theorem State.modSession_strict (s : State) (n : BitVec 12) (f : Session → Session) : (s.modSession n f).strict = s.strict := rfl
@[simp] theorem State.modSession_fabLate (s : State) (n : BitVec 12) (f : Session → Session) : (s.modSession n f).fabLate = s.fabLate := rfl
@[simp] theorem State.modSession_accs (s : State) (n : BitVec 12) (f : Session → Session) : (s.modSession n f).accs = s.accs := rfl
@[simp] theorem State.modSession_copies (s : State) (n : BitVec 12) (f : Session → Session) : (s.modSession n f).copies = s.copies := rfl
@[simp] theorem State.modSession_refresh (s : State) (n : BitVec 12) (f : Session → Session) : (s.modSession n f).refresh = s.refresh := rfl
@[simp] theorem State.modSession_mem (s : State) (n : BitVec 12) (f : Session → Session) : (s.modSession n f).mem = s.mem := rfl
@[simp] theorem State.modSession_lanes (s : State) (n : BitVec 12) (f : Session → Session) : (s.modSession n f).lanes = s.lanes := rfl
@[simp] theorem State.modSession_stored (s : State) (n : BitVec 12) (f : Session → Session) : (s.modSession n f).stored = s.stored := rfl
@[simp] theorem State.modSession_fabRates (s : State) (n : BitVec 12) (f : Session → Session) : (s.modSession n f).fabRates = s.fabRates := rfl
@[simp] theorem State.modSession_pwrRamp (s : State) (n : BitVec 12) (f : Session → Session) : (s.modSession n f).pwrRamp = s.pwrRamp := rfl
@[simp] theorem State.modSession_queues (s : State) (n : BitVec 12) (f : Session → Session) : (s.modSession n f).queues = s.queues := rfl
@[simp] theorem State.modSession_stepNums (s : State) (n : BitVec 12) (f : Session → Session) : (s.modSession n f).stepNums = s.stepNums := rfl
@[simp] theorem State.modSession_results (s : State) (n : BitVec 12) (f : Session → Session) : (s.modSession n f).results = s.results := rfl
@[simp] theorem State.modSession_gangs (s : State) (n : BitVec 12) (f : Session → Session) : (s.modSession n f).gangs = s.gangs := rfl
@[simp] theorem State.modSession_headSince (s : State) (n : BitVec 12) (f : Session → Session) : (s.modSession n f).headSince = s.headSince := rfl
@[simp] theorem State.modSession_saved (s : State) (n : BitVec 12) (f : Session → Session) : (s.modSession n f).saved = s.saved := rfl
@[simp] theorem State.modSession_power (s : State) (n : BitVec 12) (f : Session → Session) : (s.modSession n f).power = s.power := rfl
@[simp] theorem State.modSession_fabric (s : State) (n : BitVec 12) (f : Session → Session) : (s.modSession n f).fabric = s.fabric := rfl
@[simp] theorem State.modSession_service (s : State) (n : BitVec 12) (f : Session → Session) : (s.modSession n f).service = s.service := rfl
@[simp] theorem State.modSession_bb (s : State) (n : BitVec 12) (f : Session → Session) : (s.modSession n f).bb = s.bb := rfl
@[simp] theorem State.modSession_bbCount (s : State) (n : BitVec 12) (f : Session → Session) : (s.modSession n f).bbCount = s.bbCount := rfl
@[simp] theorem State.modSession_responses (s : State) (n : BitVec 12) (f : Session → Session) : (s.modSession n f).responses = s.responses := rfl
@[simp] theorem State.modSession_nextGrid (s : State) (n : BitVec 12) (f : Session → Session) : (s.modSession n f).nextGrid = s.nextGrid := rfl
@[simp] theorem State.modSession_cur (s : State) (n : BitVec 12) (f : Session → Session) : (s.modSession n f).cur = s.cur := rfl
@[simp] theorem State.modSession_turn (s : State) (n : BitVec 12) (f : Session → Session) : (s.modSession n f).turn = s.turn := rfl
@[simp] theorem State.modSession_bundle (s : State) (n : BitVec 12) (f : Session → Session) : (s.modSession n f).bundle = s.bundle := rfl
@[simp] theorem State.modSession_primMask (s : State) (n : BitVec 12) (f : Session → Session) : (s.modSession n f).primMask = s.primMask := rfl
@[simp] theorem State.modSession_jump (s : State) (n : BitVec 12) (f : Session → Session) : (s.modSession n f).jump = s.jump := rfl
@[simp] theorem State.modSession_free (s : State) (n : BitVec 12) (f : Session → Session) : (s.modSession n f).free = s.free := rfl
@[simp] theorem State.modSession_seq (s : State) (n : BitVec 12) (f : Session → Session) : (s.modSession n f).seq = s.seq := rfl
@[simp] theorem State.modSession_inbox (s : State) (n : BitVec 12) (f : Session → Session) : (s.modSession n f).inbox = s.inbox := rfl

/-! ### `bbPut` -/

@[simp] theorem State.bbPut_coreNo (s : State) (k : Nat) (d : BitVec 256) : (s.bbPut k d).coreNo = s.coreNo := rfl
@[simp] theorem State.bbPut_cycle (s : State) (k : Nat) (d : BitVec 256) : (s.bbPut k d).cycle = s.cycle := rfl
@[simp] theorem State.bbPut_prim (s : State) (k : Nat) (d : BitVec 256) : (s.bbPut k d).prim = s.prim := rfl
@[simp] theorem State.bbPut_sec (s : State) (k : Nat) (d : BitVec 256) : (s.bbPut k d).sec = s.sec := rfl
@[simp] theorem State.bbPut_tiles (s : State) (k : Nat) (d : BitVec 256) : (s.bbPut k d).tiles = s.tiles := rfl
@[simp] theorem State.bbPut_rowOps (s : State) (k : Nat) (d : BitVec 256) : (s.bbPut k d).rowOps = s.rowOps := rfl
@[simp] theorem State.bbPut_masks (s : State) (k : Nat) (d : BitVec 256) : (s.bbPut k d).masks = s.masks := rfl
@[simp] theorem State.bbPut_maskOps (s : State) (k : Nat) (d : BitVec 256) : (s.bbPut k d).maskOps = s.maskOps := rfl
@[simp] theorem State.bbPut_xvs (s : State) (k : Nat) (d : BitVec 256) : (s.bbPut k d).xvs = s.xvs := rfl
@[simp] theorem State.bbPut_xvOps (s : State) (k : Nat) (d : BitVec 256) : (s.bbPut k d).xvOps = s.xvOps := rfl
@[simp] theorem State.bbPut_prows (s : State) (k : Nat) (d : BitVec 256) : (s.bbPut k d).prows = s.prows := rfl
@[simp] theorem State.bbPut_pfmts (s : State) (k : Nat) (d : BitVec 256) : (s.bbPut k d).pfmts = s.pfmts := rfl
@[simp] theorem State.bbPut_active (s : State) (k : Nat) (d : BitVec 256) : (s.bbPut k d).active = s.active := rfl
@[simp] theorem State.bbPut_shadow (s : State) (k : Nat) (d : BitVec 256) : (s.bbPut k d).shadow = s.shadow := rfl
@[simp] theorem State.bbPut_pass (s : State) (k : Nat) (d : BitVec 256) : (s.bbPut k d).pass = s.pass := rfl
@[simp] theorem State.bbPut_bank0 (s : State) (k : Nat) (d : BitVec 256) : (s.bbPut k d).bank0 = s.bank0 := rfl
@[simp] theorem State.bbPut_bank1 (s : State) (k : Nat) (d : BitVec 256) : (s.bbPut k d).bank1 = s.bank1 := rfl
@[simp] theorem State.bbPut_work1 (s : State) (k : Nat) (d : BitVec 256) : (s.bbPut k d).work1 = s.work1 := rfl
@[simp] theorem State.bbPut_mHold (s : State) (k : Nat) (d : BitVec 256) : (s.bbPut k d).mHold = s.mHold := rfl
@[simp] theorem State.bbPut_busy (s : State) (k : Nat) (d : BitVec 256) : (s.bbPut k d).busy = s.busy := rfl
@[simp] theorem State.bbPut_doms (s : State) (k : Nat) (d : BitVec 256) : (s.bbPut k d).doms = s.doms := rfl
@[simp] theorem State.bbPut_wakeQ (s : State) (k : Nat) (d : BitVec 256) : (s.bbPut k d).wakeQ = s.wakeQ := rfl
@[simp] theorem State.bbPut_filler (s : State) (k : Nat) (d : BitVec 256) : (s.bbPut k d).filler = s.filler := rfl
@[simp] theorem State.bbPut_halfWidth (s : State) (k : Nat) (d : BitVec 256) : (s.bbPut k d).halfWidth = s.halfWidth := rfl
@[simp] theorem State.bbPut_window (s : State) (k : Nat) (d : BitVec 256) : (s.bbPut k d).window = s.window := rfl
@[simp] theorem State.bbPut_strict (s : State) (k : Nat) (d : BitVec 256) : (s.bbPut k d).strict = s.strict := rfl
@[simp] theorem State.bbPut_fabLate (s : State) (k : Nat) (d : BitVec 256) : (s.bbPut k d).fabLate = s.fabLate := rfl
@[simp] theorem State.bbPut_accs (s : State) (k : Nat) (d : BitVec 256) : (s.bbPut k d).accs = s.accs := rfl
@[simp] theorem State.bbPut_copies (s : State) (k : Nat) (d : BitVec 256) : (s.bbPut k d).copies = s.copies := rfl
@[simp] theorem State.bbPut_refresh (s : State) (k : Nat) (d : BitVec 256) : (s.bbPut k d).refresh = s.refresh := rfl
@[simp] theorem State.bbPut_mem (s : State) (k : Nat) (d : BitVec 256) : (s.bbPut k d).mem = s.mem := rfl
@[simp] theorem State.bbPut_lanes (s : State) (k : Nat) (d : BitVec 256) : (s.bbPut k d).lanes = s.lanes := rfl
@[simp] theorem State.bbPut_stored (s : State) (k : Nat) (d : BitVec 256) : (s.bbPut k d).stored = s.stored := rfl
@[simp] theorem State.bbPut_fabRates (s : State) (k : Nat) (d : BitVec 256) : (s.bbPut k d).fabRates = s.fabRates := rfl
@[simp] theorem State.bbPut_pwrRamp (s : State) (k : Nat) (d : BitVec 256) : (s.bbPut k d).pwrRamp = s.pwrRamp := rfl
@[simp] theorem State.bbPut_sessions (s : State) (k : Nat) (d : BitVec 256) : (s.bbPut k d).sessions = s.sessions := rfl
@[simp] theorem State.bbPut_queues (s : State) (k : Nat) (d : BitVec 256) : (s.bbPut k d).queues = s.queues := rfl
@[simp] theorem State.bbPut_stepNums (s : State) (k : Nat) (d : BitVec 256) : (s.bbPut k d).stepNums = s.stepNums := rfl
@[simp] theorem State.bbPut_results (s : State) (k : Nat) (d : BitVec 256) : (s.bbPut k d).results = s.results := rfl
@[simp] theorem State.bbPut_gangs (s : State) (k : Nat) (d : BitVec 256) : (s.bbPut k d).gangs = s.gangs := rfl
@[simp] theorem State.bbPut_headSince (s : State) (k : Nat) (d : BitVec 256) : (s.bbPut k d).headSince = s.headSince := rfl
@[simp] theorem State.bbPut_saved (s : State) (k : Nat) (d : BitVec 256) : (s.bbPut k d).saved = s.saved := rfl
@[simp] theorem State.bbPut_power (s : State) (k : Nat) (d : BitVec 256) : (s.bbPut k d).power = s.power := rfl
@[simp] theorem State.bbPut_fabric (s : State) (k : Nat) (d : BitVec 256) : (s.bbPut k d).fabric = s.fabric := rfl
@[simp] theorem State.bbPut_service (s : State) (k : Nat) (d : BitVec 256) : (s.bbPut k d).service = s.service := rfl
@[simp] theorem State.bbPut_responses (s : State) (k : Nat) (d : BitVec 256) : (s.bbPut k d).responses = s.responses := rfl
@[simp] theorem State.bbPut_nextGrid (s : State) (k : Nat) (d : BitVec 256) : (s.bbPut k d).nextGrid = s.nextGrid := rfl
@[simp] theorem State.bbPut_cur (s : State) (k : Nat) (d : BitVec 256) : (s.bbPut k d).cur = s.cur := rfl
@[simp] theorem State.bbPut_turn (s : State) (k : Nat) (d : BitVec 256) : (s.bbPut k d).turn = s.turn := rfl
@[simp] theorem State.bbPut_bundle (s : State) (k : Nat) (d : BitVec 256) : (s.bbPut k d).bundle = s.bundle := rfl
@[simp] theorem State.bbPut_primMask (s : State) (k : Nat) (d : BitVec 256) : (s.bbPut k d).primMask = s.primMask := rfl
@[simp] theorem State.bbPut_jump (s : State) (k : Nat) (d : BitVec 256) : (s.bbPut k d).jump = s.jump := rfl
@[simp] theorem State.bbPut_free (s : State) (k : Nat) (d : BitVec 256) : (s.bbPut k d).free = s.free := rfl
@[simp] theorem State.bbPut_seq (s : State) (k : Nat) (d : BitVec 256) : (s.bbPut k d).seq = s.seq := rfl
@[simp] theorem State.bbPut_inbox (s : State) (k : Nat) (d : BitVec 256) : (s.bbPut k d).inbox = s.inbox := rfl

end Sys2Proof.Machine
end

