-- ==== Sys2Proof/Laws/Issue.lean ====
section
/-! SUPPORT. Sys2Proof/Laws/Issue.lean: what the issue of a word alone in its bundle does, said once for every word: it acts
where it issues, it is empty where its guard is false, it raises the cause it meets, it is presented where it stalls. -/

namespace Sys2Proof.Machine

/-- Each slot word's meaning is the issue of what it contributes, alone in its bundle. -/
theorem exec_of_semOf (i : Instr) (w : WordSem) (s : State) (h : semOf i = some w) : exec i s = runWord w s := by
  cases i <;> first | (obtain rfl := Option.some.inj h; rfl) | exact absurd h nofun

theorem liveWords_one (w : WordSem) (t : Stream) (h : guardHolds w.guard t = true) : liveWords [w] t = [w] := by
  simp [liveWords, h]

theorem liveWords_none (w : WordSem) (t : Stream) (h : guardHolds w.guard t = false) : liveWords [w] t = [] := by
  simp [liveWords, h]

/-- A word whose guard is false leaves its bundle empty (R46, R56). -/
theorem runWord_guard (w : WordSem) (s : State) (h : guardHolds w.guard s.me = false) :
    runWord w s = .next (s.issueBundle []) := by
  have e : liveWords [w] s.me = liveWords [] s.me := by rw [liveWords_none w s.me h]; rfl
  simp only [runWord, State.issueBundle, State.issueWith, e]

theorem pickCause_nil {l : List Cause} (h : l = []) : pickCause l = none := by subst h; rfl

theorem pickCause_eq_none (l : List Cause) : pickCause l = none ↔ l = [] := by
  cases l <;> simp [pickCause]

theorem isEmpty_none {l : List Cause} (h : l.isEmpty = true) : pickCause l = none := pickCause_nil (List.isEmpty_iff.mp h)

/-- A word alone in its bundle that leaves acts (R80). -/
theorem State.leave_acts (s : State) (w : WordSem) (h : s.leaves w = true) : s.leave [w] = s.actBundle [w] := by
  simp only [State.leaves, Bool.not_eq_true'] at h
  simp [State.leave, h]

/-- What ends a wait is none where no cause of R323 is due (R323). -/
theorem waitDue_none (s : State) (w : WordSem) (h : s.undue w = true) : waitDue [w] s.me = none := by
  simp only [State.undue, Bool.or_eq_true, Bool.not_eq_true'] at h
  rw [waitDue, List.any_cons, List.any_nil, Bool.or_false]
  split
  · next hx =>
    rcases h with h | h
    · rw [h] at hx; exact absurd hx (by decide)
    · exact isEmpty_none h
  · rfl

/-- Nothing of the bundle waits any longer: its late checks pass, its BAR or RDV is reached and it leaves (R80, R88, R381). -/
theorem State.waitOver_spec (s : State) (w : WordSem) (h : s.waitOver w = true) :
    s.commitHeld [w] = false ∧ w.waits s = false ∧ s.heldChecks [w] = none ∧ w.atEnd s = [] := by
  simpa only [State.waitOver, Bool.and_eq_true, Bool.not_eq_true', Option.isNone_iff_eq_none, List.isEmpty_iff, and_assoc] using h

/-- Where the waits are over, a BAR or RDV is reached, and the bundle acts unless others are still to come (R80, R90, R91). -/
theorem State.reach_spec (s : State) (w : WordSem) (h : s.waitOver w = true) :
    s.reach [w] = if w.parked (s.reached w) then s.waitOn (s.reached w) [w] else (s.reached w).actBundle [w] := by
  obtain ⟨-, -, -, h4⟩ := State.waitOver_spec s w h
  simp only [State.reach, List.flatMap_cons, List.flatMap_nil, h4, List.append_nil, pickCause, List.foldl_cons, List.foldl_nil,
    List.any_cons, List.any_nil, Bool.or_false, State.reached]
  rfl

/-- A word that passes everything before its wait is judged: its wait begins, or it acts (R381). -/
theorem runWord_passes (w : WordSem) (s : State) (h : s.passes w = true) : runWord w s = .next (s.waitOrAct [w]) := by
  simp only [State.passes, Bool.and_eq_true, Bool.not_eq_true', List.isEmpty_iff, Option.isNone_iff_eq_none] at h
  obtain ⟨⟨⟨⟨⟨⟨⟨hg, he⟩, hw⟩, hr⟩, hd⟩, hst⟩, haf⟩, hm⟩ := h
  have hlive := liveWords_one w s.me hg
  have hjudge : s.judge [w] = s.waitOrAct [w] := by simp only [State.judge, hm, pickCause]
  have hpick : (if s.me.presented then none
      else pickCause (dueAt [w] s.me ++ [] ++ compositionCauses [w] s.me s.bundle.hdr)) = none := by
    split
    · rfl
    · next hp =>
      rw [Bool.or_eq_true] at hd
      rcases hd with hd | hd
      · exact absurd hd hp
      · simp only [Bool.and_eq_true, List.isEmpty_iff] at hd
        simp [hd.1, hd.2, pickCause]
  simp only [runWord, State.issueBundle, State.issueWith, hlive, he, hw, Option.isSome_none, Bool.false_eq_true, if_false,
    hpick, hst, hr]
  congr 1
  split
  · next ha =>
    rw [ha] at haf
    simp only [Bool.not_true, Bool.false_or, Option.any_eq_true, decide_eq_true_eq] at haf
    obtain ⟨c, hc1, hc2⟩ := haf
    rw [hc1]
    simp only [hjudge]
    rw [if_neg (by omega)]
  · exact hjudge

theorem State.passes_wait (s : State) (w : WordSem) (h : s.passes w = true) : s.me.wait = none := by
  simp only [State.passes, Bool.and_eq_true, Option.isNone_iff_eq_none] at h
  exact h.1.1.1.1.1.2

/-- A word that issues acts, after its wait has begun and ended (R80, R381). -/
theorem runWord_issues (w : WordSem) (s : State) (h : s.issues w = true) :
    runWord w s = .next (((s.begun w).reached w).actBundle [w]) := by
  simp only [State.issues, Bool.and_eq_true, Bool.not_eq_true'] at h
  obtain ⟨⟨⟨hp, ha⟩, ho⟩, hl⟩ := h
  obtain ⟨h1, h2, h3, -⟩ := State.waitOver_spec _ w ho
  rw [runWord_passes w s hp]
  have hw := s.passes_wait w hp
  simp only [State.leaves, Bool.not_eq_true'] at hl
  have hr := State.reach_spec _ w ho
  rw [hl] at hr
  simp only [State.begun] at ha h1 h2 h3 hr ⊢
  simp only [State.waitOrAct, hw, Option.isSome_none, Bool.false_eq_true, if_false, List.foldl_cons, List.foldl_nil, ha, h1,
    List.any_cons, List.any_nil, Bool.or_false, h2, h3]
  rw [hr]; rfl

/-- A word that has to wait begins its wait and nothing else of it happens (R80, R381). -/
theorem runWord_dallies (w : WordSem) (s : State) (hp : s.passes w = true) (ha : (s.begun w).me.arrived = false)
    (hw : ((s.begun w).commitHeld [w] || w.waits (s.begun w)) = true) (hd : (s.begun w).undue w = true) :
    runWord w s = .next ((s.begun w).modMe (fun t => { t with wait := some (if w.meets then .arriving else .other) })) := by
  rw [runWord_passes w s hp]
  have hn := s.passes_wait w hp
  have hq := waitDue_none _ w hd
  simp only [State.begun] at ha hw hq
  simp only [State.waitOrAct, hn, Option.isSome_none, Bool.false_eq_true, if_false, List.foldl_cons, List.foldl_nil, ha,
    List.any_cons, List.any_nil, Bool.or_false, hw, if_true, State.waitOn, hq]
  rfl

/-- A BAR or RDV is reached, and others are still to come (R90, R91). -/
theorem runWord_meets (w : WordSem) (s : State) (hp : s.passes w = true) (ha : (s.begun w).me.arrived = false)
    (ho : (s.begun w).waitOver w = true) (hk : w.parked ((s.begun w).reached w) = true) (hd : (s.begun w).undue w = true) :
    runWord w s = .next ((s.begun w).reached w) := by
  obtain ⟨h1, h2, h3, -⟩ := State.waitOver_spec _ w ho
  rw [runWord_passes w s hp]
  have hn := s.passes_wait w hp
  have hq := waitDue_none _ w hd
  have hr := State.reach_spec _ w ho
  rw [hk, if_pos rfl] at hr
  simp only [State.begun] at ha h1 h2 h3 hr hq ⊢
  simp only [State.waitOrAct, hn, Option.isSome_none, Bool.false_eq_true, if_false, List.foldl_cons, List.foldl_nil, ha, h1,
    List.any_cons, List.any_nil, Bool.or_false, h2, h3]
  rw [hr]; simp only [State.waitOn, hq]

/-- A word whose wait ends acts (R80, R90, R91). -/
theorem runWord_wakes (w : WordSem) (s : State) (h : s.wakes w = true) :
    runWord w s = .next ((if s.me.arrived then s else s.reached w).actBundle [w]) := by
  simp only [State.wakes, Bool.and_eq_true, Bool.not_eq_true', Option.isNone_iff_eq_none] at h
  obtain ⟨⟨⟨⟨⟨⟨⟨hg, he⟩, hw⟩, hd⟩, hh⟩, hv⟩, hc⟩, hl⟩ := h
  have hlive := liveWords_one w s.me hg
  have hdue := waitDue_none s w hd
  have hn : s.me.error.isSome = false := by rw [he]; rfl
  simp only [runWord, State.issueBundle, State.issueWith, hlive, hn, hw, Bool.false_eq_true, if_false, if_true, hdue, hh, hv, hc,
    Bool.or_self, State.waitOrAct]
  congr 1
  cases ha : s.me.arrived
  · rw [ha] at hl
    simp only [Bool.false_eq_true, if_false, Bool.and_eq_true] at hl
    obtain ⟨h1, h2, h3, -⟩ := State.waitOver_spec _ w hl.1
    have hp : w.parked (s.reached w) = false := by simpa [State.leaves] using hl.2
    simp only [Bool.false_eq_true, if_false, h1, h2, h3, List.any_cons, List.any_nil, Bool.or_false, State.reach_spec s w hl.1, hp]
  · rw [ha] at hl
    simp only [if_true] at hl
    simp only [if_true]
    exact State.leave_acts _ w hl

/-- What precedes the causes of a word's own in the order of R381 (R339). -/
theorem State.reaches_spec (s : State) (w : WordSem) (h : s.reaches w = true) :
    liveWords [w] s.me = [w] ∧ s.me.error = none ∧ s.me.wait = none ∧ s.me.replay = none ∧ dueAt [w] s.me = [] ∧
    compositionCauses [w] s.me s.bundle.hdr = [] ∧ s.bundleStalls [w] = false ∧ s.probesAfar [w] = false := by
  simp only [State.reaches, Bool.and_eq_true, Bool.not_eq_true', List.isEmpty_iff, Option.isNone_iff_eq_none] at h
  obtain ⟨⟨⟨⟨⟨⟨⟨hg, he⟩, hw⟩, hr⟩, hd⟩, hk⟩, hst⟩, haf⟩ := h
  exact ⟨liveWords_one w s.me hg, he, hw, hr, hd, hk, hst, haf⟩

/-- A word that meets a cause of its own raises the lowest one (R339, R381). -/
theorem runWord_cause (w : WordSem) (s : State) (c : Cause) (h : s.reaches w = true)
    (hc : pickCause (s.mainCauses [w]) = some c) : runWord w s = .next (s.raise c) := by
  obtain ⟨hlive, he, hw, hr, hd, hk, hst, haf⟩ := s.reaches_spec w h
  have hjudge : s.judge [w] = s.raise c := by simp only [State.judge, hc]
  have hpick : (if s.me.presented then none
      else pickCause (dueAt [w] s.me ++ [] ++ compositionCauses [w] s.me s.bundle.hdr)) = none := by
    split
    · rfl
    · simp [hd, hk, pickCause]
  simp only [runWord, State.issueBundle, State.issueWith, hlive, he, hw, Option.isSome_none, Bool.false_eq_true, if_false,
    hpick, hst, hr, haf, hjudge]

/-- A word that stalls is presented and nothing else happens (R381). -/
theorem runWord_stall (w : WordSem) (s : State) (hg : guardHolds w.guard s.me = true) (he : s.me.error = none)
    (hw : s.me.wait = none) (hd : dueAt [w] s.me = []) (hk : compositionCauses [w] s.me s.bundle.hdr = [])
    (hst : s.bundleStalls [w] = true) : runWord w s = .next s.present := by
  have hpick : (if s.me.presented then none
      else pickCause (dueAt [w] s.me ++ [] ++ compositionCauses [w] s.me s.bundle.hdr)) = none := by
    split
    · rfl
    · simp [hd, hk, pickCause]
  simp only [runWord, State.issueBundle, State.issueWith, liveWords_one w s.me hg, he, hw, Option.isSome_none,
    Bool.false_eq_true, if_false, hpick, hst, if_true]

/-- A word whose bundle has the wrong composition traps (R48, R83, R86). -/
theorem runWord_composition (w : WordSem) (s : State) (c : Cause) (hg : guardHolds w.guard s.me = true)
    (he : s.me.error = none) (hw : s.me.wait = none) (hp : s.me.presented = false) (hd : dueAt [w] s.me = [])
    (hk : pickCause (compositionCauses [w] s.me s.bundle.hdr) = some c) : runWord w s = .next (s.raise c) := by
  simp only [runWord, State.issueBundle, State.issueWith, liveWords_one w s.me hg, he, hw, Option.isSome_none,
    Bool.false_eq_true, if_false, hp, hd, List.nil_append, hk]

/-- The cause reported among several is one of them, and none is lower (R339). -/
theorem pickCause_lowest (l : List Cause) (c : Cause) (h : pickCause l = some c) :
    c ∈ l ∧ ∀ d ∈ l, c.rank < d.rank ∨ (c.rank = d.rank ∧ c.slot ≤ d.slot) := by
  have key : ∀ (xs : List Cause) (a : Cause), let r := xs.foldl lowerCause a
      (r = a ∨ r ∈ xs) ∧ (r.rank < a.rank ∨ (r.rank = a.rank ∧ r.slot ≤ a.slot)) ∧
      ∀ d ∈ xs, r.rank < d.rank ∨ (r.rank = d.rank ∧ r.slot ≤ d.slot) := by
    intro xs
    induction xs with
    | nil => intro a; simp
    | cons x xs ih =>
      intro a
      obtain ⟨h1, h2, h3⟩ := ih (lowerCause a x)
      simp only [List.foldl_cons]
      refine ⟨?_, ?_, ?_⟩
      · rcases h1 with h1 | h1
        · rw [h1]; unfold lowerCause; split <;> simp
        · exact .inr (by simp [h1])
      · unfold lowerCause at h2 ⊢; split at h2 <;> rename_i hh <;> simp only [hh, if_true, if_false] <;> omega
      · intro d hd
        rcases List.mem_cons.mp hd with hd | hd
        · subst hd
          unfold lowerCause at h2 ⊢; split at h2 <;> rename_i hh <;> simp only [hh, if_true, if_false] <;> omega
        · exact h3 d hd
  cases l with
  | nil => simp [pickCause] at h
  | cons a xs =>
    simp only [pickCause, Option.some.injEq] at h
    obtain ⟨h1, h2, h3⟩ := key xs a
    rw [h] at h1 h2 h3
    refine ⟨?_, ?_⟩
    · rcases h1 with h1 | h1 <;> simp [h1]
    · intro d hd
      rcases List.mem_cons.mp hd with hd | hd
      · subst hd; exact h2
      · exact h3 d hd

end Sys2Proof.Machine
end

