-- ==== Sys2Proof/Laws/SMap.lean ====
section
/-! SUPPORT. Sys2Proof/Laws/SMap.lean: what sparse data reads after each of its operations, and that each keeps the canonical
form. -/

namespace Sys2Proof.Machine.SMap
variable {α : Type}

@[simp] theorem get_nil (d : α) (i : Nat) : get d [] i = d := rfl

theorem get_cons (d : α) (k : Nat) (v : α) (m : SMap α) (i : Nat) :
    get d ((k, v) :: m) i = if k = i then v else get d m i := rfl

/-! ### Reading after a change -/

theorem get_erase (d : α) (m : SMap α) (i j : Nat) : get d (erase m i) j = if j = i then d else get d m j := by
  induction m with
  | nil => simp [erase]
  | cons p m ih =>
    obtain ⟨k, v⟩ := p
    simp only [erase] at ih ⊢
    by_cases hk : k = i
    · subst hk
      have hf : List.filter (fun p : Nat × α => !(p.1 == k)) ((k, v) :: m) = List.filter (fun p => !(p.1 == k)) m := by
        simp
      rw [hf, ih, get_cons]
      by_cases hj : j = k
      · simp [hj]
      · simp [hj, Ne.symm hj]
    · have hf : List.filter (fun p : Nat × α => !(p.1 == i)) ((k, v) :: m) =
          (k, v) :: List.filter (fun p => !(p.1 == i)) m := by simp [hk]
      rw [hf, get_cons, get_cons, ih]
      by_cases hj : j = i
      · subst hj; simp [hk]
      · simp [hj]

theorem get_ins (d : α) (m : SMap α) (i : Nat) (v : α) (j : Nat) (h : ∀ p ∈ m, p.1 ≠ i) :
    get d (ins i v m) j = if j = i then v else get d m j := by
  induction m with
  | nil =>
    simp only [ins, get_cons, get_nil]
    by_cases hj : j = i
    · simp [hj]
    · simp [hj, Ne.symm hj]
  | cons p m ih =>
    obtain ⟨k, w⟩ := p
    have hk : k ≠ i := h (k, w) (by simp)
    have hm : ∀ p ∈ m, p.1 ≠ i := fun p hp => h p (by simp [hp])
    simp only [ins]
    split
    · simp only [get_cons]
      by_cases hj : j = i
      · simp [hj]
      · simp [hj, Ne.symm hj]
    · rw [get_cons, ih hm, get_cons]
      by_cases hj : j = i
      · subst hj; simp [hk]
      · simp [hj]

theorem erase_ne (m : SMap α) (i : Nat) : ∀ p ∈ erase m i, p.1 ≠ i := by
  intro p hp
  simpa [erase] using (List.mem_filter.mp hp).2

/-- A read after a write to the same key gives the value written, and a write leaves every other key alone. -/
theorem get_set [DecidableEq α] (d : α) (m : SMap α) (i : Nat) (v : α) (j : Nat) :
    get d (set d m i v) j = if j = i then v else get d m j := by
  unfold set
  split
  · next h => rw [get_erase, h]
  · rw [get_ins d _ i v j (erase_ne m i), get_erase]
    by_cases hj : j = i <;> simp [hj]

theorem get_clear (d : α) (m : SMap α) (lo n j : Nat) :
    get d (clear m lo n) j = if lo ≤ j ∧ j < lo + n then d else get d m j := by
  induction m with
  | nil => simp [clear]
  | cons p m ih =>
    obtain ⟨k, v⟩ := p
    simp only [clear] at ih ⊢
    by_cases hk : lo ≤ k ∧ k < lo + n
    · have hf : List.filter (fun p : Nat × α => !(decide (lo ≤ p.1) && decide (p.1 < lo + n))) ((k, v) :: m) =
          List.filter (fun p => !(decide (lo ≤ p.1) && decide (p.1 < lo + n))) m := by simp [hk]
      rw [hf, ih, get_cons]
      by_cases hj : k = j
      · subst hj; simp [hk]
      · simp [hj]
    · have hf : List.filter (fun p : Nat × α => !(decide (lo ≤ p.1) && decide (p.1 < lo + n))) ((k, v) :: m) =
          (k, v) :: List.filter (fun p => !(decide (lo ≤ p.1) && decide (p.1 < lo + n))) m := by
        rw [List.filter_cons_of_pos]
        simp only [Bool.not_eq_true', Bool.and_eq_false_iff, decide_eq_false_iff_not]
        omega
      rw [hf, get_cons, get_cons, ih]
      by_cases hj : k = j
      · subst hj; simp [hk]
      · simp [hj]

theorem get_filter (d : α) (m : SMap α) (f : Nat → Bool) (j : Nat) :
    get d (m.filter (fun p => f p.1)) j = if f j = true then get d m j else d := by
  induction m with
  | nil => simp
  | cons p m ih =>
    obtain ⟨k, v⟩ := p
    by_cases hk : f k = true
    · rw [List.filter_cons_of_pos (by simpa using hk), get_cons, get_cons, ih]
      by_cases hj : k = j
      · subst hj; simp [hk]
      · simp [hj]
    · rw [List.filter_cons_of_neg (by simpa using hk), get_cons, ih]
      by_cases hj : k = j
      · subst hj; simp [hk]
      · simp [hj]

theorem get_append_right (d : α) (m n : SMap α) (j : Nat) (h : ∀ p ∈ m, p.1 ≠ j) : get d (m ++ n) j = get d n j := by
  induction m with
  | nil => rfl
  | cons p m ih =>
    obtain ⟨k, v⟩ := p
    rw [List.cons_append, get_cons, if_neg (h (k, v) (by simp)), ih (fun p hp => h p (by simp [hp]))]

theorem get_append_left (d : α) (m n : SMap α) (j : Nat) (h : ∀ p ∈ n, p.1 ≠ j) : get d (m ++ n) j = get d m j := by
  induction m with
  | nil => simpa using get_append_right d n [] j h
  | cons p m ih =>
    obtain ⟨k, v⟩ := p
    rw [List.cons_append, get_cons, get_cons, ih]

theorem mem_listed [DecidableEq α] (d : α) (lo : Nat) (xs : List α) (p : Nat × α) (h : p ∈ listed d lo xs) :
    lo ≤ p.1 ∧ p.1 < lo + xs.length ∧ p.2 ≠ d := by
  induction xs generalizing lo with
  | nil => simp [listed] at h
  | cons x xs ih =>
    simp only [listed] at h
    split at h
    · obtain ⟨a, b, c⟩ := ih _ h; exact ⟨by omega, by simp only [List.length_cons]; omega, c⟩
    · next hx =>
      rcases List.mem_cons.mp h with h | h
      · subst h; simp [hx]
      · obtain ⟨a, b, c⟩ := ih _ h; exact ⟨by omega, by simp only [List.length_cons]; omega, c⟩

theorem get_listed [DecidableEq α] (d : α) (lo : Nat) (xs : List α) (j : Nat) :
    get d (listed d lo xs) j = if lo ≤ j ∧ j < lo + xs.length then xs.getD (j - lo) d else d := by
  induction xs generalizing lo with
  | nil => simp [listed]
  | cons x xs ih =>
    have step (h : j ≠ lo) : (if lo + 1 ≤ j ∧ j < lo + 1 + xs.length then xs.getD (j - (lo + 1)) d else d) =
        if lo ≤ j ∧ j < lo + (x :: xs).length then (x :: xs).getD (j - lo) d else d := by
      by_cases c : lo + 1 ≤ j ∧ j < lo + 1 + xs.length
      · rw [if_pos c, if_pos (by simp; omega)]
        obtain ⟨n, rfl⟩ : ∃ n, j = lo + 1 + n := ⟨j - (lo + 1), by omega⟩
        rw [show lo + 1 + n - (lo + 1) = n by omega, show lo + 1 + n - lo = n + 1 by omega]
        rfl
      · rw [if_neg c, if_neg (by simp; omega)]
    simp only [listed]
    split
    · next hx =>
      rw [ih]
      by_cases hj : j = lo
      · subst hj; rw [if_neg (by omega), if_pos (by simp)]; simp [hx]
      · exact step hj
    · rw [get_cons, ih]
      by_cases hj : lo = j
      · subst hj; simp
      · rw [if_neg hj]; exact step (Ne.symm hj)

/-- A splice sets the values at its consecutive keys and leaves every other key alone. -/
theorem get_splice [DecidableEq α] (d : α) (m : SMap α) (lo : Nat) (xs : List α) (j : Nat) :
    get d (splice d m lo xs) j = if lo ≤ j ∧ j < lo + xs.length then xs.getD (j - lo) d else get d m j := by
  have low : ∀ p ∈ m.filter (fun p => decide (p.1 < lo)), p.1 < lo := fun p hp => by
    simpa using (List.mem_filter.mp hp).2
  have mid := mem_listed d lo xs
  have high : ∀ p ∈ m.filter (fun p => decide (lo + xs.length ≤ p.1)), lo + xs.length ≤ p.1 := fun p hp => by
    simpa using (List.mem_filter.mp hp).2
  unfold splice
  rcases Nat.lt_or_ge j lo with c | c
  · rw [get_append_left d _ _ j (fun p hp => by have := high p hp; omega),
      get_append_left d _ _ j (fun p hp => by obtain ⟨a, -⟩ := mid p hp; omega),
      get_filter d m (fun k => decide (k < lo)), if_pos (by simpa using c),
      if_neg (show ¬ (lo ≤ j ∧ j < lo + xs.length) by omega)]
  · rcases Nat.lt_or_ge j (lo + xs.length) with c2 | c2
    · rw [get_append_left d _ _ j (fun p hp => by have := high p hp; omega),
        get_append_right d _ _ j (fun p hp => by have := low p hp; omega), get_listed]
      simp [c, c2]
    · rw [get_append_right, get_filter d m (fun k => decide (lo + xs.length ≤ k)), if_pos (by simpa using c2),
        if_neg (show ¬ (lo ≤ j ∧ j < lo + xs.length) by omega)]
      intro p hp
      rcases List.mem_append.mp hp with hp | hp
      · have := low p hp; omega
      · obtain ⟨-, b, -⟩ := mid p hp; omega

/-! ### The canonical form -/

variable [DecidableEq α]

@[simp] theorem wf_nil (d : α) : wf d [] = true := rfl

theorem wf_cons (d : α) (k : Nat) (v : α) (m : SMap α) :
    wf d ((k, v) :: m) = true ↔ v ≠ d ∧ (∀ p ∈ m, k < p.1) ∧ wf d m = true := by
  simp [wf, and_assoc]

theorem wf_filter (d : α) (m : SMap α) (f : Nat × α → Bool) (h : wf d m = true) : wf d (m.filter f) = true := by
  induction m with
  | nil => rfl
  | cons p m ih =>
    obtain ⟨k, v⟩ := p
    obtain ⟨h1, h2, h3⟩ := (wf_cons d k v m).mp h
    by_cases hf : f (k, v) = true
    · rw [List.filter_cons_of_pos hf]
      exact (wf_cons ..).mpr ⟨h1, fun p hp => h2 p (List.mem_filter.mp hp).1, ih h3⟩
    · rw [List.filter_cons_of_neg hf]
      exact ih h3

theorem wf_erase (d : α) (m : SMap α) (i : Nat) (h : wf d m = true) : wf d (erase m i) = true := wf_filter d m _ h

theorem wf_clear (d : α) (m : SMap α) (lo n : Nat) (h : wf d m = true) : wf d (clear m lo n) = true := wf_filter d m _ h

omit [DecidableEq α] in
theorem mem_ins (m : SMap α) (i : Nat) (v : α) (p : Nat × α) (h : p ∈ ins i v m) : p = (i, v) ∨ p ∈ m := by
  induction m with
  | nil => simpa [ins] using h
  | cons q m ih =>
    obtain ⟨k, w⟩ := q
    simp only [ins] at h
    split at h
    · simpa using h
    · rcases List.mem_cons.mp h with h | h
      · exact .inr (by simp [h])
      · rcases ih h with h | h
        · exact .inl h
        · exact .inr (by simp [h])

theorem wf_ins (d : α) (m : SMap α) (i : Nat) (v : α) (hv : v ≠ d) (hi : ∀ p ∈ m, p.1 ≠ i) (h : wf d m = true) :
    wf d (ins i v m) = true := by
  induction m with
  | nil => simpa [ins, wf] using hv
  | cons q m ih =>
    obtain ⟨k, w⟩ := q
    obtain ⟨h1, h2, h3⟩ := (wf_cons d k w m).mp h
    have hk : k ≠ i := hi (k, w) (by simp)
    simp only [ins]
    split
    · next hlt =>
      refine (wf_cons ..).mpr ⟨hv, ?_, h⟩
      intro p hp
      rcases List.mem_cons.mp hp with hp | hp
      · simpa [hp] using hlt
      · exact Nat.lt_trans hlt (h2 p hp)
    · next hge =>
      refine (wf_cons ..).mpr ⟨h1, ?_, ih (fun p hp => hi p (by simp [hp])) h3⟩
      intro p hp
      rcases mem_ins m i v p hp with hp | hp
      · subst hp; show k < i; omega
      · exact h2 p hp

/-- A write keeps the canonical form. -/
theorem wf_set (d : α) (m : SMap α) (i : Nat) (v : α) (h : wf d m = true) : wf d (set d m i v) = true := by
  unfold set
  split
  · exact wf_erase d m i h
  · next hv => exact wf_ins d _ i v hv (erase_ne m i) (wf_erase d m i h)

theorem wf_append (d : α) (m n : SMap α) (hm : wf d m = true) (hn : wf d n = true) (h : ∀ p ∈ m, ∀ q ∈ n, p.1 < q.1) :
    wf d (m ++ n) = true := by
  induction m with
  | nil => exact hn
  | cons p m ih =>
    obtain ⟨k, v⟩ := p
    obtain ⟨h1, h2, h3⟩ := (wf_cons d k v m).mp hm
    refine (wf_cons ..).mpr ⟨h1, fun q hq => ?_, ih h3 (fun p hp => h p (by simp [hp]))⟩
    rcases List.mem_append.mp hq with hq | hq
    · exact h2 q hq
    · exact h (k, v) (by simp) q hq

theorem wf_listed (d : α) (lo : Nat) (xs : List α) : wf d (listed d lo xs) = true := by
  induction xs generalizing lo with
  | nil => rfl
  | cons x xs ih =>
    simp only [listed]
    split
    · exact ih _
    · next hx => exact (wf_cons ..).mpr ⟨hx, fun p hp => by have := mem_listed d _ xs p hp; omega, ih _⟩

/-- A splice keeps the canonical form. -/
theorem wf_splice (d : α) (m : SMap α) (lo : Nat) (xs : List α) (h : wf d m = true) : wf d (splice d m lo xs) = true := by
  refine wf_append d _ _ (wf_append d _ _ (wf_filter d m _ h) (wf_listed d lo xs) ?_) (wf_filter d m _ h) ?_
  · intro p hp q hq
    have h1 := (List.mem_filter.mp hp).2
    have h2 := mem_listed d lo xs q hq
    simp at h1; omega
  · intro p hp q hq
    have h2 := (List.mem_filter.mp hq).2
    simp at h2
    rcases List.mem_append.mp hp with hp | hp
    · have h1 := (List.mem_filter.mp hp).2
      simp at h1; omega
    · have h1 := mem_listed d lo xs p hp
      omega

/-- Entries mapped to other values, with those that read as the default removed, keep the canonical form. -/
theorem wf_map_filter (d : α) (m : SMap α) (f : Nat → α → α) (h : wf d m = true) :
    wf d ((m.map (fun p => (p.1, f p.1 p.2))).filter (fun p => p.2 != d)) = true := by
  induction m with
  | nil => rfl
  | cons q m ih =>
    obtain ⟨k, w⟩ := q
    obtain ⟨-, h2, h3⟩ := (wf_cons d k w m).mp h
    rw [List.map_cons]
    by_cases hf : f k w = d
    · rw [List.filter_cons_of_neg (by simp [hf])]
      exact ih h3
    · rw [List.filter_cons_of_pos (by simpa using hf)]
      refine (wf_cons ..).mpr ⟨hf, ?_, ih h3⟩
      intro p hp
      obtain ⟨q, hq, rfl⟩ := List.mem_map.mp (List.mem_filter.mp hp).1
      exact h2 q hq

/-- The canonical form is unique: two maps in canonical form that read the same are the same. -/
theorem eq_of_get (d : α) (m n : SMap α) (hm : wf d m = true) (hn : wf d n = true) (h : ∀ i, get d m i = get d n i) :
    m = n := by
  have skip (k : Nat) (l : SMap α) (hl : ∀ p ∈ l, k < p.1) : get d l k = d := by
    induction l with
    | nil => rfl
    | cons p l ih =>
      obtain ⟨j, u⟩ := p
      have : k < j := hl (j, u) (by simp)
      rw [get_cons, if_neg (by omega)]
      exact ih (fun p hp => hl p (by simp [hp]))
  induction m generalizing n with
  | nil =>
    cases n with
    | nil => rfl
    | cons q n =>
      obtain ⟨k, w⟩ := q
      have := h k
      rw [get_cons, if_pos rfl, get_nil] at this
      exact absurd this.symm ((wf_cons ..).mp hn).1
  | cons p m ih =>
    obtain ⟨k, v⟩ := p
    obtain ⟨hv, hk, hm'⟩ := (wf_cons ..).mp hm
    cases n with
    | nil =>
      have := h k
      rw [get_cons, if_pos rfl, get_nil] at this
      exact absurd this hv
    | cons q n =>
      obtain ⟨j, w⟩ := q
      obtain ⟨hw, hj, hn'⟩ := (wf_cons ..).mp hn
      have e : k = j := by
        rcases Nat.lt_trichotomy k j with c | c | c
        · have := h k
          rw [get_cons, if_pos rfl, get_cons, if_neg (by omega),
            skip k n (fun p hp => Nat.lt_trans c (hj p hp))] at this
          exact absurd this hv
        · exact c
        · have := h j
          rw [get_cons, if_neg (by omega), skip j m (fun p hp => Nat.lt_trans c (hk p hp)), get_cons, if_pos rfl] at this
          exact absurd this.symm hw
      subst e
      have e2 : v = w := by simpa [get_cons] using h k
      subst e2
      rw [ih n hm' hn']
      intro i
      have := h i
      rw [get_cons, get_cons] at this
      by_cases hi : k = i
      · subst hi; rw [skip k m hk, skip k n hj]
      · simpa [hi] using this

end Sys2Proof.Machine.SMap
end

