-- ==== Sys2Proof/Laws/Bundle.lean ====
section
/-! SUPPORT. Sys2Proof/Laws/Bundle.lean: what a bundle of one word does as it acts and ends: the pops, the end of the bundle,
and one lemma for each shape of effect, for every word of that shape. -/

namespace Sys2Proof.Machine

/-! ### Pops (R21) -/

/-- A stream whose physical queues `qs` and ports `ks` have lost their heads. -/
def Stream.popped (t : Stream) (qs ks : List Nat) : Stream :=
  let t := qs.foldl (fun t q => t.setQueue q ((t.queue q).drop 1)) t
  { t with ports := ks.foldl (fun m k =>
      SMap.set none m k ((SMap.get none m k).map (fun p => { p with entries := p.entries.drop 1 }))) t.ports }

theorem State.modMe_modMe (s : State) (f g : Stream → Stream) : (s.modMe f).modMe g = s.modMe (fun t => g (f t)) := by
  cases s with | mk => rename_i cur _ _ _ _ _ _ _; cases cur <;> rfl

theorem State.modMe_eq_update (u : State) (f : Stream → Stream) (q g : Nat) (j k : Option W64) (h : Stream → Stream) :
    ({ ({ u.modMe f with seq := q, free := g, jump := j } : State).modMe h with jump := k } : State) =
      { (u.modMe f).modMe h with seq := q, free := g, jump := k } := by
  cases u with | mk => rename_i cur _ _ _ _ _ _ _; cases cur <;> rfl

theorem State.modMe_id (s : State) : s.modMe (fun t => t) = s := by
  cases s with | mk => rename_i cur _ _ _ _ _ _ _; cases cur <;> rfl

theorem State.modMe_congr (s : State) (f g : Stream → Stream) (h : f s.me = g s.me) : s.modMe f = s.modMe g := by
  unfold State.modMe State.modStr; rw [show s.str s.cur = s.me from rfl, h]

theorem foldl_popQueue (qs : List Nat) (s : State) :
    qs.foldl State.popQueue s = s.modMe (fun t => qs.foldl (fun t q => t.setQueue q ((t.queue q).drop 1)) t) := by
  induction qs generalizing s with
  | nil => exact (State.modMe_id s).symm
  | cons q qs ih => rw [List.foldl_cons, ih, State.popQueue, State.modMe_modMe]; rfl

theorem foldl_popPort (ks : List Nat) (s : State) :
    ks.foldl State.popPort s = s.modMe (fun t => { t with ports := ks.foldl (fun m k =>
      SMap.set none m k ((SMap.get none m k).map (fun p => { p with entries := p.entries.drop 1 }))) t.ports }) := by
  induction ks generalizing s with
  | nil => exact (State.modMe_id s).symm
  | cons q qs ih => rw [List.foldl_cons, ih, State.popPort, State.modMe_modMe]; rfl

/-- The pops of a bundle change the stream at issue alone. -/
theorem pops_eq (s : State) (qs ks : List Nat) :
    ks.foldl State.popPort (qs.foldl State.popQueue s) = s.modMe (fun t => t.popped qs ks) := by
  rw [foldl_popQueue, foldl_popPort, State.modMe_modMe]; rfl

theorem queue_setQueue (t : Stream) (q : Nat) (v : List W64) (r : Nat) :
    (t.setQueue q v).queue r = if r = q then v else t.queue r := SMap.get_set [] t.sc.queues q v r

theorem queue_foldl_pop (qs : List Nat) (h : qs.Nodup) (t : Stream) (q : Nat) :
    (qs.foldl (fun t q => t.setQueue q ((t.queue q).drop 1)) t).queue q =
      if q ∈ qs then (t.queue q).drop 1 else t.queue q := by
  induction qs generalizing t with
  | nil => simp
  | cons r rs ih =>
    rw [List.foldl_cons, ih (List.nodup_cons.mp h).2]
    simp only [queue_setQueue, List.mem_cons]
    by_cases hq : q = r
    · subst hq; simp [(List.nodup_cons.mp h).1]
    · simp [hq]

theorem get_foldl_pop (ks : List Nat) (h : ks.Nodup) (m : SMap (Option Port)) (k : Nat) :
    SMap.get none (ks.foldl (fun m k =>
      SMap.set none m k ((SMap.get none m k).map (fun p : Port => { p with entries := p.entries.drop 1 }))) m) k =
      if k ∈ ks then (SMap.get none m k).map (fun p => { p with entries := p.entries.drop 1 }) else SMap.get none m k := by
  induction ks generalizing m with
  | nil => simp
  | cons r rs ih =>
    rw [List.foldl_cons, ih (List.nodup_cons.mp h).2]
    simp only [SMap.get_set, List.mem_cons]
    by_cases hq : k = r
    · subst hq; simp [(List.nodup_cons.mp h).1]
    · simp [hq]

theorem foldl_pop_queues (qs : List Nat) (t : Stream) : ∃ m, qs.foldl (fun t q => t.setQueue q ((t.queue q).drop 1)) t =
    { t with sc := { t.sc with queues := m } } := by
  induction qs generalizing t with
  | nil => exact ⟨_, rfl⟩
  | cons q qs ih => obtain ⟨m, e⟩ := ih (t.setQueue q ((t.queue q).drop 1)); exact ⟨m, by rw [List.foldl_cons, e]; rfl⟩

/-- Of a stream, a pop changes the queues and the ports. -/
theorem popped_eq (t : Stream) (qs ks : List Nat) : ∃ m n, t.popped qs ks =
    { t with sc := { t.sc with queues := m }, ports := n } := by
  obtain ⟨m, e⟩ := foldl_pop_queues qs t
  exact ⟨m, _, by unfold Stream.popped; simp only [e]; rfl⟩

theorem nodup_eraseDups (l : List Nat) : l.eraseDups.Nodup := by
  have h : ∀ n (l : List Nat), l.length ≤ n → l.eraseDups.Nodup := by
    intro n
    induction n with
    | zero => intro l hl; cases l with
      | nil => simp
      | cons a l => simp at hl
    | succ n ih => intro l hl; cases l with
      | nil => simp
      | cons a l =>
        rw [List.eraseDups_cons, List.nodup_cons]
        refine ⟨?_, ih _ ?_⟩
        · rw [List.mem_eraseDups]; simp
        · have := List.length_filter_le (fun b => !b == a) l
          simp only [List.length_cons] at hl; omega
  exact h _ l (Nat.le_refl _)

theorem popQueues_nodup (t : Stream) (xs : List Src) : (popQueues t xs).Nodup := nodup_eraseDups _
theorem popPorts_nodup (xs : List Src) : (popPorts xs).Nodup := nodup_eraseDups _

theorem pops_popped (t : Stream) (xs : List Src) : Pops xs t (t.popped (popQueues t xs) (popPorts xs)) := by
  constructor
  · intro q
    exact queue_foldl_pop _ (popQueues_nodup t xs) t q
  · intro k
    have h : ((popQueues t xs).foldl (fun t q => t.setQueue q ((t.queue q).drop 1)) t).ports = t.ports := by
      obtain ⟨m, e⟩ := foldl_pop_queues (popQueues t xs) t
      rw [e]
    have e := get_foldl_pop _ (popPorts_nodup xs) t.ports k
    unfold Stream.port Stream.popped
    simp only [h]
    exact e

/-! ### The end of a bundle (R80 to R89) -/

/-- The stream after the end of a bundle of one word. -/
def finishStream (s : State) (w : WordSem) (seq : Nat) (jump : Option W64) (t : Stream) : Stream :=
  { t with
    sc := nextScalars s.bundle s.me.sc.delay jump (w.endsSpan || w.uncounted) t.sc
    commit := w.segC
    atSafe := (w.safePt && !w.segC) || (s.me.commit && s.me.safeC)
    safeC := w.safePt && w.segC
    ckptDue := if s.me.commit then some seq else t.ckptDue
    ord := t.ord + 1
    progress := t.progress + 1
    presented := false
    wait := none
    lateAt := none
    unsampled := false, resumed := false }

/-- The machine as a word that waits for nothing is judged: presented, with no hold of a commit bundle. -/
def State.set (s : State) : State := s.modMe (fun t => { t with presented := true, lateAt := none })

theorem State.me_set (s : State) : s.set.me = { s.me with presented := true, lateAt := none } := State.me_modMe s _

theorem State.set_bundle (s : State) : s.set.bundle = s.bundle := State.setStr_bundle _ _ _

/-- The end of a bundle changes the stream at issue and takes the jump away. -/
theorem finish_eq (s u : State) (w : WordSem) :
    u.finish s.set [w] = { u.modMe (finishStream s w u.seq u.jump) with jump := none } := by
  simp only [State.finish, State.me_set, State.set_bundle, List.any_cons, List.any_nil, Bool.or_false]
  rfl

/-! ### Words without accesses, discards, swaps and waits -/

/-- A word that does nothing but what its `act` says and its pops. -/
def WordSem.Plain (w : WordSem) : Prop :=
  w.drops = [] ∧ w.swaps = [] ∧ w.suppress = false ∧ (∀ s, w.ops s = []) ∧ (∀ s, w.begins s = s) ∧ (∀ s, w.arrive s = s) ∧
  (∀ s, w.ends s = s)

/-- The state a word's act changes: its sources are popped. -/
def State.entered (s : State) (w : WordSem) : State :=
  s.modMe (fun t => { t with presented := true, lateAt := none }.popped (popQueues s.me w.srcs) (popPorts w.srcs))

theorem popQueues_set (s : State) (xs : List Src) : popQueues s.set.me xs = popQueues s.me xs := by
  rw [State.me_set]; rfl

theorem tagChecked_of_noOps (s : State) (w : WordSem) (h : ∀ s, w.ops s = []) : s.tagChecked [w] = s := by
  simp [State.tagChecked, h]

/-- A plain word waits for nothing and is reached as it begins. -/
theorem begun_plain (w : WordSem) (s : State) (hp : w.Plain) : (s.begun w).reached w = s.set := by
  obtain ⟨-, -, -, ho, hb, ha, -⟩ := hp
  have hf : s.present.checksAfar [w] = false := by simp [State.checksAfar, ho]
  rw [State.reached, ha, tagChecked_of_noOps _ w ho, State.begun, hb, State.holdBegins, hf]
  simp only [Bool.false_eq_true, if_false, State.present, State.modMe_modMe]
  rfl

/-- A plain word that issues is its act on the popped state, then the end of its bundle. -/
theorem runWord_plain (w : WordSem) (s : State) (hp : w.Plain) (h : s.issues w = true) :
    runWord w s = .next ((w.act s.set (s.entered w)).finish s.set [w]) := by
  rw [runWord_issues w s h, begun_plain w s hp]
  obtain ⟨hd, hs, hsu, ho, -, -, he⟩ := hp
  congr 1
  simp only [State.actBundle, List.flatMap_cons, List.flatMap_nil, List.append_nil, hd, hs, List.map_nil, List.eraseDups_nil,
    List.foldl_nil, List.foldl_cons, State.actWord, hsu, Bool.false_and, Bool.false_eq_true, if_false, ho, popQueues_set,
    pops_eq, he]
  rw [State.set, State.modMe_modMe]
  rfl

/-! ### Reading sources -/

theorem read_set (s : State) (x : Src) : s.set.read x = s.read x := by
  have hc : s.set.cycle = s.cycle := State.setStr_cycle _ _ _
  cases x <;> simp only [State.read, State.me_set, hc] <;> rfl

/-! ### What the end of a bundle keeps (R24, R82 to R89) -/

theorem getLsbD_setPred (ps : BitVec 16) (p q : Nat) (v : Bool) (hp : p < 16) (hq : q < 16) :
    (setPred ps p v).getLsbD q = if q = p ∧ p ≠ 0 then v else ps.getLsbD q := by
  unfold setPred
  by_cases h0 : p = 0
  · simp [h0]
  · rw [if_neg h0]
    have hb : (BitVec.ofNat 16 (2 ^ p)).getLsbD q = decide (q = p) := by
      rw [BitVec.getLsbD_ofNat, Nat.testBit_two_pow]; simp [hq, eq_comm]
    by_cases e : q = p
    · subst e
      cases v
      · simp only [Bool.false_eq_true, if_false, BitVec.getLsbD_and, BitVec.getLsbD_not, hb]; simp [h0]
      · simp only [if_true, BitVec.getLsbD_or, hb]; simp [h0]
    · cases v
      · simp only [Bool.false_eq_true, if_false, BitVec.getLsbD_and, BitVec.getLsbD_not, hb]; simp [e, hq]
      · simp only [if_true, BitVec.getLsbD_or, hb]; simp [e]

theorem physP_lt (rb : BitVec 4) (p : Nat) (h : p < 16) : physP rb p < 16 := by unfold physP; split <;> omega

theorem physP_ge (rb : BitVec 4) (p : Nat) (h : 8 ≤ p) : 8 ≤ physP rb p := by unfold physP; split <;> omega

/-- What the boundary of the loop levels changes, and when it writes a stage predicate. -/
theorem loopBoundary_keeps (pc : W64) (ls : List LoopLvl) (c : Scalars) :
    ((loopBoundary pc ls c).1 = { c with loops := (loopBoundary pc ls c).1.loops } ∧ (loopBoundary pc ls c).2 = none) ∨
    (ls ≠ [] ∧ ∃ l ls' v, (loopBoundary pc ls c).1 =
      { c with loops := l :: ls', rb := c.rb + 1, preds := setPred c.preds (physP (c.rb + 1) 8) v }) := by
  induction ls with
  | nil => exact .inl ⟨rfl, rfl⟩
  | cons l ls ih =>
    unfold loopBoundary
    split
    · exact .inl ⟨rfl, rfl⟩
    · split
      · rcases ih with h | ⟨_, h⟩
        · exact .inl h
        · exact .inr ⟨nofun, h⟩
      · exact .inr ⟨nofun, _, _, _, rfl⟩

/-- What the end of a bundle may change of the scalar state. -/
theorem nextScalars_form (b : Bundle) (d j : Option W64) (f : Bool) (c : Scalars) :
    ∃ pc delay preds rb loops n, nextScalars b d j f c =
      { c with pc := pc, delay := delay, preds := preds, rb := rb, loops := loops, safeCount := n } := by
  have key : ∀ c' : Scalars, ∃ preds rb loops, (loopBoundary b.pc c'.loops c').1 =
      { c' with preds := preds, rb := rb, loops := loops } := by
    intro c'
    rcases loopBoundary_keeps b.pc c'.loops c' with ⟨h, -⟩ | ⟨-, l, ls, v, h⟩
    · exact ⟨_, _, _, h⟩
    · exact ⟨_, _, _, h⟩
  unfold nextScalars
  simp only
  cases hj : j.isSome
  · simp only [Bool.false_eq_true, if_false]
    cases hr : hdrRot b.hdr
    · simp only [Bool.false_eq_true, if_false]
      obtain ⟨p, r, l, h⟩ := key c
      rw [h]; exact ⟨_, _, _, _, _, _, rfl⟩
    · simp only [if_true]
      obtain ⟨p, r, l, h⟩ := key { c with rb := c.rb + 1 }
      simp only at h
      rw [h]; exact ⟨_, _, _, _, _, _, rfl⟩
  · simp only [if_true]
    cases hr : hdrRot b.hdr
    · exact ⟨_, _, _, _, _, _, rfl⟩
    · exact ⟨_, _, _, _, _, _, rfl⟩

theorem loopBoundary_left (pc : W64) (ls : List LoopLvl) (c : Scalars) :
    loopBoundary pc ls c =
      match levelsLeft pc ls with
      | [] => ({ c with loops := [] }, none)
      | l :: ls =>
        if l.last = pc then
          ({ c with loops := { l with j := l.j + 1 } :: ls, rb := c.rb + 1,
                    preds := setPred c.preds (physP (c.rb + 1) 8) (decide (l.j + 1 < l.count)) }, some l.first)
        else ({ c with loops := l :: ls }, none) := by
  induction ls with
  | nil => rfl
  | cons l ls ih =>
    unfold loopBoundary levelsLeft
    by_cases h1 : l.last = pc
    · by_cases h2 : l.j + 1 = l.iters
      · simp only [h1, h2, ne_eq, not_true_eq_false, if_false, if_true, List.dropWhile_cons, beq_self_eq_true, Bool.and_self]
        exact ih
      · simp [h1, h2]
    · simp [h1]

/-- Where a stream goes after its bundle. -/
theorem nextScalars_sequenced (s : State) (sa co f : Bool) (j : Option W64) (c : Scalars) :
    Sequenced s ⟨sa, co, f, j⟩ c (nextScalars s.bundle s.me.sc.delay j f c) := by
  unfold Sequenced nextScalars
  cases j with
  | some j => cases hr : hdrRot s.bundle.hdr <;> cases s.me.sc.delay <;> simp
  | none =>
    simp only [Option.isSome_none, Bool.false_eq_true, if_false]
    have e : (if hdrRot s.bundle.hdr = true then { c with rb := c.rb + 1 } else c).loops = c.loops := by split <;> rfl
    rw [loopBoundary_left, e]
    cases hl : levelsLeft s.bundle.pc c.loops with
    | nil => cases hr : hdrRot s.bundle.hdr <;> cases s.me.sc.delay <;> simp
    | cons l ls =>
      by_cases h : l.last = s.bundle.pc
      · simp only [h, if_true]
        refine ⟨by cases hr : hdrRot s.bundle.hdr <;> cases s.me.sc.delay <;> simp,
          by cases hr : hdrRot s.bundle.hdr <;> simp, by cases s.me.sc.delay <;> simp, trivial,
          by cases hr : hdrRot s.bundle.hdr <;> simp, ?_⟩
        intro p hp
        have h8 := physP_ge ((if hdrRot s.bundle.hdr = true then { c with rb := c.rb + 1 } else c).rb + 1) 8 (by omega)
        have h16 := physP_lt ((if hdrRot s.bundle.hdr = true then { c with rb := c.rb + 1 } else c).rb + 1) 8 (by omega)
        rw [getLsbD_setPred _ _ _ _ h16 hp]
        have ep : (if hdrRot s.bundle.hdr = true then { c with rb := c.rb + 1 } else c).preds = c.preds := by split <;> rfl
        rw [ep]
        have hne : physP ((if hdrRot s.bundle.hdr = true then { c with rb := c.rb + 1 } else c).rb + 1) 8 ≠ 0 := by omega
        simp only [hne, ne_eq, not_false_eq_true, and_true]
      · simp only [h, if_false]
        cases hr : hdrRot s.bundle.hdr <;> cases s.me.sc.delay <;> simp

/-- The end of a bundle in a stream whose sources are popped. -/
theorem frame_finish (s : State) (w : WordSem) (seq : Nat) (jump : Option W64) (a : Stream) (xs : List Src) (fl : List Flight)
    (t : Stream) (hco : a.commit = s.me.commit) (hsa : a.safeC = s.me.safeC) (ht : t = finishStream s w seq jump
      { ({ a with presented := true, lateAt := none } : Stream).popped (popQueues a xs) (popPorts xs) with flights := fl }) :
    EndsStream ⟨w.safePt, w.segC, w.endsSpan || w.uncounted, jump⟩ (if s.me.commit then some seq else a.ckptDue) a t ∧
    KeepsScalars a.sc t.sc ∧ Sequenced s ⟨w.safePt, w.segC, w.endsSpan || w.uncounted, jump⟩ a.sc t.sc ∧ Pops xs a t ∧
    t.flights = fl := by
  obtain ⟨m, n, e⟩ := popped_eq ({ a with presented := true, lateAt := none } : Stream) (popQueues a xs) (popPorts xs)
  have hp := pops_popped ({ a with presented := true, lateAt := none } : Stream) xs
  rw [show popQueues ({ a with presented := true, lateAt := none } : Stream) xs = popQueues a xs from rfl, e] at hp
  rw [e] at ht
  subst ht
  obtain ⟨pc, dl, pr, rb, lp, sf, hn⟩ :=
    nextScalars_form s.bundle s.me.sc.delay jump (w.endsSpan || w.uncounted) { a.sc with queues := m }
  refine ⟨?_, ?_, ?_, ⟨?_, ?_⟩, rfl⟩
  · unfold EndsStream finishStream; rw [hco, hsa]
  · simp only [finishStream, hn]; rfl
  · exact nextScalars_sequenced s w.safePt w.segC (w.endsSpan || w.uncounted) jump { a.sc with queues := m }
  · intro q
    refine Eq.trans ?_ (hp.1 q)
    simp only [Stream.queue, finishStream, hn]
  · intro k; exact hp.2 k

/-! ### One lemma per shape of effect -/

theorem result_eq (s : State) (slot : Slot) (d : Dst) (v : W64) (lat : Nat) :
    s.result slot d v lat =
      { s.modMe (fun t => { t with flights := t.flights ++ [s.flight slot d v lat] }) with seq := s.seq + 1 } := by
  cases s with | mk => rename_i cur _ _ _ _ _ _ _; cases cur <;> rfl

theorem flight_entered (s : State) (w : WordSem) (slot : Slot) (d : Dst) (v : W64) (lat : Nat) :
    (s.entered w).flight slot d v lat = s.flight slot d v lat := by
  obtain ⟨m, n, e⟩ := popped_eq ({ s.me with presented := true, lateAt := none } : Stream) (popQueues s.me w.srcs) (popPorts w.srcs)
  have hm : (s.entered w).me = _ := (State.me_modMe s _).trans e
  have hn : (s.entered w).now = s.now := by
    show (State.setStr _ _ _).cycle.toNat = _; rw [State.setStr_cycle]; rfl
  have hq : (s.entered w).seq = s.seq := State.setStr_seq _ _ _
  simp only [State.flight, hm, hn, hq]

/-- A state that differs from `u` by a change of the stream at issue and the end of its bundle. -/
theorem likeBut_modMe (s u : State) (F : Stream → Stream) (q f : Nat) (j : Option W64) (hc : u.cur = s.cur) (hm : u.me = s.me) :
    LikeBut s { u.modMe F with seq := q, free := f, jump := j } u := by
  unfold LikeBut
  rw [← hc, ← hm]
  cases u with | mk => rename_i cur _ _ _ _ _ _ _; cases cur <;> rfl

/-- A plain word: its act changes the machine into `u` but for the stream at issue, and that stream, popped, by `G`, which
makes `a` of it with the results `fl` in flight. -/
theorem exec_becomes {i : Instr} {w : WordSem} {s u : State} {a : Stream} {fl : List Flight} {q f : Nat} {j : Option W64}
    (hw : semOf i = some w) (hp : w.Plain) (hi : s.issues w = true) (G : Stream → Stream)
    (hact : w.act s.set (s.entered w) = { u.modMe (fun t => G ({ t with presented := true, lateAt := none }.popped
      (popQueues s.me w.srcs) (popPorts w.srcs))) with seq := q, free := f, jump := j })
    (hc : u.cur = s.cur) (hm : u.me = s.me)
    (ha : a.sc.queues = s.me.sc.queues ∧ a.ports = s.me.ports ∧ a.sc.rb = s.me.sc.rb ∧ a.commit = s.me.commit ∧
      a.safeC = s.me.safeC)
    (hG : ∀ m n, G { s.me with sc := { s.me.sc with queues := m }, ports := n, presented := true, lateAt := none } =
      { a with sc := { a.sc with queues := m }, ports := n, presented := true, lateAt := none, flights := fl }) :
    ∃ t, exec i s = .next t ∧ BecomesAs ⟨w.safePt, w.segC, w.endsSpan || w.uncounted, j⟩ s t u w.srcs a fl ∧ t.seq = q ∧
      t.free = f := by
  refine ⟨_, (exec_of_semOf i w s hw).trans (runWord_plain w s hp hi), ?_⟩
  rw [hact, finish_eq]
  let F : Stream → Stream := fun t => finishStream s w q j (G ({ t with presented := true, lateAt := none }.popped
      (popQueues s.me w.srcs) (popPorts w.srcs)))
  have ht : ∀ x : State, x = { u.modMe F with seq := q, free := f, jump := none } →
      BecomesAs ⟨w.safePt, w.segC, w.endsSpan || w.uncounted, j⟩ s x u w.srcs a fl ∧ x.seq = q ∧ x.free = f := by
    intro x hx
    have hme : x.str s.cur = F s.me := by
      subst hx; rw [← hc, ← hm]; exact State.str_modStr_self u u.cur F
    obtain ⟨hq, hpo, hrb, hco, hsa⟩ := ha
    obtain ⟨m, n, e⟩ := popped_eq ({ s.me with presented := true, lateAt := none } : Stream) (popQueues s.me w.srcs) (popPorts w.srcs)
    have hqs : popQueues a w.srcs = popQueues s.me w.srcs := by unfold popQueues; rw [hrb]
    have hpa : ({ a with presented := true, lateAt := none } : Stream).popped (popQueues a w.srcs) (popPorts w.srcs) =
        { a with presented := true, lateAt := none, sc := { a.sc with queues := m }, ports := n } := by
      rw [hqs]
      have h1 : ∀ (qs : List Nat) (x y : Stream), x.sc.queues = y.sc.queues →
          (qs.foldl (fun t q => t.setQueue q ((t.queue q).drop 1)) x).sc.queues =
          (qs.foldl (fun t q => t.setQueue q ((t.queue q).drop 1)) y).sc.queues := by
        intro qs
        induction qs with
        | nil => intro x y h; exact h
        | cons r rs ih => intro x y h; exact ih _ _ (by simp only [Stream.setQueue, Stream.queue, h])
      have h2 : ∀ (qs : List Nat) (x : Stream), (qs.foldl (fun t q => t.setQueue q ((t.queue q).drop 1)) x).ports = x.ports := by
        intro qs x; obtain ⟨m', e'⟩ := foldl_pop_queues qs x; rw [e']
      obtain ⟨m', n', e'⟩ := popped_eq ({ a with presented := true, lateAt := none } : Stream) (popQueues s.me w.srcs) (popPorts w.srcs)
      have em := congrArg (fun t : Stream => t.sc.queues) e
      have en := congrArg Stream.ports e
      have em' := congrArg (fun t : Stream => t.sc.queues) e'
      have en' := congrArg Stream.ports e'
      simp only [Stream.popped, h2] at em en em' en'
      have hmm : m' = m := by rw [← em', ← em]; exact h1 _ _ _ hq
      have hnn : n' = n := by rw [← en', ← en, hpo]
      rw [e', hmm, hnn]
    refine ⟨⟨?_, ?_⟩, by rw [hx], by rw [hx]⟩
    · rw [hx]; exact likeBut_modMe s u F q f none hc hm
    · rw [show x.seq = q by rw [hx]]
      refine frame_finish s w q j a w.srcs fl _ hco hsa ?_
      rw [hme, hpa]
      simp only [F, e, hG]
  exact ht _ ((State.modMe_eq_update u _ q f j none (finishStream s w q j)).trans
    (congrArg (fun x : State => { x with seq := q, free := f, jump := none }) (State.modMe_modMe u _ _)))

theorem flight_congr (s u : State) (h1 : u.me.sc.rb = s.me.sc.rb) (h2 : u.cycle = s.cycle) (h3 : u.seq = s.seq) (slot : Slot)
    (d : Dst) (v : W64) (lat : Nat) : u.flight slot d v lat = s.flight slot d v lat := by
  simp only [State.flight, State.now, h1, h2, h3]

/-- A word that marks nothing at the end of its bundle. -/
def WordSem.Unmarked (w : WordSem) : Prop := w.safePt = false ∧ w.segC = false ∧ w.endsSpan = false ∧ w.uncounted = false

/-- A word whose effect is one scalar result. -/
theorem exec_lands {i : Instr} {w : WordSem} {s : State} {slot : Slot} {d : Dst} {v : State → W64} {lat : Nat}
    (hk : w.Unmarked) (hw : semOf i = some w) (hp : w.Plain) (ha : ∀ p u, w.act p u = u.result slot d (v p) lat) (hi : s.issues w = true) :
    ∃ t, exec i s = .next t ∧ Lands s t w.srcs slot d (v s.set) lat := by
  obtain ⟨t, h1, h2, h3, -⟩ := exec_becomes (u := s) (a := s.me) (q := s.seq + 1) (f := s.free) (j := s.jump)
    (fl := s.me.flights ++ [s.flight slot d (v s.set) lat]) hw hp hi
    (fun t => { t with flights := t.flights ++ [s.flight slot d (v s.set) lat] })
    (by
      rw [ha, result_eq, flight_entered]
      simp only [State.entered]
      cases s with | mk => rename_i cur _ _ _ _ _ _ _; cases cur <;> rfl)
    rfl rfl ⟨rfl, rfl, rfl, rfl, rfl⟩ (fun m n => rfl)
  obtain ⟨k1, k2, k3, k4⟩ := hk
  rw [k1, k2, k3, k4] at h2
  exact ⟨t, h1, h2, h3⟩

end Sys2Proof.Machine
end

