-- ==== Sys2Proof/Laws/Memory.lean ====
section
/-! SUPPORT. Sys2Proof/Laws/Memory.lean: what memory and its lanes read after each memory operation, and that every memory
operation keeps the canonical form. -/

namespace Sys2Proof.Machine

/-! ### Reading after a write -/

theorem State.byte_setByte (s : State) (a : Nat) (b : Byte) (x : Nat) :
    (s.setByte a b).byte x = if x = a then b else s.byte x := SMap.get_set ..

theorem State.lane_setLane (s : State) (k : Nat) (v : W64) (x : Nat) :
    (s.setLane k v).lane x = if x = k then v else s.lane x := SMap.get_set ..

@[simp] theorem State.lane_setByte (s : State) (a : Nat) (b : Byte) (x : Nat) : (s.setByte a b).lane x = s.lane x := rfl
@[simp] theorem State.byte_setLane (s : State) (k : Nat) (v : W64) (x : Nat) : (s.setLane k v).byte x = s.byte x := rfl

/-- A store writes its bytes from its address on, and nothing else. -/
theorem State.byte_store (s : State) (a : Nat) (bs : List Byte) (x : Nat) :
    (s.store a bs).byte x = if a ≤ x ∧ x < a + bs.length then bs.getD (x - a) 0 else s.byte x := by
  induction bs generalizing s a with
  | nil => simp [store] <;> omega
  | cons b bs ih =>
    rw [store, ih, State.byte_setByte]
    rcases Nat.lt_trichotomy x a with h | h | h
    · rw [if_neg (by omega), if_neg (by omega), if_neg (by omega)]
    · subst h; rw [if_neg (by omega), if_pos rfl, if_pos (by simp)]; simp
    · by_cases h2 : x < a + 1 + bs.length
      · rw [if_pos (by omega), if_pos (by simp; omega)]
        obtain ⟨n, rfl⟩ : ∃ n, x = a + 1 + n := ⟨x - (a + 1), by omega⟩
        rw [show a + 1 + n - (a + 1) = n by omega, show a + 1 + n - a = n + 1 by omega]
        rfl
      · rw [if_neg (by omega), if_neg (by omega), if_neg (by simp; omega)]

/-- A store changes no field but the bytes of memory. -/
theorem State.store_eq (s : State) (a : Nat) (bs : List Byte) : s.store a bs = { s with mem := (s.store a bs).mem } := by
  induction bs generalizing s a with
  | nil => rfl
  | cons b bs ih => rw [State.store, ih]; rfl

@[simp] theorem State.store_lanes (s : State) (a : Nat) (bs : List Byte) : (s.store a bs).lanes = s.lanes := by
  rw [State.store_eq]

@[simp] theorem State.lane_store (s : State) (a : Nat) (bs : List Byte) (x : Nat) : (s.store a bs).lane x = s.lane x := by
  rw [State.lane, State.lane, State.store_lanes]

/-! ### The canonical form is kept -/

theorem State.memWf_iff (s : State) : s.memWf = true ↔ SMap.wf 0 s.mem = true ∧ SMap.wf 0 s.lanes = true := by
  simp [State.memWf]

/-- Operations that leave memory and lanes alone keep the form. -/
theorem State.memWf_of_eq {s t : State} (h : s.memWf = true) (hm : t.mem = s.mem) (hl : t.lanes = s.lanes) :
    t.memWf = true := by
  rw [State.memWf, hm, hl]; exact h

theorem State.memWf_setByte {s : State} (a : Nat) (b : Byte) (h : s.memWf = true) : (s.setByte a b).memWf = true := by
  obtain ⟨h1, h2⟩ := (State.memWf_iff s).mp h
  exact (State.memWf_iff _).mpr ⟨SMap.wf_set 0 _ _ _ h1, h2⟩

theorem State.memWf_setLane {s : State} (k : Nat) (v : W64) (h : s.memWf = true) : (s.setLane k v).memWf = true := by
  obtain ⟨h1, h2⟩ := (State.memWf_iff s).mp h
  exact (State.memWf_iff _).mpr ⟨h1, SMap.wf_set 0 _ _ _ h2⟩

theorem State.memWf_store {s : State} (a : Nat) (bs : List Byte) (h : s.memWf = true) : (s.store a bs).memWf = true := by
  induction bs generalizing s a with
  | nil => exact h
  | cons b bs ih => exact ih (a + 1) (State.memWf_setByte a b h)

theorem State.memWf_setHdr {s : State} (k : Nat) (v : BitVec 16) (h : s.memWf = true) : (s.setHdr k v).memWf = true :=
  State.memWf_setLane k _ h

theorem State.memWf_setTag {s : State} (k : Nat) (v : BitVec 33) (h : s.memWf = true) : (s.setTag k v).memWf = true :=
  State.memWf_setLane k _ h

theorem State.memWf_wipe {s : State} (lo n : Nat) (h : s.memWf = true) : (s.wipe lo n).memWf = true := by
  obtain ⟨h1, h2⟩ := (State.memWf_iff s).mp h
  exact (State.memWf_iff _).mpr ⟨SMap.wf_clear 0 _ _ _ h1, SMap.wf_clear 0 _ _ _ h2⟩

theorem State.memWf_sweepTags {s : State} (x : Session) (g : Nat) (h : s.memWf = true) : (s.sweepTags x g).memWf = true := by
  obtain ⟨h1, h2⟩ := (State.memWf_iff s).mp h
  exact (State.memWf_iff _).mpr ⟨h1, SMap.wf_map_filter 0 s.lanes (sweptLane x g) h2⟩

theorem wf_putAll {α : Type} [DecidableEq α] (d : α) (m xs : SMap α) (h : SMap.wf d m = true) :
    SMap.wf d (putAll d m xs) = true := by
  unfold putAll
  induction xs generalizing m with
  | nil => exact h
  | cons p xs ih => exact ih _ (SMap.wf_set d m p.1 p.2 h)

/-- A fold of operations that each keep the form keeps it. -/
theorem State.memWf_foldl {β : Type} (f : State → β → State) (xs : List β)
    (hf : ∀ t x, t.memWf = true → (f t x).memWf = true) {s : State} (h : s.memWf = true) : (xs.foldl f s).memWf = true := by
  induction xs generalizing s with
  | nil => exact h
  | cons x xs ih => exact ih (hf s x h)

theorem State.memWf_setStr {s : State} (i : Sid) (t : Stream) (h : s.memWf = true) : (s.setStr i t).memWf = true :=
  State.memWf_of_eq h (by simp) (by simp)

theorem State.memWf_modStr {s : State} (i : Sid) (f : Stream → Stream) (h : s.memWf = true) : (s.modStr i f).memWf = true :=
  State.memWf_of_eq h (by simp) (by simp)

theorem State.memWf_drawn {s : State} (h : s.memWf = true) : s.drawn.memWf = true := h

theorem State.memWf_setMemBits {s : State} (b w v : Nat) (h : s.memWf = true) : (s.setMemBits b w v).memWf = true := by
  unfold State.setMemBits
  split
  · exact State.memWf_setByte _ _ h
  · exact State.memWf_store _ _ h

theorem State.memWf_syncOp {s : State} (a n : Nat) (h : s.memWf = true) : (s.syncOp a n).memWf = true := by
  have h1 := State.memWf_store a (toBytes 8 (syncAdd (s.word a) n).1.toNat) h
  unfold State.syncOp
  split
  next w past e =>
    rw [e] at h1
    dsimp only
    split
    · exact h1
    · split
      · exact h1
      · split
        · exact State.memWf_modStr _ _ h1
        · exact h1

theorem State.memWf_ringPost {s : State} (a st f c : Nat) (h : s.memWf = true) : (s.ringPost a st f c).memWf = true :=
  State.memWf_store _ _ h

theorem State.memWf_transferFault {s : State} (i : Sid) (f : XFault) (h : s.memWf = true) : (s.transferFault i f).memWf = true :=
  State.memWf_modStr _ _ h

theorem State.memWf_unitSync {s : State} (i : Sid) (a n : Nat) (h : s.memWf = true) : (s.unitSync i a n).memWf = true := by
  unfold State.unitSync
  split
  · exact State.memWf_transferFault _ _ h
  · exact State.memWf_syncOp _ _ h

theorem State.memWf_unitRing {s : State} (i : Sid) (a st f c : Nat) (h : s.memWf = true) : (s.unitRing i a st f c).memWf = true := by
  unfold State.unitRing
  split
  · exact State.memWf_transferFault _ _ h
  · exact State.memWf_ringPost _ _ _ _ h

theorem State.memWf_applyTags {s : State} (n : BitVec 12) (g : BitVec 4) (m : BitVec 10) (bs : List (Nat × TagKind))
    (h : s.memWf = true) : (s.applyTags n g m bs).memWf = true := by
  refine State.memWf_foldl _ bs (fun t x ht => ?_) h
  dsimp only
  split
  · exact ht
  · split
    · exact State.memWf_setTag _ _ ht
    · exact ht

/-- Bytes set from an address on in one operation, as a context save writes its segments. -/
theorem State.memWf_splice {s : State} (a : Nat) (bs : List Byte) (h : s.memWf = true) :
    State.memWf { s with mem := SMap.splice 0 s.mem a bs } = true := by
  obtain ⟨h1, h2⟩ := (State.memWf_iff s).mp h
  exact (State.memWf_iff _).mpr ⟨SMap.wf_splice 0 _ _ _ h1, h2⟩

/-! ### Views: blocks that stand elsewhere -/

theorem State.memWf_viewBlock {v : State} (s : State) (asid : BitVec 12) (b : Nat) (h : v.memWf = true) :
    (s.viewBlock asid v b).memWf = true := by
  unfold State.viewBlock
  split
  · exact h
  · exact State.memWf_setLane _ _ (State.memWf_store _ _ h)

theorem State.memWf_view {s : State} (asid : BitVec 12) (bs : List Nat) (h : s.memWf = true) : (s.view asid bs).memWf = true :=
  State.memWf_foldl _ bs (fun _ b ht => State.memWf_viewBlock s asid b ht) (State.memWf_drawn h)

theorem State.memWf_unlay {v : State} (s : State) (b : Nat) (h : v.memWf = true) : (s.unlay v b).memWf = true :=
  State.memWf_setLane _ _ (State.memWf_store _ _ h)

theorem State.memWf_homeBlock {s : State} (asid : BitVec 12) (place : RowOp → List RowOp → List RowOp)
    (mk : Nat → Nat → BitVec 512 → BitVec 16 → Option RowOp) (x : Nat × Nat × W64) (h : s.memWf = true) :
    (s.homeBlock asid place mk x).memWf = true := by
  obtain ⟨b, p, lane⟩ := x
  simp only [State.homeBlock]
  split
  · split
    · split <;> exact h
    · exact h
  · exact h
  · exact State.memWf_setLane _ _ (State.memWf_store _ _ h)

/-- Ending a view keeps the form. -/
theorem State.memWf_unview {v : State} (s : State) (asid : BitVec 12) (place : RowOp → List RowOp → List RowOp)
    (mk : Nat → Nat → BitVec 512 → BitVec 16 → Option RowOp) (bs : List Nat) (h : v.memWf = true) :
    (s.unview asid place mk v bs).memWf = true :=
  State.memWf_foldl _ _ (fun _ x ht => State.memWf_homeBlock asid place mk x ht)
    (State.memWf_foldl _ _ (fun _ b ht => State.memWf_unlay s b ht) h)

end Sys2Proof.Machine
end

