-- ==== Sys2Proof/Laws/Events.lean ====
section
/-! SUPPORT. Sys2Proof/Laws/Events.lean: one lemma per operation that events share: admission of wakes, entries of the black
box, landings, the ring entries and events that a gang's end posts, sync words, going back to a segment's entry. -/

namespace Sys2Proof.Machine

/-! ### The black box (R366) -/

/-- A field of a sum of fields. -/
theorem field_sum (x lo f hi k n : Nat) (hx : x = lo + 2 ^ k * (f + 2 ^ n * hi)) (h1 : lo < 2 ^ k) (h2 : f < 2 ^ n) : x / 2 ^ k % 2 ^ n = f := by
  subst hx
  rw [Nat.add_mul_div_left _ _ (Nat.two_pow_pos k), Nat.div_eq_of_lt h1, Nat.zero_add, Nat.add_mul_mod_self_left, Nat.mod_eq_of_lt h2]

/-- The fields of an event entry. -/
theorem event_fields (ev core asid a b c : Nat) (he : ev < 2 ^ 16) (hc : core < 2 ^ 16) (ha : asid < 2 ^ 16)
   (h1 : a < 2 ^ 64) (h2 : b < 2 ^ 64) (h3 : c < 2 ^ 64) :
   let x := ev + core * 2 ^ 16 + asid * 2 ^ 32 + a * 2 ^ 64 + b * 2 ^ 128 + c * 2 ^ 192
   x < 2 ^ 256 ∧ x / 2 ^ 0 % 2 ^ 16 = ev ∧ x / 2 ^ 16 % 2 ^ 16 = core ∧ x / 2 ^ 32 % 2 ^ 16 = asid ∧ x / 2 ^ 48 % 2 ^ 16 = 0 ∧
   x / 2 ^ 64 % 2 ^ 64 = a ∧ x / 2 ^ 128 % 2 ^ 64 = b ∧ x / 2 ^ 192 % 2 ^ 64 = c := by
  intro x
  refine ⟨by omega, ?_, ?_, ?_, ?_, ?_, ?_, ?_⟩
  · exact field_sum _ 0 ev (core + asid * 2 ^ 16 + a * 2 ^ 48 + b * 2 ^ 112 + c * 2 ^ 176) 0 16 (by omega) (by decide) he
  · exact field_sum _ ev core (asid + a * 2 ^ 32 + b * 2 ^ 96 + c * 2 ^ 160) 16 16 (by omega) he hc
  · exact field_sum _ (ev + core * 2 ^ 16) asid (a * 2 ^ 16 + b * 2 ^ 80 + c * 2 ^ 144) 32 16 (by omega) (by omega) ha
  · exact field_sum _ (ev + core * 2 ^ 16 + asid * 2 ^ 32) 0 (a + b * 2 ^ 64 + c * 2 ^ 128) 48 16 (by omega) (by omega) (by decide)
  · exact field_sum _ (ev + core * 2 ^ 16 + asid * 2 ^ 32) a (b + c * 2 ^ 64) 64 64 (by omega) (by omega) h1
  · exact field_sum _ (ev + core * 2 ^ 16 + asid * 2 ^ 32 + a * 2 ^ 64) b c 128 64 (by omega) (by omega) h2
  · exact field_sum _ (ev + core * 2 ^ 16 + asid * 2 ^ 32 + a * 2 ^ 64 + b * 2 ^ 128) c 0 192 64 (by omega) (by omega) h3
/-- A field of 256 bits as a number. -/
theorem field256 (d : Nat) (lo n : Nat) (h : d < 2 ^ 256) : ((BitVec.ofNat 256 d).extractLsb' lo n).toNat = d / 2 ^ lo % 2 ^ n := by
  rw [BitVec.extractLsb'_toNat, BitVec.toNat_ofNat, Nat.mod_eq_of_lt h, Nat.shiftRight_eq_div_pow]

/-- The fields of an event entry's data. -/
theorem eventData_fields (x ev core asid a b c : Nat) (he : ev < 2 ^ 16) (hc : core < 2 ^ 16) (ha : asid < 2 ^ 16)
    (hx : x = ev % 2 ^ 16 + core % 2 ^ 16 * 2 ^ 16 + asid % 2 ^ 16 * 2 ^ 32 + a % 2 ^ 64 * 2 ^ 64 +
      b % 2 ^ 64 * 2 ^ 128 + c % 2 ^ 64 * 2 ^ 192) (k num : Nat) (st : BitVec 32) (hk : k = 3) :
    (⟨k, BitVec.ofNat 256 x, num, st⟩ : BBEntry).holds ev core asid a b c := by
  rw [Nat.mod_eq_of_lt he, Nat.mod_eq_of_lt hc, Nat.mod_eq_of_lt ha] at hx
  obtain ⟨h0, h1, h2, h3, h4, h5, h6, h7⟩ := event_fields ev core asid (a % 2 ^ 64) (b % 2 ^ 64) (c % 2 ^ 64) he hc ha
    (Nat.mod_lt _ (Nat.two_pow_pos 64)) (Nat.mod_lt _ (Nat.two_pow_pos 64)) (Nat.mod_lt _ (Nat.two_pow_pos 64))
  rw [← hx] at h0 h1 h2 h3 h4 h5 h6 h7
  refine ⟨hk, ?_, ?_, ?_, ?_, ?_, ?_, ?_⟩ <;> simp only [field256 _ _ _ h0] <;> assumption

/-- An event entry is logged. -/
theorem State.bbEvent_logs (s : State) (ev core asid a b c : Nat) (he : ev < 2 ^ 16) (hc : core < 2 ^ 16) (ha : asid < 2 ^ 16) :
    Logs s (s.bbEvent ev core asid a b c) [(ev, core, asid, a, b, c)] := by
  refine ⟨[_], rfl, rfl, rfl, ?_⟩
  intro k x e hx h
  match k with
  | 0 =>
    simp only [List.getElem?_cons_zero, Option.some.injEq] at hx h
    subst hx h
    exact ⟨eventData_fields _ ev core asid a b c he hc ha rfl 3 _ _ rfl, by simp⟩
  | k + 1 => simp at hx

/-- Nothing but the black box changes. -/
theorem State.bbEvent_eq (s : State) (ev core asid a b c : Nat) :
    s.bbEvent ev core asid a b c =
      { s with bb := (s.bbEvent ev core asid a b c).bb, bbCount := (s.bbEvent ev core asid a b c).bbCount } := rfl

/-! ### Admission (R292, R293, R299) -/

theorem State.dom_setDom (s : State) (d : Nat) (v : Dom) (e : Nat) : (s.setDom d v).dom e = if e = d then v else s.dom e :=
  SMap.get_set ..

/-- Which wake is picked: the head, or where the head is deferred the first of the other core (R292, R293). -/
theorem pickWake_spec (deferred : Option Bool) (q : List PairWake) :
    match pickWake deferred q with
    | some w => ∃ xs ys, q = xs ++ w :: ys ∧ q.erase w = xs ++ ys ∧
        (xs = [] ∧ deferred ≠ some w.mine ∨
          ∃ h, q.head? = some h ∧ deferred = some h.mine ∧ w.mine ≠ h.mine ∧ ∀ x ∈ xs, x.mine = h.mine)
    | none => ∀ w ∈ q, deferred = some w.mine := by
  cases q with
  | nil => simp [pickWake]
  | cons w ws =>
    by_cases hd : deferred = some w.mine
    · have key : ∀ (l : List PairWake), match l.find? (fun x => x.mine != w.mine) with
          | some v => ∃ xs ys, l = xs ++ v :: ys ∧ (l.erase v = xs ++ ys) ∧ v.mine ≠ w.mine ∧ ∀ x ∈ xs, x.mine = w.mine
          | none => ∀ x ∈ l, x.mine = w.mine := by
        intro l
        induction l with
        | nil => simp
        | cons a l ih =>
          by_cases ha : a.mine = w.mine
          · rw [List.find?_cons_of_neg (by simp [ha])]
            split at ih
            · next v _ =>
              obtain ⟨xs, ys, h1, h2, h3, h4⟩ := ih
              refine ⟨a :: xs, ys, by rw [h1]; rfl, ?_, h3, ?_⟩
              · have : a ≠ v := fun e => h3 (e ▸ ha)
                rw [List.erase_cons_tail (by simpa using this), h2]; rfl
              · intro x hx
                rcases List.mem_cons.mp hx with hx | hx
                · exact hx ▸ ha
                · exact h4 x hx
            · intro x hx
              rcases List.mem_cons.mp hx with hx | hx
              · exact hx ▸ ha
              · exact ih x hx
          · rw [List.find?_cons_of_pos (by simp [ha])]
            exact ⟨[], l, rfl, by simp, ha, by simp⟩
      have k := key ws
      simp only [pickWake, hd, if_true]
      split
      · next v hv =>
        rw [hv] at k
        obtain ⟨xs, ys, h1, h2, h3, h4⟩ := k
        refine ⟨w :: xs, ys, by rw [h1]; rfl, ?_, .inr ⟨w, rfl, rfl, h3, ?_⟩⟩
        · have : w ≠ v := fun e => h3 (e ▸ rfl)
          rw [List.erase_cons_tail (by simpa using this), h2]; rfl
        · intro x hx
          rcases List.mem_cons.mp hx with hx | hx
          · exact hx ▸ rfl
          · exact h4 x hx
      · next hv =>
        rw [hv] at k
        intro x hx
        rcases List.mem_cons.mp hx with hx | hx
        · exact hx ▸ rfl
        · rw [k x hx]
    · simp only [pickWake, hd, if_false]
      exact ⟨[], ws, rfl, by simp, .inl ⟨rfl, hd⟩⟩

/-- A wake that is picked while there is room is admitted. -/
theorem State.admitWake_one (s : State) (w : PairWake) (hr : s.admitRoom = true)
    (h : pickWake s.power.deferred s.wakeQ = some w) : AdmitsOne s (s.admitWake w) := by
  have k := pickWake_spec s.power.deferred s.wakeQ
  rw [h] at k
  obtain ⟨xs, ys, h1, h2, h3⟩ := k
  simp only [State.admitRoom, Bool.and_eq_true, Bool.not_eq_true', decide_eq_true_eq] at hr
  refine ⟨w, xs, ys, h1, hr.1, hr.2, h3, ?_, ?_, ?_⟩
  · cases hm : w.mine <;> simp only [State.admitWake, hm, h2] <;> rfl
  · intro e
    cases hm : w.mine
    · simp only [State.admitWake, hm]; rfl
    · simp only [State.admitWake, hm]
      show State.dom (State.setDom { s with wakeQ := s.wakeQ.erase w } w.dom _) e = _
      rw [State.dom_setDom]
      by_cases he : e = w.dom
      · subst he; rw [if_pos rfl, if_pos ⟨trivial, rfl⟩]; rfl
      · rw [if_neg he, if_neg (fun c => he c.2)]; rfl
  · cases hm : w.mine <;> simp only [State.admitWake, hm] <;> rfl

/-- Nothing is admitted where there is no room or nothing is picked. -/
theorem State.admitsNone_of {s : State} (h : ¬ (s.admitRoom = true ∧ (pickWake s.power.deferred s.wakeQ).isSome = true)) :
    s.admitsNone := by
  by_cases hr : s.admitRoom = true
  · have k := pickWake_spec s.power.deferred s.wakeQ
    cases hp : pickWake s.power.deferred s.wakeQ with
    | none => rw [hp] at k; exact .inr (.inr k)
    | some w => exact absurd ⟨hr, by simp [hp]⟩ h
  · simp only [State.admitRoom, Bool.and_eq_true, Bool.not_eq_true', decide_eq_true_eq, not_and,
      Nat.not_lt] at hr
    by_cases ht : s.power.tripped = true
    · exact .inl ht
    · exact .inr (.inl (hr (by simpa using ht)))

/-- The admission of two wakes. -/
theorem State.admit_admits (s : State) : Admits s (State.admitWakes 2 s) := by
  have one (u : State) : (u.admitsNone ∧ State.admitWakes 1 u = u) ∨ AdmitsOne u (State.admitWakes 1 u) := by
    by_cases hr : u.admitRoom = true
    · cases hp : pickWake u.power.deferred u.wakeQ with
      | none => exact .inl ⟨State.admitsNone_of (by simp [hp]), by simp [State.admitWakes, hr, hp]⟩
      | some w =>
        have e : State.admitWakes 1 u = u.admitWake w := by simp [State.admitWakes, hr, hp]
        exact .inr (e ▸ u.admitWake_one w hr hp)
    · exact .inl ⟨State.admitsNone_of (by simp [hr]), by simp [State.admitWakes, hr]⟩
  by_cases hr : s.admitRoom = true
  · cases hp : pickWake s.power.deferred s.wakeQ with
    | none => exact .inl ⟨State.admitsNone_of (by simp [hp]), by simp [State.admitWakes, hr, hp]⟩
    | some w =>
      have e : State.admitWakes 2 s = State.admitWakes 1 (s.admitWake w) := by rw [State.admitWakes, if_pos hr, hp]
      rw [e]
      exact .inr ⟨_, s.admitWake_one w hr hp, one _⟩
  · exact .inl ⟨State.admitsNone_of (by simp [hr]), by rw [State.admitWakes, if_neg hr]⟩

theorem State.admitWake_owner (s : State) (w : PairWake) (e : Nat) : ((s.admitWake w).dom e).owner = (s.dom e).owner := by
  cases hm : w.mine
  · simp only [State.admitWake, hm]; rfl
  · simp only [State.admitWake, hm]
    show (State.dom (State.setDom { s with wakeQ := s.wakeQ.erase w } w.dom _) e).owner = _
    rw [State.dom_setDom]
    by_cases he : e = w.dom
    · subst he; rw [if_pos rfl]; rfl
    · rw [if_neg he]; rfl

/-- The admission leaves the owners of domains. -/
theorem State.admit_owner (n : Nat) (s : State) (e : Nat) : ((State.admitWakes n s).dom e).owner = (s.dom e).owner := by
  induction n generalizing s with
  | zero => rfl
  | succ n ih =>
    rw [State.admitWakes]
    split
    · split
      · rw [ih, State.admitWake_owner]
      · rfl
    · rfl

/-! ### Ballast (R296) -/

/-- What the ballast draws is at most the 384 W that ballast can give (R296). -/
theorem Power.burn_le (p : Power) : p.burn ≤ ballastMax := by
  have h : p.segsOn.length ≤ 512 := by
    simpa [Power.segsOn] using List.length_filter_le (fun k => p.ballast.contains k || p.balanced.contains k) (List.range 512)
  have e : 75 * p.segsOn.length ≤ 75 * 512 := Nat.mul_le_mul_left 75 h
  simpa [Power.burn, segPower, ballastMax] using e

end Sys2Proof.Machine
end

