-- ==== Sys2Proof/Tests/Slice0.lean ====
section
/-! SUPPORT. Sys2Proof/Tests/Slice0.lean: tests. Words of the manual and words composed from its encoding tables decode to their
instructions; ill-formed terms are refused; single steps of small machines give the manual's values; and for every statement with
hypotheses a `witness_` theorem shows a state and operands that meet them. -/

open Sys2Proof Sys2Proof.Machine

namespace Sys2Proof.Tests

-- one theorem after the other: each thread holds a large stack
set_option Elab.async false

/-- No guard: p0. -/
def g0 : Guard := ⟨false, 0⟩

/-- Queue `n` as a source that pops. -/
def q (n : BitVec 5) : Src := .queue n false

/-- An address in bank 0 of core 0, whose scratchpad the test stream owns. -/
def pad : Nat := bankBase 0 0

/-- A core in the middle of a task of one member: every tile, bank and domain is the primary's; its bundle is a commit bundle,
so that every word may stand in it; queues q1 to q9 hold small values, q16 an address of the scratchpad, q20 one of a vault. -/
def base : State :=
  { State.reset with
    cycle := 800
    prim := { Stream.idle with
      status := .running, commit := true
      task := { Task.none with asid := 1, members := 1, tixEnd := 1, tiles := 16, banks := 16, entry := 0x400000 }
      la := [(1, some 0xFF00), (2, some 0x40000000)]
      sc := { Scalars.start with
        pc := 0x400001, preds := 0b111
        queues := [(1, [6]), (2, [7]), (3, [0x3F800000]), (4, [0x40000000]), (5, [0x803]), (6, [BitVec.ofNat 64 (pad + 0x1000)]), (16, [BitVec.ofNat 64 pad]), (17, [64]), (18, [0x7F70])] } }
    sessions := [{ textSession with phases := [(0, 5)] }]
    doms := (List.range 23).map (fun d => (d, ⟨.awake, some .prim, 0, 0⟩))
    seq := 40, bundle := ⟨0x2000000, 0x400001, 0x400003⟩ }

/-! ### Decoding -/

/-- Words that the manual works out (R82 to R139 and the examples of sections 04, 06, 07, 08). -/
theorem test_worked_words_control : ([
    (.C, 0x041FFFFB, .br ⟨g0, -5⟩), (.C, 0x0C000A00, .bri ⟨g0, q 5⟩), (.C, 0x14000000, .ret ⟨g0⟩), (.C, 0x18008012, .loop ⟨g0, q 1, 1, 2⟩),
    (.C, 0x1C03000C, .seg ⟨g0, true, true, 12⟩), (.C, 0x20020007, .rdv ⟨g0, 1, 7⟩), (.C, 0x24060000, .bar ⟨g0, 3⟩), (.C, 0x28000000, .wake ⟨g0, 0⟩),
    (.C, 0x280A0000, .wake ⟨g0, 10⟩), (.C, 0x2C050000, .sleep ⟨g0, 5⟩), (.C, 0x30000818, .waitg ⟨g0, q 4, q 6⟩), (.C, 0x3403A854, .waitr ⟨g0, .queue 3, q 20, q 21⟩),
    (.C, 0x38001400, .signal ⟨g0, q 10, .zero⟩), (.C, 0x3C049800, .launch ⟨g0, .queue 4, q 12⟩), (.C, 0x4000002A, .trap ⟨g0, 0x2A⟩), (.C, 0x44000000, .endTask ⟨g0⟩),
    (.C, 0x4804A480, .kchk ⟨g0, 2, 5, q 9⟩), (.C, 0x4C022028, .csrr ⟨g0, 0x110, .queue 2⟩), (.C, 0x50000638, .csrw ⟨g0, 3, q 7⟩)
  ] : List (Slot × W32 × Instr)).all (fun x => decide (decode x.1 x.2.1 = .instr x.2.2)) = true := by decide +kernel

theorem test_worked_words_arithmetic : ([
    (.I, 0x0403820A, .add ⟨g0, .I, .queue 3, q 1, .queue 2 true, false⟩), (.J, 0x08098585, .sub ⟨g0, .J, .queue 9, .queue 2 true, .latchA 1, true⟩),
    (.I, 0x64038209, .lea ⟨g0, .I, .queue 3, q 1, q 2, true⟩), (.I, 0x84020064, .addi ⟨g0, .I, 2, .zero, 100⟩), (.I, 0x68068104, .cmp ⟨g0, .I, 3, 2, q 1, q 2⟩),
    (.I, 0x6C082500, .plog ⟨g0, .I, 4, 1, 2, 8⟩), (.I, 0x8805D000, .qcnt ⟨g0, .I, .queue 5, 20⟩), (.I, 0x8C005100, .qdrop ⟨g0, .I, 20, 2⟩),
    (.J, 0x90064A00, .shpw ⟨g0, 1, 18, q 20⟩), (.J, 0x94039940, .shpr ⟨g0, .queue 3, 1, 18, true⟩), (.J, 0xA4000208, .fmac ⟨g0, .none, q 1, q 2⟩),
    (.J, 0xB8048104, .fcmp ⟨g0, 2, 2, q 1, q 2⟩), (.J, 0xBC028280, .fcvt ⟨g0, .queue 2, q 1, 4, 0⟩)
  ] : List (Slot × W32 × Instr)).all (fun x => decide (decode x.1 x.2.1 = .instr x.2.2)) = true := by decide +kernel

theorem test_worked_words_others : ([
    (.V, 0x600C8A04, .vsel ⟨g0, 6, 4, 5, 0, 1⟩), (.V, 0x6C040000, .viota ⟨g0, 2, 0, .zero, 0⟩), (.M, 0x100E8000, .macc ⟨g0, 3, 2, true⟩), (.M, 0x08040000, .mpush ⟨g0, 2, 0⟩),
    (.M, 0x20020000, .mclr ⟨g0, 2⟩), (.M, 0x14000000, .mswap ⟨g0⟩), (.L, 0x1404C240, .ld ⟨g0, .queue 4, 4, q 9⟩), (.L, 0x18018860, .st ⟨g0, q 3, q 8, 6⟩),
    (.L, 0x080813C0, .tst ⟨g0, 4, 0, 2, false, 0xF, 0⟩), (.X, 0x28024500, .synci ⟨g0, .queue 4 true, q 5⟩), (.L, 0x28050B00, .synca ⟨g0, q 10, q 11⟩),
    (.L, 0x3C040900, .publ ⟨g0, q 8, q 9⟩), (.L, 0x40040914, .hand ⟨g0, q 8, q 9, q 10⟩), (.L, 0x30040900, .voadd ⟨g0, q 8, q 9⟩), (.L, 0x30040940, .voaddS64 ⟨g0, q 8, q 9⟩),
    (.L, 0x34043068, .vocas ⟨g0, 4, q 12, q 13⟩), (.L, 0x38081124, .vosax ⟨g0, q 16, q 17, q 18⟩), (.L, 0x24100000, .fence ⟨g0, 4⟩),
    (.X, 0x0C189800, .bcopy ⟨g0, 1, true, .queue 4 true, true⟩), (.X, 0x0C008000, .bcopy ⟨g0, 0, false, q 4, false⟩), (.X, 0x10088000, .sbind ⟨g0, 2, false, 1, false⟩),
    (.X, 0x14080000, .sunb ⟨g0, 2⟩), (.X, 0x200CC000, .send ⟨g0, 3, q 12⟩), (.X, 0x240CD000, .recv ⟨g0, 3, q 13⟩)
  ] : List (Slot × W32 × Instr)).all (fun x => decide (decode x.1 x.2.1 = .instr x.2.2)) = true := by decide +kernel

/-- Words that are no instruction, by the name of their fate: a nonzero word of operation code 0, an operation code the slot does
not list, a negated p0, a reserved field that is not zero, a destination half named, a source specifier 62, a keep bit on a latch,
a domain number 23 (R57, R59, R79). -/
theorem test_refused_words :
    decode .C 0 = .nop ∧ decode .M 0x03E0001F = .bad .illegalSlot ∧ decode .C 0x00000001 = .bad .illegalSlot ∧ decode .C 0xFC000000 = .bad .illegalOpcode ∧ decode .I 0xA4000208 = .bad .illegalOpcode ∧ decode .C 0x16000000 = .bad .illegalSlot ∧
    decode .C 0x44000001 = .bad .illegalField ∧ decode .C 0x4001002A = .bad .illegalField ∧ decode .L 0x24140000 = .bad .illegalField ∧
    decode .I 0x0403020A = .bad .illegalOperand ∧ decode .I 0x0403FC0A = .bad .illegalOperand ∧ decode .I 0x0403820A = .instr (.add ⟨g0, .I, .queue 3, q 1, .queue 2 true, false⟩) ∧
    decode .J 0x0403C38A = .bad .illegalOperand ∧ decode .C 0x28170000 = .bad .illegalOperand := by decide +kernel

/-- One ill-formed term for each check of well-formedness: guard, source, destination; the field codes; the operand values. -/
theorem test_ill_formed : ([
    .ret ⟨⟨true, 0⟩⟩, .bri ⟨g0, .queue 0 false⟩, .mov ⟨g0, .I, .queue 0, q 1, false⟩,
    .fcvt ⟨g0, .none, q 3, 0, 5⟩, .fcvt ⟨g0, .none, q 3, 5, 1⟩, .vcvt ⟨g0, 4, 2, 0, 7, 0, true, false⟩, .vcvt ⟨g0, 4, 2, 0, 1, 0, false, false⟩, .vcvt ⟨g0, 4, 2, 0, 3, 4, false, false⟩,
    .vcvt ⟨g0, 4, 2, 0, 8, 0, true, false⟩, .vrdx ⟨g0, .none, 2, 0, 6, 0⟩, .vxdrn ⟨g0, .none, 0, 5, false⟩, .mdrain ⟨g0, 0, 0, 0, 12, 0, false, false, false⟩,
    .mdrain ⟨g0, 0, 0, 0, 7, 6, false, false, false⟩, .mdrain ⟨g0, 0, 0, 0, 7, 1, false, false, true⟩, .mdrain ⟨g0, 0, 0, 0, 8, 0, false, true, false⟩, .mdrns ⟨g0, 0, 0, 0, 9, q 1⟩,
    .tld ⟨g0, 0, 0, 0, false, 13, 0⟩, .tld ⟨g0, 0, 0, 0, false, 5, 6⟩, .tst ⟨g0, 0, 0, 0, false, 0, 0⟩, .tst ⟨g0, 0, 0, 0, false, 15, 1⟩, .tlda ⟨g0, 0, 50, 14, q 1⟩, .tsta ⟨g0, 0, 63, 1, q 1⟩,
    .ld ⟨g0, .none, 7, q 1⟩, .st ⟨g0, q 1, q 2, 3⟩, .fence ⟨g0, 5⟩,
    .loop ⟨g0, q 1, 0, 1⟩, .loop ⟨g0, q 1, 1, 0⟩, .wake ⟨g0, 23⟩, .sleep ⟨g0, 31⟩, .csrr ⟨g0, 5, .none⟩, .csrr ⟨g0, 0x113, .none⟩, .csrr ⟨g0, 0x221, .none⟩, .csrw ⟨g0, 0x100, q 1⟩, .csrw ⟨g0, 0x202, q 1⟩,
    .ldiH0 ⟨g0, .I, 0, 1⟩, .ldiH1 ⟨g0, .I, 0, 1⟩, .ldiH2 ⟨g0, .I, 0, 1⟩, .ldiH3 ⟨g0, .I, 0, 1⟩, .addi ⟨g0, .I, 0, q 1, 1⟩, .qcnt ⟨g0, .I, .none, 0⟩, .qdrop ⟨g0, .I, 0, 1⟩, .qdrop ⟨g0, .I, 1, 0⟩, .qdrop ⟨g0, .I, 1, 5⟩,
    .vcmp ⟨g0, 0, 2, 3, 0, 0, 0⟩, .vcmps ⟨g0, 0, 2, 0, 0, q 1⟩, .vmsk ⟨g0, 0, 1, 2, 8⟩, .vmskqToMask ⟨g0, 0, q 1⟩, .vhdrRead ⟨g0, 2, 0, 0⟩, .mpush ⟨g0, 0, 13⟩, .mdrain ⟨g0, 0, 13, 0, 7, 0, false, false, false⟩,
    .mdrns ⟨g0, 0, 13, 0, 7, q 1⟩, .mspill ⟨g0, 0, 11, 0, 0⟩, .mfill ⟨g0, 0, 11, 0, 0⟩, .vocas ⟨g0, 0, q 1, q 2⟩, .lncnt ⟨g0, 6, q 1⟩, .lnstr ⟨g0, 7, 0, q 1, q 2⟩, .bcopy ⟨g0, 0, false, .zero, true⟩
  ] : List Instr).all (fun i => !i.wf) = true := by decide +kernel

/-- The check value of R236: the CRC-64 of the bytes "123456789". -/
theorem test_crc64_check_value : crc64 9 0x393837363534333231 0 = 0x6C40DF5F0B497347 := by decide +kernel

/-! Words composed field by field from the layouts of R61 to R66, one per word of the table. -/

theorem test_decodes_control_1 : ([
    (.C, 0x075209C5, .br ⟨⟨true, 10⟩, -915003⟩),
    (.C, 0x08BD3493, .call ⟨⟨false, 5⟩, -183149⟩),
    (.C, 0x0DA01300, .bri ⟨⟨false, 13⟩, .queue 9 true⟩),
    (.C, 0x11206400, .calli ⟨⟨false, 9⟩, .port 2 false⟩),
    (.C, 0x15400000, .ret ⟨⟨false, 10⟩⟩),
    (.C, 0x1BC34755, .loop ⟨⟨true, 14⟩, .queue 6 true, 117, 5⟩),
    (.C, 0x1E611921, .seg ⟨⟨true, 3⟩, false, true, 6433⟩),
    (.C, 0x23947442, .rdv ⟨⟨true, 12⟩, 10, 29762⟩),
    (.C, 0x24AA0000, .bar ⟨⟨false, 5⟩, 5⟩),
    (.C, 0x2B890000, .wake ⟨⟨true, 12⟩, 9⟩),
    (.C, 0x2FA50000, .sleep ⟨⟨true, 13⟩, 5⟩),
    (.C, 0x3100424C, .waitg ⟨⟨false, 8⟩, .latchA 1, .queue 19 false⟩)
  ] : List (Slot × W32 × Instr)).all (fun x => decide (decode x.1 x.2.1 = .instr x.2.2)) = true := by decide +kernel

theorem test_decodes_control_2 : ([
    (.C, 0x344FD81C, .waitr ⟨⟨false, 2⟩, .queue 15, .latchB 4, .queue 7 false⟩),
    (.C, 0x3B0021BC, .signal ⟨⟨true, 8⟩, .queue 16 true, .latchB 7⟩),
    (.C, 0x3FD2D600, .launch ⟨⟨true, 14⟩, .queue 18, .latchB 3⟩),
    (.C, 0x40204C1F, .trap ⟨⟨false, 1⟩, 19487⟩),
    (.C, 0x46600000, .endTask ⟨⟨true, 3⟩⟩),
    (.C, 0x4A5AD400, .kchk ⟨⟨true, 2⟩, 13, 6, .latchB 0⟩),
    (.C, 0x4F022118, .csrr ⟨⟨true, 8⟩, 0x110, .queue 17⟩),
    (.C, 0x51E00678, .csrw ⟨⟨false, 15⟩, 3, .queue 15 false⟩)
  ] : List (Slot × W32 × Instr)).all (fun x => decide (decode x.1 x.2.1 = .instr x.2.2)) = true := by decide +kernel

theorem test_decodes_integer_1 : ([
    (.J, 0x047FAC6A, .add ⟨⟨false, 3⟩, .J, .queue 31, .queue 22 false, .queue 26 true, false⟩),
    (.I, 0x0826B43B, .sub ⟨⟨false, 1⟩, .I, .queue 6, .queue 26 false, .queue 14 true, true⟩),
    (.I, 0x0EA2EC55, .mul ⟨⟨true, 5⟩, .I, .queue 2, .port 6 false, .queue 21 false, true⟩),
    (.J, 0x10ADEDA1, .mulh ⟨⟨false, 5⟩, .J, .queue 13, .port 6 true, .latchB 0, true⟩),
    (.I, 0x16B1A6B5, .mulhn ⟨⟨true, 5⟩, .I, .queue 17, .queue 19 false, .latchB 5, true⟩),
    (.I, 0x182A9264, .divs ⟨⟨false, 1⟩, .I, .queue 10, .queue 9 false, .queue 25 false, false⟩),
    (.J, 0x1DD99780, .divn ⟨⟨false, 14⟩, .J, .queue 25, .queue 11 true, .latchA 0, false⟩),
    (.J, 0x2224BD91, .rems ⟨⟨true, 1⟩, .J, .queue 4, .queue 30 true, .latchA 4, true⟩),
    (.J, 0x250BDEDC, .remn ⟨⟨false, 8⟩, .J, .queue 11, .latchB 7, .port 7 false, false⟩),
    (.J, 0x2BD5E580, .and ⟨⟨true, 14⟩, .J, .queue 21, .port 2 true, .latchA 0, false⟩),
    (.I, 0x2C3DEA4B, .or ⟨⟨false, 1⟩, .I, .queue 29, .port 5 false, .queue 18 true, true⟩),
    (.I, 0x323FD21A, .xor ⟨⟨true, 1⟩, .I, .queue 31, .latchB 1, .queue 6 true, false⟩)
  ] : List (Slot × W32 × Instr)).all (fun x => decide (decode x.1 x.2.1 = .instr x.2.2)) = true := by decide +kernel

theorem test_decodes_integer_2 : ([
    (.J, 0x34908228, .andn ⟨⟨false, 4⟩, .J, .queue 16, .queue 1 false, .queue 10 false, false⟩),
    (.I, 0x3ACEA688, .shl ⟨⟨true, 6⟩, .I, .queue 14, .queue 19 false, .latchA 2, false⟩),
    (.J, 0x3D529FA5, .shrl ⟨⟨false, 10⟩, .J, .queue 18, .queue 15 true, .latchB 1, true⟩),
    (.J, 0x4348C4B1, .shra ⟨⟨true, 10⟩, .J, .queue 8, .latchA 2, .latchB 4, true⟩),
    (.J, 0x47AEA60C, .mins ⟨⟨true, 13⟩, .J, .queue 14, .queue 19 false, .queue 3 false, false⟩),
    (.J, 0x488AE75E, .maxs ⟨⟨false, 4⟩, .J, .queue 10, .port 3 true, .queue 23 true, false⟩),
    (.J, 0x4EE3E03B, .minn ⟨⟨true, 7⟩, .J, .queue 3, .port 0 false, .queue 14 true, true⟩),
    (.I, 0x536BA712, .maxn ⟨⟨true, 11⟩, .I, .queue 11, .queue 19 true, .queue 4 true, false⟩),
    (.I, 0x5638EA00, .clz ⟨⟨true, 1⟩, .I, .queue 24, .port 5 false, false⟩),
    (.J, 0x5BE4DE01, .popc ⟨⟨true, 15⟩, .J, .queue 4, .latchB 7, true⟩),
    (.J, 0x5F1DE77E, .bfx ⟨⟨true, 8⟩, .J, .queue 29, .port 3 true, .queue 31 true, false⟩),
    (.J, 0x63A6B988, .bfi ⟨⟨true, 13⟩, .J, .queue 6, .queue 28 true, .latchA 2, false⟩)
  ] : List (Slot × W32 × Instr)).all (fun x => decide (decode x.1 x.2.1 = .instr x.2.2)) = true := by decide +kernel

theorem test_decodes_integer_3 : ([
    (.J, 0x6531A71A, .lea ⟨⟨false, 9⟩, .J, .queue 17, .queue 19 true, .queue 6 true, false⟩),
    (.I, 0x69CA95A7, .cmp ⟨⟨false, 14⟩, .I, 5, 2, .queue 21 true, .queue 19 true⟩),
    (.J, 0x6CE44160, .plog ⟨⟨false, 7⟩, .J, 2, 2, 0, 11⟩),
    (.I, 0x7313B400, .mov ⟨⟨true, 8⟩, .I, .queue 19, .queue 26 false, false⟩),
    (.J, 0x7682CA1B, .ldiH0 ⟨⟨true, 4⟩, .J, 2, 51739⟩),
    (.I, 0x787C7F13, .ldiH1 ⟨⟨false, 3⟩, .I, 28, 32531⟩),
    (.I, 0x7D1E6016, .ldiH2 ⟨⟨false, 8⟩, .I, 30, 24598⟩),
    (.J, 0x810FBD3F, .ldiH3 ⟨⟨false, 8⟩, .J, 15, 48447⟩),
    (.I, 0x858F2433, .addi ⟨⟨false, 12⟩, .I, 15, .queue 9 false, 51⟩),
    (.J, 0x89369C00, .qcnt ⟨⟨false, 9⟩, .J, .queue 22, 7⟩),
    (.J, 0x8F007900, .qdrop ⟨⟨true, 8⟩, .J, 30, 2⟩)
  ] : List (Slot × W32 × Instr)).all (fun x => decide (decode x.1 x.2.1 = .instr x.2.2)) = true := by decide +kernel

theorem test_decodes_scalar_float_and_shape : ([
    (.J, 0x916E2CC0, .shpw ⟨⟨false, 11⟩, 3, 17, .queue 25 true⟩),
    (.J, 0x95E881C0, .shpr ⟨⟨false, 15⟩, .queue 8, 0, 3, true⟩),
    (.J, 0x9B03DEA0, .fadd ⟨⟨true, 8⟩, .queue 3, .latchB 7, .latchB 0⟩),
    (.J, 0x9EEAEDA4, .fsub ⟨⟨true, 7⟩, .queue 10, .port 6 true, .latchB 1⟩),
    (.J, 0xA256C262, .fmul ⟨⟨true, 2⟩, .queue 22, .latchA 1, .queue 24 true⟩),
    (.J, 0xA6C5A6D8, .fmac ⟨⟨true, 6⟩, .queue 5, .queue 19 false, .port 6 false⟩),
    (.J, 0xA901ED94, .fdiv ⟨⟨false, 8⟩, .queue 1, .port 6 true, .latchA 5⟩),
    (.J, 0xAE6BDE00, .fsqrt ⟨⟨true, 3⟩, .queue 11, .latchB 7⟩),
    (.J, 0xB261EE60, .fmin ⟨⟨true, 3⟩, .queue 1, .port 7 false, .queue 24 false⟩),
    (.J, 0xB66E9D88, .fmax ⟨⟨true, 3⟩, .queue 14, .queue 14 true, .latchA 2⟩),
    (.J, 0xBBF2C4DC, .fcmp ⟨⟨true, 15⟩, 9, 3, .queue 4 true, .latchB 6⟩),
    (.J, 0xBDD7DC70, .fcvt ⟨⟨false, 14⟩, .queue 23, .latchB 6, 3, 4⟩)
  ] : List (Slot × W32 × Instr)).all (fun x => decide (decode x.1 x.2.1 = .instr x.2.2)) = true := by decide +kernel

theorem test_decodes_vector_lane_1 : ([
    (.V, 0x05598AEA, .vadd ⟨⟨false, 10⟩, 12, 12, 5, 7, 2, 2⟩),
    (.V, 0x08C9F1C9, .vsub ⟨⟨false, 6⟩, 4, 15, 8, 14, 2, 1⟩),
    (.V, 0x0ECD61BC, .vmul ⟨⟨true, 6⟩, 6, 11, 0, 13, 7, 0⟩),
    (.V, 0x1239B6EB, .vfma ⟨⟨true, 1⟩, 12, 13, 11, 7, 2, 3⟩),
    (.V, 0x15F595C0, .vmin ⟨⟨false, 15⟩, 10, 12, 10, 14, 0⟩),
    (.V, 0x1A2A5C44, .vmax ⟨⟨true, 1⟩, 5, 2, 14, 2, 1⟩),
    (.V, 0x1D6621D0, .vabs ⟨⟨false, 11⟩, 3, 1, 14, 4⟩),
    (.V, 0x23438024, .vneg ⟨⟨true, 10⟩, 1, 12, 1, 1⟩),
    (.V, 0x24C598C7, .vdiv ⟨⟨false, 6⟩, 2, 12, 12, 6, 1, 3⟩),
    (.V, 0x2976E13F, .vsqrt ⟨⟨false, 11⟩, 11, 7, 9, 7, 3⟩),
    (.V, 0x2F66810B, .vadds ⟨⟨true, 11⟩, 3, 4, 0, .latchA 1, 3⟩),
    (.V, 0x3343DD4A, .vmuls ⟨⟨true, 10⟩, 1, 14, 14, .latchB 1, 2⟩)
  ] : List (Slot × W32 × Instr)).all (fun x => decide (decode x.1 x.2.1 = .instr x.2.2)) = true := by decide +kernel

theorem test_decodes_vector_lane_2 : ([
    (.V, 0x36C06684, .vfmas ⟨⟨true, 6⟩, 0, 3, 3, .queue 16 true, 0⟩),
    (.V, 0x38B27AAC, .viadd ⟨⟨false, 5⟩, 9, 3, 13, 5, 3⟩),
    (.V, 0x3FA42B74, .visub ⟨⟨true, 13⟩, 2, 1, 5, 11, 5⟩),
    (.V, 0x4097A874, .vimul ⟨⟨false, 4⟩, 11, 13, 4, 3, 5⟩),
    (.V, 0x4528F824, .vand ⟨⟨false, 9⟩, 4, 7, 12, 1, 1⟩),
    (.V, 0x49A1A9A8, .vor ⟨⟨false, 13⟩, 0, 13, 4, 13, 2⟩),
    (.V, 0x4DFA23B8, .vxor ⟨⟨false, 15⟩, 13, 1, 1, 13, 6⟩),
    (.V, 0x50E87A40, .vshl ⟨⟨false, 7⟩, 4, 3, 13, 2, 0⟩),
    (.V, 0x55D5D960, .vshr ⟨⟨false, 14⟩, 10, 14, 12, 11, 0⟩),
    (.V, 0x5A7F15ED, .vcmp ⟨⟨true, 3⟩, 7, 12, 5, 7, 5, 5⟩),
    (.V, 0x5C4C212B, .vcmps ⟨⟨false, 2⟩, 3, 0, 8, 2, .queue 21 true⟩),
    (.V, 0x61FEC82C, .vsel ⟨⟨false, 15⟩, 15, 6, 4, 1, 3⟩)
  ] : List (Slot × W32 × Instr)).all (fun x => decide (decode x.1 x.2.1 = .instr x.2.2)) = true := by decide +kernel

theorem test_decodes_vector_lane_3 : ([
    (.V, 0x64F6A114, .vmov ⟨⟨false, 7⟩, 11, 5, 8, 5⟩),
    (.V, 0x69FE11A9, .vbcst ⟨⟨false, 15⟩, 15, 8, .port 5 false, 1⟩),
    (.V, 0x6F3A1877, .viota ⟨⟨true, 9⟩, 13, 12, .queue 14 true, 3⟩)
  ] : List (Slot × W32 × Instr)).all (fun x => decide (decode x.1 x.2.1 = .instr x.2.2)) = true := by decide +kernel

theorem test_decodes_vector_wide_1 : ([
    (.W, 0x0727728F, .vcvt ⟨⟨true, 9⟩, 3, 11, 9, 4, 3, true, true⟩),
    (.W, 0x0A87E808, .vperm ⟨⟨true, 4⟩, 3, 15, 4, 0, 2⟩),
    (.W, 0x0F4A6522, .vlsh ⟨⟨true, 10⟩, 5, 3, 2, .latchA 4, 2⟩),
    (.W, 0x1154CCC0, .vrdx ⟨⟨false, 10⟩, .queue 20, 9, 9, 4, 0⟩),
    (.W, 0x1506C0D0, .vdot ⟨⟨false, 8⟩, 0, 13, 8, 1, 5⟩),
    (.W, 0x18EFEE00, .vxdrn ⟨⟨false, 7⟩, .queue 15, 3, 3, true⟩),
    (.W, 0x1DA04000, .vxclr ⟨⟨false, 13⟩, 2⟩),
    (.W, 0x2331E1AC, .vexp2 ⟨⟨true, 9⟩, 8, 15, 13, 3⟩),
    (.W, 0x24E24060, .vlog2 ⟨⟨false, 7⟩, 1, 2, 3, 0⟩),
    (.W, 0x28C9410C, .vrcp ⟨⟨false, 6⟩, 4, 10, 8, 3⟩),
    (.W, 0x2D4081DC, .vrsq ⟨⟨false, 10⟩, 0, 4, 14, 7⟩),
    (.W, 0x30E040E0, .vtanh ⟨⟨false, 7⟩, 0, 2, 7, 0⟩)
  ] : List (Slot × W32 × Instr)).all (fun x => decide (decode x.1 x.2.1 = .instr x.2.2)) = true := by decide +kernel

theorem test_decodes_vector_wide_2 : ([
    (.W, 0x343CE0C4, .vsigm ⟨⟨false, 1⟩, 14, 7, 6, 1⟩),
    (.W, 0x3A864000, .vmsk ⟨⟨true, 4⟩, 1, 4, 4, 0⟩),
    (.W, 0x3EEC8000, .vmskqToMask ⟨⟨true, 7⟩, 3, .queue 16 false⟩),
    (.W, 0x3C6A0030, .vmskqFromMask ⟨⟨false, 3⟩, 2, .queue 1⟩),
    (.W, 0x418FD010, .vhdrRead ⟨⟨false, 12⟩, 7, 14, 16⟩),
    (.W, 0x415065E0, .vhdrWrite ⟨⟨false, 10⟩, 8, 3, .queue 23 true⟩)
  ] : List (Slot × W32 × Instr)).all (fun x => decide (decode x.1 x.2.1 = .instr x.2.2)) = true := by decide +kernel

theorem test_decodes_matrix : ([
    (.M, 0x07578CA0, .mbld ⟨⟨true, 10⟩, 11, 12, 3, 10⟩),
    (.M, 0x08996000, .mpush ⟨⟨false, 4⟩, 12, 11⟩),
    (.M, 0x0D608000, .mshift ⟨⟨false, 11⟩, true⟩),
    (.M, 0x11F20000, .macc ⟨⟨false, 15⟩, 4, 2, false⟩),
    (.M, 0x16C00000, .mswap ⟨⟨true, 6⟩⟩),
    (.M, 0x1A98D33C, .mdrain ⟨⟨true, 4⟩, 12, 6, 2, 6, 3, true, true, false⟩),
    (.M, 0x1F7E8A04, .mdrns ⟨⟨true, 11⟩, 15, 4, 1, 4, .queue 2 false⟩),
    (.M, 0x20E30000, .mclr ⟨⟨false, 7⟩, 3⟩),
    (.M, 0x27907800, .mspill ⟨⟨true, 12⟩, 8, 3, 12, 0⟩),
    (.M, 0x2AEE8A00, .mfill ⟨⟨true, 7⟩, 7, 4, 5, 0⟩),
    (.M, 0x2D91B380, .mstat ⟨⟨false, 12⟩, .queue 17, 6, 28⟩)
  ] : List (Slot × W32 × Instr)).all (fun x => decide (decode x.1 x.2.1 = .instr x.2.2)) = true := by decide +kernel

theorem test_decodes_memory_1 : ([
    (.L, 0x06906A50, .tld ⟨⟨true, 4⟩, 8, 3, 1, false, 9, 2⟩),
    (.L, 0x08A97468, .tst ⟨⟨false, 5⟩, 4, 11, 2, true, 1, 5⟩),
    (.L, 0x0DA467D0, .tlda ⟨⟨false, 13⟩, 2, 12, 15, .latchB 0⟩),
    (.L, 0x10A0E848, .tsta ⟨⟨false, 5⟩, 0, 29, 0, .latchA 4⟩),
    (.L, 0x1672BA00, .ld ⟨⟨true, 3⟩, .queue 18, 3, .latchB 0⟩),
    (.L, 0x18710680, .st ⟨⟨false, 3⟩, .latchA 2, .queue 6 true, 0⟩),
    (.L, 0x1EBD8980, .ldh ⟨⟨true, 5⟩, .queue 29, .latchA 6⟩),
    (.L, 0x21275000, .sth ⟨⟨false, 9⟩, .queue 14 true, .queue 16 false⟩),
    (.L, 0x27400000, .fence ⟨⟨true, 10⟩, 0⟩),
    (.L, 0x2AB2B780, .synca ⟨⟨true, 5⟩, .latchA 5, .port 7 true⟩),
    (.L, 0x2C326000, .vref ⟨⟨false, 1⟩, 2, 19⟩),
    (.L, 0x33F12B00, .voadd ⟨⟨true, 15⟩, .latchA 2, .latchB 3⟩)
  ] : List (Slot × W32 × Instr)).all (fun x => decide (decode x.1 x.2.1 = .instr x.2.2)) = true := by decide +kernel

theorem test_decodes_memory_2 : ([
    (.L, 0x32D30F40, .voaddS64 ⟨⟨true, 6⟩, .latchA 6, .queue 15 false⟩),
    (.L, 0x35CD81A8, .vocas ⟨⟨false, 14⟩, 13, .latchA 0, .port 5 false⟩),
    (.L, 0x3BF98754, .vosax ⟨⟨true, 15⟩, .port 3 false, .queue 7 false, .latchB 2⟩),
    (.L, 0x3ED9B780, .publ ⟨⟨true, 6⟩, .port 3 false, .port 7 true⟩),
    (.L, 0x4267C44A, .hand ⟨⟨true, 3⟩, .queue 15 true, .queue 4 false, .latchA 5⟩),
    (.L, 0x45DD8280, .tagr ⟨⟨false, 14⟩, .queue 29, .queue 10 false⟩)
  ] : List (Slot × W32 × Instr)).all (fun x => decide (decode x.1 x.2.1 = .instr x.2.2)) = true := by decide +kernel

theorem test_decodes_transfer : ([
    (.X, 0x0728D800, .lncnt ⟨⟨true, 9⟩, 2, .queue 13 true⟩),
    (.X, 0x08F71BCA, .lnstr ⟨⟨false, 7⟩, 5, 6, .queue 13 true, .port 2 true⟩),
    (.X, 0x0FF22800, .bcopy ⟨⟨true, 15⟩, 1, false, .queue 17 false, true⟩),
    (.X, 0x12338000, .sbind ⟨⟨true, 1⟩, 4, true, 3, false⟩),
    (.X, 0x15A40000, .sunb ⟨⟨false, 13⟩, 1⟩),
    (.X, 0x1B146E94, .saego ⟨⟨true, 8⟩, 5, 0, .port 7 false, .latchA 5⟩),
    (.X, 0x1F538000, .saef ⟨⟨true, 10⟩, .latchA 7⟩),
    (.X, 0x2110F800, .send ⟨⟨false, 8⟩, 4, .queue 15 true⟩),
    (.X, 0x24E4F000, .recv ⟨⟨false, 7⟩, 1, .queue 15 false⟩),
    (.X, 0x2AE2A600, .synci ⟨⟨true, 7⟩, .queue 5 false, .latchA 6⟩),
    (.X, 0x2D720000, .fslot ⟨⟨false, 11⟩, 36⟩)
  ] : List (Slot × W32 × Instr)).all (fun x => decide (decode x.1 x.2.1 = .instr x.2.2)) = true := by decide +kernel

/-! ### One step of the scalar words -/

/-- The machine after an instruction that has a next state. -/
def after (i : Instr) (s : State) : State :=
  match exec i s with
  | .next t => t
  | _ => s

/-- The core with two values in q1 and q2. -/
def two (a b : W64) : State :=
  { base with prim := { base.prim with sc := { base.prim.sc with queues := [(1, [a]), (2, [b])] } } }

/-- Value and latency of the result that a word of queues q1 and q2 puts in flight. -/
def lands (i : Instr) (a b : W64) : Option (W64 × Nat) :=
  (after i (two a b)).prim.flights.head?.map (fun f => (f.val, f.due - 800))

/-- Operands of an IA word of q1 and q2. -/
def ia (m : Bool) : IA := ⟨g0, .I, .queue 9, q 1, q 2, m⟩

/-- R109, R110: sums that wrap, 32-bit results with their sign, signed and unsigned high halves, quotients towards zero. -/
theorem test_integer_results : ([
    (.add (ia false), 0xFFFFFFFFFFFFFFFF, 2, 1, 1), (.add (ia true), 0x7FFFFFFF, 1, 0xFFFFFFFF80000000, 1),
    (.sub (ia false), 3, 5, 0xFFFFFFFFFFFFFFFE, 1), (.mul (ia false), 0x100000001, 0x100000001, 0x200000001, 3),
    (.mulh (ia false), 0xFFFFFFFFFFFFFFFF, 2, 0xFFFFFFFFFFFFFFFF, 3), (.mulhn (ia false), 0xFFFFFFFFFFFFFFFF, 2, 1, 3),
    (.divs (ia false), 0xFFFFFFFFFFFFFFF9, 2, 0xFFFFFFFFFFFFFFFD, 18), (.divs (ia false), 9, 0, 0xFFFFFFFFFFFFFFFF, 18),
    (.divs (ia false), 0x8000000000000000, 0xFFFFFFFFFFFFFFFF, 0x8000000000000000, 18),
    (.divn (ia true), 0xFFFFFFFF, 2, 0x7FFFFFFF, 18), (.rems (ia false), 0xFFFFFFFFFFFFFFF9, 2, 0xFFFFFFFFFFFFFFFF, 18),
    (.rems (ia true), 0xFFFFFFF9, 0, 0xFFFFFFFFFFFFFFF9, 18), (.remn (ia false), 9, 0, 9, 18), (.remn (ia false), 9, 4, 1, 18),
    (.and (ia false), 0xC, 0xA, 8, 1), (.or (ia false), 0xC, 0xA, 0xE, 1), (.xor (ia false), 0xC, 0xA, 6, 1), (.andn (ia false), 0xC, 0xA, 4, 1),
    (.shl (ia false), 1, 65, 2, 1), (.shl (ia true), 1, 31, 0xFFFFFFFF80000000, 1), (.shrl (ia false), 0x8000000000000000, 63, 1, 1),
    (.shra (ia false), 0x8000000000000000, 63, 0xFFFFFFFFFFFFFFFF, 1), (.shra (ia true), 0x80000000, 33, 0xFFFFFFFFC0000000, 1),
    (.mins (ia false), 0xFFFFFFFFFFFFFFFF, 1, 0xFFFFFFFFFFFFFFFF, 1), (.maxs (ia false), 0xFFFFFFFFFFFFFFFF, 1, 1, 1),
    (.minn (ia false), 0xFFFFFFFFFFFFFFFF, 1, 1, 1), (.maxn (ia false), 0xFFFFFFFFFFFFFFFF, 1, 0xFFFFFFFFFFFFFFFF, 1)
  ] : List (Instr × W64 × W64 × W64 × Nat)).all
    (fun x => decide (lands x.1 x.2.1 x.2.2.1 = some (x.2.2.2.1, x.2.2.2.2))) = true := by decide +kernel

/-- R109, R111 to R114: counts, moves, fields, constants; the pieces of R114's constant. -/
theorem test_integer_others : ([
    (.clz ⟨g0, .I, .none, q 1, false⟩, 0, 0, 64, 1), (.clz ⟨g0, .I, .none, q 1, true⟩, 1, 0, 31, 1), (.popc ⟨g0, .I, .none, q 1, false⟩, 0xF00F, 0, 8, 1),
    (.mov ⟨g0, .J, .none, q 1, true⟩, 0x80000000, 0, 0xFFFFFFFF80000000, 1), (.bfx (ia false), 0x7F8, 0x803, 0xFF, 1),
    (.bfx (ia false), 0xFFFFFFFFFFFFFFFF, 0x4000, 0xFFFFFFFFFFFFFFFF, 1), (.bfi (ia false), 0xAB, 0x804, 0xFAB0, 1),
    (.lea (ia false), 1, 2, 17, 1), (.lea (ia true), 1, 2, 129, 1), (.addi ⟨g0, .I, 9, q 1, -256⟩, 255, 0, 0xFFFFFFFFFFFFFFFF, 1),
    (.ldiH0 ⟨g0, .I, 4, 0xCDEF⟩, 0, 0, 0xFFFFFFFFFFFFCDEF, 1), (.ldiH1 ⟨g0, .I, 3, 0x89AC⟩, 0, 0, 0x89AC0000, 1),
    (.ldiH2 ⟨g0, .I, 2, 0x4567⟩, 0, 0, 0x0000456700000000, 1), (.ldiH3 ⟨g0, .I, 1, 0x0123⟩, 0, 0, 0x0123000000000000, 1)
  ] : List (Instr × W64 × W64 × W64 × Nat)).all
    (fun x => decide (lands x.1 x.2.1 x.2.2.1 = some (x.2.2.2.1, x.2.2.2.2))) = true := by decide +kernel

/-- A source that is also the destination: the queue pops and the push is in flight behind it (R21, R25). -/
theorem test_source_is_destination :
    let t := after (.add ⟨g0, .I, .queue 1, q 1, q 1, false⟩) (two 6 7)
    t.prim.queue 1 = [] ∧ t.prim.flights.map (fun f => (f.val, f.q)) = [(12, some 1)] := by decide +kernel

/-- The predicates after a compare or PLOG of q1 and q2, from p0 = p1 = p2 = 1. -/
def predsAfter (i : Instr) (a b : W64) : BitVec 16 := (after i (two a b)).prim.sc.preds

/-- R115 to R117, R125: signed and unsigned orders, TST, the truth tables, NaN; a write to p0 is discarded (R27). -/
theorem test_predicates :
    ([(0, 5, 5, true), (1, 5, 5, false), (2, 0xFFFFFFFFFFFFFFFF, 1, true), (3, 1, 1, true), (4, 0xFFFFFFFFFFFFFFFF, 1, false),
      (5, 1, 1, true), (6, 12, 3, false), (7, 12, 3, true)] : List (BitVec 3 × W64 × W64 × Bool)).all
      (fun x => decide (predsAfter (.cmp ⟨g0, .I, 3, x.1, q 1, q 2⟩) x.2.1 x.2.2.1 = if x.2.2.2 then 0b1111 else 0b111)) = true ∧
    predsAfter (.cmp ⟨g0, .I, 0, 1, q 1, q 2⟩) 5 5 = 0b111 ∧
    predsAfter (.plog ⟨g0, .I, 15, 1, 3, 4⟩) 0 0 = 0x8007 ∧ predsAfter (.plog ⟨g0, .I, 1, 1, 2, 3⟩) 0 0 = 0b101 ∧
    predsAfter (.fcmp ⟨g0, 3, 2, q 1, q 2⟩) 0x3F800000 0x40000000 = 0b1111 ∧
    predsAfter (.fcmp ⟨g0, 3, 6, q 1, q 2⟩) 0x7FC00000 0 = 0b1111 ∧ predsAfter (.fcmp ⟨g0, 3, 0, q 1, q 2⟩) 0x80000000 0 = 0b1111 := by
  decide +kernel

/-- Operands of a floating-point word of q1 and q2. -/
def fa : FA := ⟨g0, .queue 9, q 1, q 2⟩

/-- R122 to R127: FP32 values written out by hand; l2a holds 2.0. -/
theorem test_scalar_float : ([
    (.fadd fa, 0x3F800000, 0x33800000, 0x3F800000, 4), (.fsub fa, 0x3F800000, 0x3F800000, 0, 4), (.fmul fa, 0x40400000, 0xC0000000, 0xC0C00000, 4),
    (.fmac fa, 0x40400000, 0x40000000, 0x41000000, 4), (.fdiv fa, 0x3F800000, 0x40400000, 0x3EAAAAAB, 14), (.fdiv fa, 0x3F800000, 0, 0x7F800000, 14),
    (.fsqrt ⟨g0, .none, q 1⟩, 0x40800000, 0, 0x40000000, 14), (.fmin fa, 0x3F800000, 0xBF800000, 0xBF800000, 4), (.fmax fa, 0x3F800000, 0xBF800000, 0x3F800000, 4),
    (.fcvt ⟨g0, .none, q 1, 0, 0⟩, 0x1000001, 0, 0x4B800000, 3), (.fcvt ⟨g0, .none, q 1, 1, 1⟩, 0xC0200000, 0, 0xFFFFFFFFFFFFFFFE, 3),
    (.fcvt ⟨g0, .none, q 1, 3, 4⟩, 0x40200000, 0, 3, 3), (.fcvt ⟨g0, .none, q 1, 4, 0⟩, 0x3F808000, 0, 0x3F80, 3),
    (.fcvt ⟨g0, .none, q 1, 5, 0⟩, 0x3F80, 0, 0x3F800000, 3), (.fcvt ⟨g0, .none, q 1, 6, 0⟩, 0x3F800000, 0, 0x3C00, 3), (.fcvt ⟨g0, .none, q 1, 7, 0⟩, 0x0001, 0, 0x33800000, 3)
  ] : List (Instr × W64 × W64 × W64 × Nat)).all
    (fun x => decide (lands x.1 x.2.1 x.2.2.1 = some (x.2.2.2.1, x.2.2.2.2))) = true := by decide +kernel

/-- R103, R118 to R121, R198: registers and levels written and read. -/
theorem test_registers :
    (after (.csrw ⟨g0, 0, q 1⟩) (two 2 0)).prim.sc.profile = 2 ∧ (after (.csrw ⟨g0, 4, q 1⟩) (two 9 0)).prim.sc.step = 9 ∧
    (after (.shpw ⟨g0, 7, 2, q 1⟩) (two 9 0)).prim.sc.shapes = [(7 * 64 + 32 + 2, 9)] ∧
    (after (.lncnt ⟨g0, 5, q 1⟩) (two 9 0)).prim.sc.level 5 = ⟨9, 0, 0, 0⟩ ∧
    (after (.lnstr ⟨g0, 5, 7, q 1, q 2⟩) (two (-1) 64)).prim.sc.level 5 = ⟨1, 7, -1, 64⟩ ∧
    lands (.qcnt ⟨g0, .I, .none, 1⟩) 9 9 = some (1, 1) ∧ lands (.csrr ⟨g0, 0x110, .none⟩) 0 0 = some (800, 2) ∧
    lands (.csrr ⟨g0, 0x112, .none⟩) 0 0 = some (0x7FFFFF, 2) ∧ lands (.csrr ⟨g0, 0x103, .none⟩) 0 0 = some (5, 2) ∧
    lands (.shpr ⟨g0, .none, 7, 2, true⟩) 0 0 = some (0, 1) ∧
    (after (.qdrop ⟨g0, .I, 1, 1⟩) (two 9 0)).prim.queue 1 = [] := by decide +kernel

/-! ### One step of the control words -/

/-- The core with a packet at its bundle: a bundle of one slot word at word 1, empty bundles at words 3 to 15. -/
def coded : State := base.store textByte [0xFA, 0xFF]

/-- R82: the bundle after a branch is its delay bundle; CALL pushes the address after that one. -/
theorem test_branches :
    (after (.br ⟨g0, 4⟩) coded).prim.sc.delay = some 0x400005 ∧ (after (.br ⟨g0, 4⟩) coded).prim.sc.pc = 0x400003 ∧
    (after (.call ⟨g0, 2⟩) coded).prim.sc.link = [0x400004] ∧
    (after (.bri ⟨g0, q 1⟩) { coded with prim := (two 0x40000F 0).prim }).prim.sc.delay = some 0x40000F ∧
    (after (.calli ⟨g0, q 1⟩) { coded with prim := (two 0x40000F 0).prim }).prim.sc.link = [0x400004] ∧
    (let s := { coded with prim := { base.prim with sc := { base.prim.sc with link := [0x400006, 1] } } }
     (after (.ret ⟨g0⟩) s).prim.sc.delay = some 0x400006 ∧ (after (.ret ⟨g0⟩) s).prim.sc.link = [1]) := by decide +kernel

/-- R85: a loop of count 6 and 2 stages has 7 iterations over its body; p8 is set and p9 cleared; count 0 goes past the body. -/
theorem test_loop :
    (after (.loop ⟨g0, q 1, 2, 2⟩) coded).prim.sc.loops = [⟨0x400003, 0x400004, 7, 0, 6⟩] ∧
    (after (.loop ⟨g0, q 1, 2, 2⟩) coded).prim.sc.preds = 0b100000111 ∧
    (after (.loop ⟨g0, .zero, 2, 2⟩) coded).prim.sc.pc = 0x400005 ∧ (after (.loop ⟨g0, .zero, 2, 2⟩) coded).prim.sc.loops = [] := by
  decide +kernel

/-- R86: the last bundle of a body goes back to the first with the rotation base and p8 of the iteration to come. -/
theorem test_loop_boundary :
    let s := { coded with prim := { base.prim with sc := { base.prim.sc with loops := [⟨0x400001, 0x400001, 2, 0, 1⟩], preds := 0x101 } } }
    let t := after .emptyBundle s
    t.prim.sc.pc = 0x400001 ∧ t.prim.sc.rb = 1 ∧ t.prim.sc.preds.getLsbD (physP 1 8) = false ∧ t.prim.sc.loops.map (·.j) = [1] := by
  decide +kernel

/-- R87 to R91: SEG without C wants a checkpoint and ends the latches; SEG.s.c marks a safe point and a commit bundle; a lone
member's barrier advances the phase, its rendezvous does not. -/
theorem test_seg_and_barriers :
    (after (.seg ⟨g0, false, false, 12⟩) { base with prim := { base.prim with commit := false } }).prim.ckptDue = some 40 ∧
    (after (.seg ⟨g0, true, true, 12⟩) base).prim.segId = 12 ∧ (after (.seg ⟨g0, true, true, 12⟩) base).prim.la = [] ∧
    (after (.seg ⟨g0, true, true, 12⟩) base).prim.commit = true ∧ (after (.seg ⟨g0, true, true, 12⟩) base).prim.atSafe = false ∧
    (let t := after (.seg ⟨g0, true, true, 12⟩) base
     (after .emptyBundle { t with prim := { t.prim with ckptDue := none } }).prim.atSafe = true) ∧
    (after (.seg ⟨g0, true, false, 12⟩) base).prim.atSafe = true ∧ (after (.bar ⟨g0, 0⟩) base).phase 1 0 = 6 := by decide +kernel

/-- R93, R94: a wake of a sleeping domain is admitted at once when nothing else wakes; a sleep loses a bank's bytes. -/
theorem test_wake_and_sleep :
    (after (.wake ⟨g0, 0⟩) { base with doms := [] }).dom 0 = ⟨.waking, some .prim, 864, 800⟩ ∧
    (let t := after (.sleep ⟨g0, 7⟩) (base.setByte (pad + 5) 9)
     t.dom 7 = Dom.off ∧ t.byte (pad + 5) = 0) := by decide +kernel

/-- R95, R96, R100: WAITG of a generation that is reached issues; WAITR lands status, code and count; END goes to the next tile. -/
theorem test_waits_and_end :
    (let s := base.store (pad + 6) [3]
     (after (.waitg ⟨g0, q 16, .zero⟩) s).prim.progress = 1 ∧ (after (.waitg ⟨g0, q 16, q 1⟩) s).prim.wait = some .other) ∧
    (let s := base.store pad [9, 0, 0, 0, 0x81, 7, 0, 0, 5]
     (after (.waitr ⟨g0, .queue 9, q 16, q 1⟩) s).prim.flights.map (fun f => (f.val, f.due)) = [(0x50781, 802)]) ∧
    (let s := { base with prim := { base.prim with task := { base.prim.task with tixEnd := 2 } } }
     (after (.endTask ⟨g0⟩) s).prim.task.tix = 1 ∧ (after (.endTask ⟨g0⟩) s).prim.sc.pc = 0x400000 ∧
     (after (.endTask ⟨g0⟩) s).prim.sc.queues = []) ∧
    (after (.endTask ⟨g0⟩) base).prim.status = .finished := by decide +kernel

/-- R101, R340: TRAP stops the stream with its immediate in the record, and nothing of the bundle happens. -/
theorem test_trap :
    let t := after (.trap ⟨g0, 0x2A⟩) base
    t.prim.status = .trapped ∧ (t.prim.record.getD 0).extractLsb' 0 8 = 0x70 ∧ (t.prim.record.getD 0).extractLsb' 256 64 = 0x2A ∧
    (t.prim.record.getD 0).extractLsb' 64 64 = 0x400001 ∧ t.prim.sc = base.prim.sc := by decide +kernel

/-- R339: PRIVILEGE of a privileged index outranks the missing value of a source; QUEUE_UNDER of the lower slot word's first
source is what an empty queue raises; a non-idempotent word outside a commit bundle raises ILLEGAL_BUNDLE (R48). -/
theorem test_causes :
    (((after (.csrw ⟨g0, 0x220, q 31⟩) base).prim.record.getD 0).extractLsb' 0 8 = 0x08) ∧
    (((after (.add ⟨g0, .I, .none, q 31, .latchA 7, false⟩) base).prim.record.getD 0).extractLsb' 0 8 = 0x11) ∧
    (((after (.wake ⟨g0, 0⟩) { base with prim := { base.prim with commit := false } }).prim.record.getD 0).extractLsb' 0 8 = 0x04) := by
  decide +kernel

/-! ### One step of the vector and matrix words -/

/-- A row with a payload and a header, its CRC that of the payload (R31). -/
def rowOf (p : BitVec 512) (h : BitVec 16) : Row := ⟨p, h, h, rowCrc p⟩

/-- A row of 16 equal 32-bit elements. -/
def row32 (h : BitVec 16) (v : Nat) : Row := rowOf (BitVec.ofNat 512 (v * ((2 ^ 512 - 1) / (2 ^ 32 - 1)))) h

/-- Four rows of group 0 of tile `t`. -/
def four (t : Nat) (r : Row) : SMap Row := (List.range 4).map (fun k => (64 * t + k, r))

/-- The core with rows in group 0 of t2 and t3, and mask m1 of lane 0 alone. -/
def tiled (h : BitVec 16) (a b : Nat) : State :=
  { base with tiles := four 2 (row32 h a) ++ four 3 (row32 h b), masks := [(1, 1)] }

/-- Header, lane 0 and lane 1 of the first row that a word writes over an empty row, and its latency. -/
def wrote (i : Instr) (s : State) : Option (BitVec 16 × Nat × Nat × Nat) :=
  (after i s).rowOps.head?.map (fun o => let r := o.apply Row.start; (r.h1, elemAt 32 r.payload 0, elemAt 32 r.payload 1, o.due - 800))

/-- R130 to R138: FP32 lanes of 1.5 and 0.5. -/
theorem test_float_lanes : ([
    (.vadd ⟨g0, 4, 2, 3, 0, 0, 0⟩, 0x40000000, 0x40000000, 4), (.vsub ⟨g0, 4, 2, 3, 0, 0, 1⟩, 0x3F800000, 0x3F800000, 4), (.vmul ⟨g0, 4, 2, 3, 0, 0, 0⟩, 0x3F400000, 0x3F400000, 4),
    (.vdiv ⟨g0, 4, 2, 3, 0, 0, 0⟩, 0x40400000, 0x40400000, 14), (.vmin ⟨g0, 4, 2, 3, 0, 0⟩, 0x3F000000, 0x3F000000, 4), (.vmax ⟨g0, 4, 2, 3, 0, 1⟩, 0x3FC00000, 0, 4),
    (.vfma ⟨g0, 2, 2, 3, 0, 0, 0⟩, 0x40100000, 0x40100000, 4),
    (.vabs ⟨g0, 4, 2, 0, 0⟩, 0x3FC00000, 0x3FC00000, 4), (.vneg ⟨g0, 4, 2, 0, 0⟩, 0xBFC00000, 0xBFC00000, 4), (.vsqrt ⟨g0, 4, 3, 0, 0, 0⟩, 0x3F3504F3, 0x3F3504F3, 14),
    (.vadds ⟨g0, 4, 2, 0, q 4, 0⟩, 0x40600000, 0x40600000, 4), (.vmuls ⟨g0, 4, 2, 0, q 4, 1⟩, 0x40400000, 0, 4), (.vfmas ⟨g0, 3, 2, 0, q 4, 0⟩, 0x40600000, 0x40600000, 4),
    (.vbcst ⟨g0, 4, 0, q 4, 0⟩, 0x40000000, 0x40000000, 4), (.vsel ⟨g0, 4, 2, 3, 0, 1⟩, 0x3FC00000, 0x3F000000, 4), (.vmov ⟨g0, 4, 2, 0, 0⟩, 0x3FC00000, 0x3FC00000, 4)
  ] : List (Instr × Nat × Nat × Nat)).all
    (fun x => decide (wrote x.1 (tiled 0x7F70 0x3FC00000 0x3F000000) = some (0x7F70, x.2.1, x.2.2.1, x.2.2.2))) = true := by
  decide +kernel

/-- R137 to R145: S32 lanes of −6 and 3. -/
theorem test_integer_lanes : ([
    (.viadd ⟨g0, 4, 2, 3, 0, 0⟩, 0xFFFFFFFD, 4), (.visub ⟨g0, 4, 2, 3, 0, 0⟩, 0xFFFFFFF7, 4), (.vimul ⟨g0, 4, 2, 3, 0, 0⟩, 0xFFFFFFEE, 4),
    (.vand ⟨g0, 4, 2, 3, 0, 0⟩, 2, 4), (.vor ⟨g0, 4, 2, 3, 0, 0⟩, 0xFFFFFFFB, 4), (.vxor ⟨g0, 4, 2, 3, 0, 0⟩, 0xFFFFFFF9, 4), (.vshl ⟨g0, 4, 3, 3, 0, 0⟩, 24, 4),
    (.vshr ⟨g0, 4, 2, 3, 0, 0⟩, 0xFFFFFFFF, 4), (.vperm ⟨g0, 4, 2, 3, 0, 0⟩, 0xFFFFFFFA, 6), (.viota ⟨g0, 4, 0, q 1, 0⟩, 6, 4)
  ] : List (Instr × Nat × Nat)).all
    (fun x => decide ((wrote x.1 (tiled 0x7FB0 0xFFFFFFFA 3)).map (fun y => (y.1, y.2.1, y.2.2.2)) = some (0x7FB0, x.2.1, x.2.2))) = true ∧
  wrote (.vlsh ⟨g0, 4, 2, 0, q 1, 0⟩) { tiled 0x7FB0 9 3 with prim := (two 1 0).prim } = some (0x7FB0, 0, 9, 3) := by
  decide +kernel

/-- R139: exact points of the transcendental words. -/
theorem test_transcendentals :
    (wrote (.vexp2 ⟨g0, 4, 2, 0, 1⟩) (tiled 0x7F70 0x40400000 0)).map (·.2.1) = some 0x41000000 ∧
    (wrote (.vlog2 ⟨g0, 4, 2, 0, 1⟩) (tiled 0x7F70 0x41000000 0)).map (·.2.1) = some 0x40400000 ∧
    (wrote (.vrcp ⟨g0, 4, 2, 0, 1⟩) (tiled 0x7F70 0x40000000 0)).map (·.2.1) = some 0x3F000000 ∧
    (wrote (.vrsq ⟨g0, 4, 2, 0, 1⟩) (tiled 0x7F70 0x40800000 0)).map (·.2.1) = some 0x3F000000 ∧
    (wrote (.vtanh ⟨g0, 4, 2, 0, 1⟩) (tiled 0x7F70 0 0)).map (·.2.1) = some 0 ∧
    (wrote (.vsigm ⟨g0, 4, 2, 0, 1⟩) (tiled 0x7F70 0 0)).map (·.2.1) = some 0x3F000000 := by
  decide +kernel

/-- R141: 1.5 narrows to BF16 0x3FC0 at its slice; BF16 widens back. -/
theorem test_convert :
    ((after (.vcvt ⟨g0, 4, 2, 0, 5, 1, false, false⟩) (tiled 0x7F70 0x3FC00000 0)).rowOps.map (fun o =>
      (o.row, (o.apply Row.start).h1, elemAt 16 (o.apply Row.start).payload 31))) = [(258, 0x7F50, 0x3FC0), (259, 0x7F50, 0x3FC0)] ∧
    wrote (.vcvt ⟨g0, 4, 2, 0, 7, 0, false, false⟩) (tiled 0x7F50 0x3FC03FC0 0) = some (0x7F70, 0x3FC00000, 0x3FC00000, 4) := by
  decide +kernel

/-- R115, R138, R152, R153: masks written. -/
theorem test_masks : ([
    (.vcmp ⟨g0, 7, 2, 3, 0, 4, 1⟩, 1, 4), (.vcmps ⟨g0, 7, 2, 0, 0, q 4⟩, 0, 4), (.vmsk ⟨g0, 2, 1, 0, 0x2⟩, 0xFFFFFFFFFFFFFFFE, 1), (.vmskqToMask ⟨g0, 3, q 1⟩, 6, 1)
  ] : List (Instr × W64 × Nat)).all (fun x => decide (((after x.1 (tiled 0x7F70 0x3FC00000 0x3F000000)).maskOps.map (fun o => (o.val, o.due - 800))) = [(x.2.1, x.2.2)])) = true := by
  decide +kernel

/-- R146 to R154: reductions over 64 lanes of 1.5, the exact dot product of one lane, a drain, headers. -/
theorem test_wide_scalars :
    let s := tiled 0x7F70 0x3FC00000 0x3F000000
    let val (i : Instr) : Option (W64 × Nat) := (after i s).prim.flights.head?.map (fun f => (f.val, f.due - 800))
    val (.vrdx ⟨g0, .none, 2, 0, 0, 0⟩) = some (0x42C00000, 10) ∧ val (.vrdx ⟨g0, .none, 2, 0, 1, 1⟩) = some (0x3FC00000, 10) ∧
    val (.vmskqFromMask ⟨g0, 1, .none⟩) = some (1, 1) ∧ val (.vhdrRead ⟨g0, 2, 0, 9⟩) = some (0x7F707F707F707F70, 1) ∧
    val (.vxdrn ⟨g0, .none, 0, 0, false⟩) = some (0, 12) ∧
    (after (.vdot ⟨g0, 2, 2, 3, 0, 1⟩) s).xvOps.map (fun o => (o.xv, o.val.val.toNat, o.val.tag, o.due)) = [(2, 3 * 2 ^ 318, 1, 808)] ∧
    (after (.vxclr ⟨g0, 3⟩) { s with xvs := [(3, ⟨5, true, false, false, 1⟩)] }).xv 3 = Acc.clear ∧
    (after (.vhdrWrite ⟨g0, 4, 0, q 18⟩) s).rowOps.map (fun o => (o.row, (o.apply Row.start).h1)) = [(256, 0x7F70), (257, 0), (258, 0), (259, 0)] := by
  decide +kernel

/-- A row of 64 equal 8-bit elements with an S8 header. -/
def rowS8 (v : Nat) : Row := rowOf (BitVec.ofNat 512 (v * ((2 ^ 512 - 1) / 255))) 0x7F80

/-- The core with a full active half of S8 elements 3 and one panel row of 2 at k = 0. -/
def matrix : State :=
  { base with active := { Half.empty with st := .full, rows := List.replicate 16 ((rowS8 3).payload, 0x7F80), fmt := 8 }
              prows := [(0, ⟨(rowS8 2).payload.setWidth 1024, 0x7F80⟩)], pfmts := [(0, 8)] }

/-- R160, R161: planes 0 and 1 of 3 are 1 and 2, so they give the products 2 and 4 with the one panel row; plane 2 gives 0; the
beat issues. -/
theorem test_macc :
    ([0, 1, 2].map (fun j => (beatTerms matrix.active (matrix.panelRows 0) j 3 63).map (fun x => (x.1, sumUnits [x.2])))) =
      [[(0, 2 * 2 ^ 1200)], [(0, 4 * 2 ^ 1200)], [(0, 0)]] ∧
    matrix.ready (.macc ⟨g0, 0, 1, false⟩) = true := by decide +kernel

/-- R157 to R165, R170, R171, R226: the other matrix words on a small state. -/
theorem test_matrix_words :
    (after (.mshift ⟨g0, false⟩) matrix).active.counter = 1 ∧ (after (.mswap ⟨g0⟩) base).work1 = true ∧
    (after (.mclr ⟨g0, 0⟩) { base with bank0 := [(255, ⟨1, true, false, false, 1⟩), (256, ⟨1, false, false, false, 1⟩)] }).bank0.map (·.1) = [256] ∧
    ((after (.mstat ⟨g0, .none, 0, 1⟩) { base with bank1 := [(1, ⟨0, true, false, true, 2⟩)] }).prim.flights.map (·.val) = [0x25]) ∧
    (let s := { base with tiles := (List.range 16).map (fun k => (k, rowS8 2)) }
     (after (.mpush ⟨g0, 0, 0⟩) s).shadow.st = .filling ∧ (after (.mpush ⟨g0, 0, 0⟩) s).shadow.readyAt = 803 ∧
     (after (.mbld ⟨g0, 0, 0, 7, 63⟩) s).prows.map (·.1) = [512 * 7 + 252, 512 * 7 + 253, 512 * 7 + 254, 512 * 7 + 255] ∧
     (after (.mbld ⟨g0, 0, 0, 7, 63⟩) s).panelFmt 7 = 8) := by decide +kernel

/-- R167, R170: a drain to S32 of an accumulator of 5 at row 0, column 1; a spill's record holds the value at 2^320. -/
theorem test_matrix_results :
    let s := { base with bank1 := [(1, ⟨5 * 2 ^ 320, false, false, false, 1⟩)] }
    (after (.mdrain ⟨g0, 0, 0, 0, 11, 0, false, false, false⟩) s).rowOps.length = 16 ∧
    ((after (.mdrain ⟨g0, 0, 0, 0, 11, 0, false, false, false⟩) s).rowOps.head?.map (fun o => (elemAt 32 o.bits 1, o.hdr))) = some (5, .fixed 0x7FB0) ∧
    (after (.mspill ⟨g0, 0, 0, 0, 0⟩) s).rowOps.length = 24 := by decide +kernel

/-! ### One step of the memory and transfer words -/

/-- The accesses of a machine, all free to perform now. -/
def due (s : State) : State := { s with accs := s.accs.map (fun a => { a with perform := 0, arrive := 0 }) }

/-- Issue a word, then perform the access it has issued. -/
def performed (i : Instr) (s : State) : State := after (.accessPerforms (.own s.seq)) (due (after i s))

/-- The core with the 8 bytes 0xF0 0x81 0 0 0x80 0 0 0xFF at the scratchpad address in q16. -/
def stored : State := base.store pad [0xF0, 0x81, 0, 0, 0x80, 0, 0, 0xFF]

/-- What a load of the address in q16 brings. -/
def loaded (w : BitVec 3) : Option W64 := ((performed (.ld ⟨g0, .queue 9, w, q 16⟩) stored).accs.head?.bind (·.val))

/-- R186: the seven widths, with and without sign; the bytes are little-endian. -/
theorem test_ld :
    [loaded 0, loaded 1, loaded 2, loaded 3, loaded 4, loaded 5, loaded 6] =
      [some 0xFFFFFFFFFFFFFFF0, some 0xF0, some 0xFFFFFFFFFFFF81F0, some 0x81F0, some 0x81F0, some 0x81F0, some 0xFF000080000081F0] := by
  decide +kernel

/-- R187, R188, R189: a store of two bytes changes two; headers and lanes. -/
theorem test_stores :
    (let t := performed (.st ⟨g0, q 5, q 16, 2⟩) stored; t.load pad 4 = 0x803 ∧ t.load (pad + 2) 2 = 0) ∧
    (performed (.sth ⟨g0, q 18, q 16⟩) base).hdrOf pad = 0x7F70 ∧
    ((performed (.ldh ⟨g0, .queue 9, q 16⟩) (base.setHdr pad 0x7F50)).accs.head?.bind (·.val)) = some 0x7F50 ∧
    ((performed (.tagr ⟨g0, .none, q 16⟩) (base.setLane pad 0x70123)).accs.head?.bind (·.val)) = some 0x70123 := by decide +kernel

/-- R97, R192, R193: SIGNAL advances the sequence and writes status 0x80 + st; SYNCI sets a target and clears the count; SYNCA
counts and, at the target, clears the count and advances the generation. -/
theorem test_sync_words :
    (let t := performed (.signal ⟨g0, q 16, q 1⟩) base; t.load pad 4 = 1 ∧ t.load (pad + 4) 1 = 0x86) ∧
    (performed (.synci ⟨g0, q 16, q 1⟩) stored).word pad = 0xFF00000000000006 ∧
    (performed (.synca ⟨g0, q 16, q 1⟩) (base.store pad [7])).word pad = 0x6000007 ∧
    (performed (.synca ⟨g0, q 16, q 1⟩) (base.store pad [6])).word pad = 0x1000000000006 := by decide +kernel

/-- R191: TLDA brings rows with their headers, TSTA stores them. -/
theorem test_rows_moved :
    (let t := performed (.tlda ⟨g0, 2, 63, 0, q 16⟩) (stored.setHdr pad 0x7F70)
     t.rowOps.map (fun o => (o.row, o.bits, o.hdr)) = [(191, 0xFF000080000081F0, .fixed 0x7F70)]) ∧
    (let t := performed (.tsta ⟨g0, 2, 0, 1, q 16⟩) { base with tiles := [(128, row32 0x7F70 1), (129, row32 0x7FB0 2)] }
     t.load (pad + 64) 4 = 2 ∧ t.hdrOf (pad + 64) = 0x7FB0 ∧ t.hdrOf pad = 0x7F70) := by decide +kernel

/-- R197, R247: PUBL and HAND move the tag of a block to SHARED and to WRITE of member 6, in this gang's phase. -/
theorem test_tag_words :
    let s := { base with prim := { base.prim with task := { base.prim.task with members := 8 } } }
    (after (.publ ⟨g0, q 16, q 17⟩) s).tagOf pad = mkTag 5 0 0 5 ∧
    (after (.hand ⟨g0, q 16, q 17, q 1⟩) s).tagOf pad = mkTag 5 0 6 3 := by decide +kernel

/-- R247: the table of transitions, row by row: a mode code is the new mode of member 2's tag, 10 more the new mode with the
owner it had, 20 WRITE of member 7, 30 a tag that stands, 99 a race. -/
theorem test_tag_table :
    let cols : List (TagKind × BitVec 10) := [(.read, 2), (.read, 3), (.write, 2), (.write, 3), (.atomic, 2), (.atomic, 3), (.publ, 2), (.publ, 3), (.hand 7, 2), (.hand 7, 3)]
    let code (m : BitVec 10) (t : BitVec 33) : TagFate → Nat
      | .ok u => if u = t then 30 else if u = mkTag 5 1 7 3 then 20 else if u = mkTag 5 1 m (u.extractLsb' 0 3) then (u.extractLsb' 0 3).toNat
                 else if u = mkTag 5 1 2 (u.extractLsb' 0 3) then 10 + (u.extractLsb' 0 3).toNat else 77
      | .race => 99
      | _ => 88
    [1, 2, 3, 4, 5].map (fun mode => cols.map (fun c => code c.2 (mkTag 5 1 2 mode) (tagCheck 5 5 1 c.2 c.1 (mkTag 5 1 2 mode)))) =
      [[30, 12, 3, 99, 4, 99, 5, 99, 20, 99], [30, 30, 99, 99, 99, 99, 5, 5, 99, 99], [30, 99, 30, 99, 4, 99, 5, 99, 20, 99],
       [99, 99, 99, 99, 30, 30, 99, 99, 99, 99], [30, 30, 99, 99, 99, 99, 30, 30, 99, 99]] ∧
    cols.map (fun c => code c.2 0 (tagCheck 5 5 1 c.2 c.1 0)) = [1, 1, 3, 3, 4, 4, 5, 5, 20, 20] := by
  decide +kernel

/-- A page with the rights to read and write, at its own address in the vaults. -/
def vault : Nat := 0x2000000

/-- The fields of shape register `r`: a tensor of 4 rows of 16 FP32 elements at an address, one tile of it. -/
def shape (r : Nat) (base : Nat) : SMap W64 :=
  [(64 * r, BitVec.ofNat 64 base), (64 * r + 1, 0x72), (64 * r + 2, 16), (64 * r + 3, 4), (64 * r + 11, 64), (64 * r + 26, 16),
   (64 * r + 27, 4)]

/-- The core with q16 at the vault, lsh0 and xsh0 at the scratchpad, xsh1 8 KiB further, traffic class 3, and FP32 headers in the
vault's first block. -/
def wide : State :=
  let s := { base with
    sessions := [{ textSession with phases := [(0, 5)], pages := [⟨vault, 0x2000007⟩], classes := [3] }]
    prim := { base.prim with sc := { base.prim.sc with
      shapes := shape 0 pad ++ shape 4 pad ++ shape 5 (pad + 0x2000)
      queues := [(1, [6]), (2, [7]), (3, [0x3F800000]), (6, [BitVec.ofNat 64 (pad + 0x1000)]), (16, [BitVec.ofNat 64 vault]), (17, [BitVec.ofNat 64 (vault + 64)])] } } }
  ((s.setHdr vault 0x7F70).setHdr (vault + 64) 0x7F70).store vault [0, 0, 0x80, 0x3F]

/-- Outside a commit bundle, and in one whose late checks have returned. -/
def loose (s : State) : State := { s with prim := { s.prim with commit := false } }
def checked (s : State) : State := { s with prim := { s.prim with wait := some .other, presented := true, lateAt := some 0 } }

/-- R196: y := y + v, the exchange, and y := y + s·x of 16 elements, in the vault. -/
theorem test_vault_words :
    (performed (.voadd ⟨g0, q 16, q 3⟩) (checked wide)).load vault 4 = 0x40000000 ∧
    (performed (.voaddS64 ⟨g0, q 16, q 1⟩) (checked (wide.setHdr vault 0x7FC0))).load vault 8 = 0x3F800006 ∧
    (let s := { wide with prim := { wide.prim with sc := { wide.prim.sc with queues := wide.prim.sc.queues.map (fun p => if p.1 = 3 then (3, [0x3F800000]) else p) } } }
     (performed (.vocas ⟨g0, 3, q 16, q 1⟩) (checked s)).load vault 8 = 6) ∧
    (performed (.vosax ⟨g0, q 17, q 16, q 3⟩) (checked wide)).load (vault + 64) 4 = 0x3F800000 := by decide +kernel

/-- R183, R185: a tile kept in its format goes out with its row headers. -/
theorem test_tst :
    (let t := performed (.tst ⟨g0, 2, 0, 0, false, 15, 0⟩) { wide with tiles := four 2 (row32 0x7F70 7) }
     (t.load (pad + 192) 4, t.hdrOf (pad + 192), t.load (pad + 256) 4)) = (7, 0x7F70, 0) := by decide +kernel

/-- R183, R184: it comes back with the blocks' headers. -/
theorem test_tld :
    (performed (.tld ⟨g0, 3, 0, 0, false, 15, 0⟩)
      ((wide.store (pad + 64) [9]).setHdr (pad + 64) 0x7FB0)).rowOps.map (fun o => (o.row, o.bits, o.hdr)) =
      [(192, 0, .fixed 0), (193, 9, .fixed 0x7FB0), (194, 0, .fixed 0), (195, 0, .fixed 0)] := by decide +kernel

/-- R199 to R201: a copy of one block of 4 rows of the scratchpad to its other half: what it reads and writes. -/
theorem test_copy :
    let t := after (.bcopy ⟨g0, 0, false, .zero, false⟩) wide
    t.copies.map (fun c => (c.total, c.done, c.sync, copyVerbatim c.src c.dst c.levels)) = [(1, [], none, true)] ∧
    t.copies.flatMap (fun c => copyPieces c true 0 |>.map (fun p => (p.src, p.dst))) =
      (List.range 4).map (fun r => (some (8 * (pad + 64 * r)), 8 * (pad + 0x2000 + 64 * r))) := by decide +kernel

/-- Port 2 of the primary bound to xsh0. -/
def ported (p : Port) : State := { wide with prim := { wide.prim with ports := [(2, some { p with shape := wide.prim.shape 4 false })] } }

/-- R203: an in-port fetches its walk in order; an out-port writes what it was fed, with its format's header. -/
theorem test_ports :
    ((after (.portPrefetch .prim 2) (((ported ⟨.input, [], 1, [], 0, 0, [], false, true, 0, 0⟩).setHdr pad 0x7F70).store (pad + 4) [7])).prim.port 2).map
      (fun p => (p.pos, p.entries.map (·.val))) = some (2, [7]) ∧
    (let t := after (.outPortWrite .prim 2) (ported ⟨.output, [], 17, [], 0, 0, [0x40000000], false, true, 0, 0⟩)
     (t.load (pad + 68) 4, t.hdrOf (pad + 64))) = (0x40000000, 0x7F70) := by decide +kernel

/-! ### Witnesses: concrete states and operands that meet the hypotheses of the statements -/

/-- Does an outcome have a next state? -/
def goes : Host.Outcome State Fault Refusal → Bool
  | .next _ => true
  | _ => false

theorem witness_EncodeThenDecode :
    let i : Instr := .add ⟨g0, .I, .queue 3, .queue 1 false, .queue 2 true, false⟩
    i.wf = true ∧ encode i = some 0x0403820A := by decide +kernel

theorem witness_DecodeThenEncode :
    decode .I 0x0403820A = .instr (.add ⟨g0, .I, .queue 3, .queue 1 false, .queue 2 true, false⟩) := by decide +kernel

/-- The machine after reset with LDI.h0 q1, #5 placed for the primary, and for the secondary. -/
def placed : Sid → State
  | .prim => State.reset.withProgram 1 0x74010005
  | .sec => { State.reset.withProgram 1 0x74010005 with sec := (State.reset.withProgram 1 0x74010005).prim, prim := Stream.idle, turn := .sec }

theorem witness_StepRunsDecoded : ∀ sid : Sid,
    let s := placed sid
    let pc := (s.str sid).sc.pc
    let h := s.codeWord sid pc.toNat
    s.dueInput.isNone = true ∧ s.dead = false ∧ s.dueEvent = none ∧ s.turn = (match sid with | .prim => .prim | .sec => .sec) ∧
    s.holdsPrimary = false ∧ (s.str sid).status = .running ∧ (s.str sid).wait = none ∧ s.early sid = [] ∧
    maskCount h = 1 ∧ bitAt h (24 + Slot.I.idx) = true ∧ decode .I (s.codeWord sid (pc.toNat + 1)) = .instr (.ldiH0 ⟨g0, .I, 1, 5⟩) := by
  intro sid; cases sid <;> decide +kernel

/-- A bundle of three words at a stream's first address: ADD in slot I, SUB in slot J and a NOP in slot V. -/
def three (sid : Sid) : State :=
  let s := placed sid
  s.store textByte (packetBytes [2, 0x0E000000, 0x0403820A, (encode (.sub ⟨g0, .J, .queue 3, q 1, q 2, true⟩)).getD 0, 0])

theorem witness_StepRunsDecoded_bundles : (∀ sid : Sid,
    let s := three sid
    let pc := (s.str sid).sc.pc
    s.dueInput.isNone = true ∧ s.dead = false ∧ s.dueEvent = none ∧ s.turn = (match sid with | .prim => .prim | .sec => .sec) ∧
    s.holdsPrimary = false ∧ (s.str sid).status = .running ∧ (s.str sid).wait = none ∧ s.early sid = [] ∧
    (slotWords ((List.range 16).map (fun n => s.codeWord sid (pc.toNat / 16 * 16 + n))) (pc.toNat % 16)).map (fun p => decode p.1 p.2) =
      [.instr (.add ⟨g0, .I, .queue 3, q 1, .queue 2 true, false⟩), .instr (.sub ⟨g0, .J, .queue 3, q 1, q 2, true⟩), .nop]) ∧
    base.passesAll ([.add ⟨g0, .I, .queue 3, q 1, .queue 2 true, false⟩, .sub ⟨g0, .J, .queue 3, q 1, q 2, true⟩].filterMap semOf) = true := by
  refine ⟨fun sid => ?_, by decide +kernel⟩
  cases sid <;> decide +kernel

theorem witness_StepTakesWhatIsDue :
    ({ State.reset with inbox := [(0, .railOutOfRange)] } : State).dueInput.map (·.1) = some .railOutOfRange ∧
    (({ State.reset with nextGrid := 0 } : State).dueInput.isNone = true ∧ ({ State.reset with nextGrid := 0 } : State).dead = false ∧
      ({ State.reset with nextGrid := 0 } : State).dueEvent = some .watchdogSample) ∧
    (let s : State := { State.reset with service := { Service.ready with inReset := true } }
     s.dueInput.isNone = true ∧ s.dead = true) := by decide +kernel

theorem witness_StepKeepsMemoryCanonical : State.reset.memWf = true ∧ goes (step State.reset) = true := by decide +kernel

theorem witness_StepKeepsPredicateZero : State.reset.pZero ∧ goes (step State.reset) = true := by
  refine ⟨⟨⟨by decide +kernel, fun c h => nomatch h⟩, ⟨by decide +kernel, fun c h => nomatch h⟩, fun c h => nomatch h⟩, by decide +kernel⟩

theorem witness_EmptyBundle :
    (semOf (.add ⟨⟨false, 5⟩, .I, .none, q 1, q 2, false⟩)).map (fun w => guardHolds w.guard base.me) = some false ∧ base.calm = true := by
  decide +kernel

/-- A result in flight for q31. -/
def inFlight : State := { base with prim := { base.prim with flights := [⟨1, 5, some 31, 900, 3⟩] } }

theorem witness_WordTrapsOrStalls :
    ((semOf (.csrw ⟨g0, 0x220, q 1⟩)).any (fun w => base.reaches w && (base.mainCauses [w] == [{ rank := 6, slot := 0, code := .privilege, aux := 0x220 }]))) = true ∧
    ((semOf (.add ⟨g0, .I, .none, q 31, q 1, false⟩)).any (fun w => guardHolds w.guard inFlight.me && inFlight.me.wait.isNone && (dueAt [w] inFlight.me).isEmpty &&
      (compositionCauses [w] inFlight.me inFlight.bundle.hdr).isEmpty && inFlight.bundleStalls [w])) = true := by decide +kernel

/-- Outside a commit bundle. -/
def plain : State := { base with prim := { base.prim with commit := false } }

theorem witness_CommitAndPrivilege :
    ((semOf (.wake ⟨g0, 22⟩)).any (fun w => nonIdempotent (.wake ⟨g0, 22⟩) && guardHolds w.guard plain.me && plain.me.wait.isNone && !plain.me.presented &&
      (dueAt [w] plain.me).isEmpty && !plain.me.commit)) = true ∧ base.calm = true ∧ guardHolds g0 base.me = true ∧
    base.srcStalls (q 1) = false ∧ 0x200 ≤ (0x200 : BitVec 12).toNat ∧ 0x200 ≤ (0xFFF : BitVec 12).toNat := by decide +kernel

theorem witness_TrapWord : base.calm = true ∧ guardHolds g0 base.me = true ∧ bits (0x4000002A : W32) 26 6 = 16 := by decide +kernel

/-- Words of the integer and floating-point slots on the core, boundaries of fields among them. -/
theorem witness_scalar_words : ([
    .add (ia true), .sub (ia false), .mul (ia true), .mulh (ia false), .mulhn (ia true), .divs (ia false), .divn (ia true), .rems (ia false), .remn (ia true), .and (ia false), .or (ia false),
    .xor (ia true), .andn (ia false), .shl (ia true), .shrl (ia true), .shra (ia false), .mins (ia false), .maxs (ia true), .minn (ia false), .maxn (ia true),
    .clz ⟨g0, .J, .none, q 1, true⟩, .popc ⟨g0, .I, .queue 31, q 1, false⟩, .mov ⟨g0, .J, .none, .latchA 1, false⟩, .addi ⟨g0, .I, 31, .ones, -256⟩,
    .ldiH0 ⟨g0, .I, 1, 0xFFFF⟩, .ldiH1 ⟨g0, .J, 31, 0⟩, .ldiH2 ⟨g0, .I, 1, 1⟩, .ldiH3 ⟨g0, .J, 1, 0x8000⟩,
    .bfx ⟨g0, .I, .none, q 1, q 5, true⟩, .bfi ⟨g0, .J, .none, q 1, q 5, false⟩, .lea (ia false), .lea (ia true), .cmp ⟨g0, .I, 0, 7, q 1, q 2⟩, .cmp ⟨g0, .J, 15, 0, q 1, q 2⟩,
    .plog ⟨g0, .I, 15, 8, 0, 15⟩, .fcmp ⟨g0, 15, 7, q 3, q 4⟩,
    .fadd fa, .fsub fa, .fmul fa, .fmac fa, .fdiv fa, .fsqrt ⟨g0, .none, q 3⟩, .fmin fa, .fmax fa, .fcvt ⟨g0, .none, q 3, 0, 4⟩, .fcvt ⟨g0, .none, q 1, 7, 0⟩,
    .shpw ⟨g0, 7, 28, q 1⟩, .lncnt ⟨g0, 5, q 1⟩, .lnstr ⟨g0, 0, 7, q 1, q 2⟩, .csrw ⟨g0, 1, .zero⟩, .csrw ⟨g0, 2, .zero⟩, .csrw ⟨g0, 3, .ones⟩, .csrw ⟨g0, 4, .ones⟩,
    .qcnt ⟨g0, .I, .none, 31⟩, .shpr ⟨g0, .none, 7, 31, true⟩, .csrr ⟨g0, 0, .none⟩, .csrr ⟨g0, 0x104, .none⟩, .csrr ⟨g0, 0x109, .none⟩, .csrr ⟨g0, 0x112, .none⟩, .mstat ⟨g0, .none, 15, 63⟩,
    .qdrop ⟨g0, .I, 1, 1⟩] : List Instr).all base.ready = true ∧
    (two 2 0).ready (.csrw ⟨g0, 0, q 1⟩) = true ∧ (two 9 0x4000).ready (.bfx (ia false)) = true ∧ (two 9 0x13F).ready (.bfx (ia false)) = true ∧
    (two 9 0x2000).ready (.bfi (ia true)) = true ∧ inFlight.ready (.qdrop ⟨g0, .I, 31, 1⟩) = true := by decide +kernel

theorem witness_BranchWords :
    let s := { coded with prim := (two 0x40000F 0).prim }
    ([.br ⟨g0, 2⟩, .call ⟨g0, 14⟩, .bri ⟨g0, q 1⟩, .calli ⟨g0, q 1⟩] : List Instr).all s.ready = true ∧
    s.me.sc.delay = none ∧ s.me.sc.loops = [] ∧ s.jump = none ∧
    ({ coded with prim := { base.prim with sc := { base.prim.sc with link := [0x400003] } } } : State).ready (.ret ⟨g0⟩) = true := by decide +kernel

theorem witness_LoopAndSeg :
    coded.ready (.loop ⟨g0, .zero, 1023, 15⟩) = true ∧ coded.ready (.loop ⟨g0, q 1, 1, 1⟩) = true ∧ (two 0xFFFFFFFF 0).ready (.loop ⟨g0, q 1, 1, 15⟩) = true ∧
    plain.ready (.seg ⟨g0, false, false, 0xFFFF⟩) = true ∧ base.ready (.seg ⟨g0, true, true, 0⟩) = true := by decide +kernel

/-- A gang of one member, and of eight at gang scope, with a declared rendezvous. -/
def gang (n : BitVec 10) : State :=
  { base with bundle := ⟨if n = 1 then 0x1000000 else 0x1400000, 0x400001, 0x400003⟩
              prim := { base.prim with task := { base.prim.task with rdv := 0xFFFF, barriers := true, members := n } } }

theorem witness_WaitsOverAtOnce :
    (gang 1).me.task.members.toNat ≤ 1 ∧ (gang 1).me.preempt = false ∧
    ([.rdv ⟨g0, 15, 0⟩, .bar ⟨g0, 15⟩, .waitg ⟨g0, q 16, .zero⟩, .waitr ⟨g0, .none, q 16, .zero⟩, .fence ⟨g0, 4⟩, .fence ⟨g0, 0⟩] : List Instr).all (gang 1).ready = true ∧
    ((gang 1).store pad [0, 0, 0, 0, 0, 0, 0xFF, 0x7F]).ready (.waitg ⟨g0, q 16, .zero⟩) = true := by decide +kernel

set_option maxRecDepth 100000 in
theorem witness_Kchk : (two (BitVec.ofNat 64 (crc32c 256 0)) 0).ready (.kchk ⟨g0, 15, 15, q 1⟩) = true := by decide +kernel

theorem witness_WakeAndSleep :
    base.ready (.wake ⟨g0, 0⟩) = true ∧ (base.dom 0).st ≠ .asleep ∧ ({ base with doms := [] } : State).ready (.wake ⟨g0, 22⟩) = true ∧
    base.ready (.sleep ⟨g0, 22⟩) = true ∧ base.ready (.sleep ⟨g0, 0⟩) = true ∧ base.ready (.sleep ⟨g0, 4⟩) = true ∧ base.ready (.sleep ⟨g0, 5⟩) = true ∧
    ({ base with doms := [] } : State).ready (.sleep ⟨g0, 6⟩) = true := by decide +kernel

/-- A machine with a store of the core that has not performed. -/
def behind (s : State) : State := { s with accs := [⟨3, .prim, 6, 0, .st pad [1], [.vertical], 9999, 9999, 9999, none, 3, false, none, false, 0, none⟩] }

/-- A word of a commit bundle with an address off the local path waits for its late checks, whenever they return. -/
theorem dallies_afar (s : State) (i : Instr) (w : WordSem) (h : semOf i = some w) (hb : w.begins = id)
    (hp : s.passes w = true) (hc : s.me.commit = true) (ha : s.present.checksAfar [w] = true)
    (hu : s.present.holdChecks.undue w = true) : s.dallies i = true := by
  have hw := s.passes_wait w hp
  have e : s.begun w = s.present.holdChecks := by simp only [State.begun, hb, State.holdBegins, ha, if_true]; rfl
  have h0 : s.present.holdChecks.me = { s.me with presented := true, lateAt := some (s.now + 1 + Config.performDelay s.free) } ∧
      s.present.holdChecks.now = s.now := by
    cases hs : s.cur <;>
      simp [State.holdChecks, State.present, State.me, State.modMe, State.modStr, State.setStr, State.str, State.drawn, State.now, hs]
  simp only [State.dallies, h, Option.any_some, hp, e, State.commitHeld, h0.1, h0.2, hc, Stream.arrived, hw]
  simp
  exact ⟨by left; left; omega, hu⟩

theorem witness_WaitsBegin_checks :
    wide.dallies (.voadd ⟨g0, q 16, q 3⟩) = true ∧ (semOf (.voadd ⟨g0, q 16, q 3⟩)).any (fun m => wide.checksAfar [m]) = true := by
  refine ⟨dallies_afar _ _ _ rfl rfl ?_ ?_ ?_ ?_, ?_⟩ <;> decide +kernel

theorem witness_WaitsBegin :
    ([.bar ⟨g0, 3⟩, .rdv ⟨g0, 3, 4⟩, .fslot ⟨g0, 63⟩, .fslot ⟨g0, 0⟩, .waitg ⟨g0, q 16, q 1⟩, .waitr ⟨g0, .none, q 16, q 1⟩] : List Instr).all (behind (gang 8)).dallies = true ∧
    ([.fence ⟨g0, 0⟩, .endTask ⟨g0⟩, .seg ⟨g0, false, false, 1⟩] : List Instr).all (behind plain).dallies = true ∧
    (let s := behind { plain with prim := { plain.prim with sae := { plain.prim.sae with opened := [(pad, 1)] } } }
     s.dallies (.endTask ⟨g0⟩) = true ∧ s.me.task.tixEnd ≤ s.me.task.tix + 1 ∧ s.me.sae.opened ≠ []) ∧
    ([.bar ⟨g0, 3⟩, .rdv ⟨g0, 3, 4⟩] : List Instr).all (gang 8).meets = true ∧
    (let s := { gang 1 with prim := { (gang 1).prim with preempt := true } }
     s.meets (.bar ⟨g0, 3⟩) = true ∧ s.meets (.rdv ⟨g0, 3, 4⟩) = true) ∧
    (let s := { gang 1 with sessions := [{ textSession with phases := [(0, 0xFFFF)] }] }
     s.meets (.bar ⟨g0, 3⟩) = true ∧ s.me.task.members.toNat ≤ 1 ∧ s.me.preempt = false) := by decide +kernel

/-- The stream at issue waits. -/
def held (s : State) (w : Wait) : State := { s with prim := { s.prim with wait := some w, presented := true } }

theorem witness_WaitsEnd :
    ([.bar ⟨g0, 3⟩, .rdv ⟨g0, 3, 4⟩] : List Instr).all (held (gang 8) .released).rouses = true ∧ (held (gang 8) .released).me.arrived = true ∧
    ([.bar ⟨g0, 3⟩, .rdv ⟨g0, 3, 4⟩] : List Instr).all (held (gang 1) .arriving).rouses = true ∧ (held (gang 1) .arriving).me.arrived = false ∧
    (held (gang 1) .solo).rouses (.rdv ⟨g0, 3, 4⟩) = true ∧
    ([.waitg ⟨g0, q 16, .zero⟩, .waitr ⟨g0, .none, q 16, .zero⟩, .fence ⟨g0, 4⟩, .fslot ⟨g0, 0⟩, .seg ⟨g0, false, false, 0⟩] : List Instr).all
      (held base .other).rouses = true := by decide +kernel

theorem witness_EndWord :
    base.ready (.endTask ⟨g0⟩) = true ∧ base.me.task.tixEnd ≤ base.me.task.tix + 1 ∧ (held base .other).rouses (.endTask ⟨g0⟩) = true ∧
    (let s := { base with prim := { base.prim with task := { base.prim.task with tixEnd := 2 } } }
     s.ready (.endTask ⟨g0⟩) = true ∧ s.me.task.tix + 1 < s.me.task.tixEnd) := by decide +kernel

theorem witness_VectorLanes :
    let f := tiled 0x7F70 0x3FC00000 0x3F000000
    let n := tiled 0x7FB0 0xFFFFFFFA 3
    ([.vadd ⟨g0, 4, 2, 3, 0, 0, 3⟩, .vsub ⟨g0, 2, 2, 3, 0, 1, 2⟩, .vmul ⟨g0, 4, 2, 3, 0, 0, 1⟩, .vdiv ⟨g0, 4, 2, 3, 0, 0, 0⟩, .vfma ⟨g0, 3, 2, 3, 0, 0, 0⟩, .vmin ⟨g0, 4, 2, 3, 0, 0⟩,
      .vmax ⟨g0, 4, 2, 3, 0, 1⟩, .vabs ⟨g0, 4, 2, 0, 0⟩, .vneg ⟨g0, 4, 2, 0, 0⟩, .vsqrt ⟨g0, 4, 3, 0, 0, 0⟩, .vadds ⟨g0, 4, 2, 0, q 4, 0⟩, .vmuls ⟨g0, 4, 2, 0, q 4, 1⟩, .vfmas ⟨g0, 3, 2, 0, q 4, 0⟩,
      .vexp2 ⟨g0, 4, 2, 0, 0⟩, .vlog2 ⟨g0, 4, 2, 0, 0⟩, .vrcp ⟨g0, 4, 2, 0, 0⟩, .vrsq ⟨g0, 4, 2, 0, 0⟩, .vtanh ⟨g0, 4, 2, 0, 0⟩, .vsigm ⟨g0, 4, 2, 0, 0⟩, .vsel ⟨g0, 4, 2, 3, 0, 1⟩, .vmov ⟨g0, 15, 2, 0, 0⟩,
      .vbcst ⟨g0, 4, 15, q 4, 0⟩, .vcvt ⟨g0, 4, 2, 0, 11, 0, false, true⟩] : List Instr).all (fun i => f.ready i && (laneOp f i).isSome) = true ∧
    ([.viadd ⟨g0, 4, 2, 3, 0, 0⟩, .visub ⟨g0, 4, 2, 3, 0, 0⟩, .vimul ⟨g0, 4, 2, 3, 0, 0⟩, .vand ⟨g0, 4, 2, 3, 0, 0⟩, .vor ⟨g0, 4, 2, 3, 0, 0⟩, .vxor ⟨g0, 4, 2, 3, 0, 0⟩, .vshl ⟨g0, 4, 3, 3, 0, 0⟩,
      .vshr ⟨g0, 4, 2, 3, 0, 0⟩, .vperm ⟨g0, 4, 2, 3, 0, 0⟩, .viota ⟨g0, 4, 15, q 1, 3⟩, .vlsh ⟨g0, 4, 2, 0, q 1, 0⟩] : List Instr).all (fun i => n.ready i && (laneOp n i).isSome) = true := by
  decide +kernel

theorem witness_vector_words :
    let s := tiled 0x7F70 0x3FC00000 0x3F000000
    let two : State := { s with bundle := ⟨0x10040000, 0x400001, 0x400003⟩ }
    ([.vcvt ⟨g0, 4, 2, 0, 2, 7, true, true⟩, .vcvt ⟨g0, 4, 2, 0, 8, 3, false, false⟩, .vcvt ⟨g0, 4, 2, 0, 10, 1, false, false⟩, .vhdrWrite ⟨g0, 4, 15, .zero⟩,
      .vcmp ⟨g0, 7, 2, 3, 0, 7, 1⟩, .vcmps ⟨g0, 1, 2, 0, 0, q 4⟩, .vmsk ⟨g0, 2, 1, 0, 15⟩, .vmskqToMask ⟨g0, 7, q 1⟩,
      .vrdx ⟨g0, .none, 2, 0, 0, 0⟩, .vrdx ⟨g0, .none, 2, 0, 2, 7⟩, .vxdrn ⟨g0, .queue 31, 3, 4, true⟩, .vxdrn ⟨g0, .none, 0, 0, false⟩, .vmskqFromMask ⟨g0, 0, .none⟩, .vhdrRead ⟨g0, 2, 0, 9⟩,
      .vdot ⟨g0, 3, 2, 3, 0, 0⟩, .vxclr ⟨g0, 3⟩] : List Instr).all s.ready = true ∧
    ([.vrdx ⟨g0, .none, 2, 0, 0, 0⟩, .vdot ⟨g0, 3, 2, 3, 0, 0⟩] : List Instr).all two.ready = true ∧ two.profile = 2 ∧
    vcvtNarrow 2 = true ∧ vcvtOk 2 7 true = true := by decide +kernel

/-- The matrix state with a full shadow half as well, and the active half used up. -/
def promoting : State := { matrix with shadow := matrix.active, active := { matrix.active with counter := 8 } }

/-- Sixteen rows of FP32, for a group of records. -/
def rows16 (r : Row) : SMap Row := (List.range 16).map (fun k => (k, r))

theorem witness_matrix_words :
    let p2 : State := { matrix with bundle := ⟨0x20040000, 0x400001, 0x400003⟩ }
    let s := { base with tiles := rows16 (rowS8 2) }
    s.ready (.mbld ⟨g0, 0, 0, 0, 0⟩) = true ∧ s.ready (.mbld ⟨g0, 0, 0, 7, 63⟩) = true ∧ s.ready (.mpush ⟨g0, 0, 0⟩) = true ∧
    matrix.ready (.mshift ⟨g0, false⟩) = true ∧ promoting.ready (.mshift ⟨g0, true⟩) = true ∧ matrix.ready (.macc ⟨g0, 0, 3, true⟩) = true ∧
    matrix.profile ≠ 2 ∧ promoting.ready (.macc ⟨g0, 0, 0, true⟩) = true ∧
    p2.profile = 2 ∧ p2.ready (.macc ⟨g0, 0, 0, false⟩) = true ∧ (p2.active.hasPlane = false → p2.pass = none) ∧
    base.ready (.mswap ⟨g0⟩) = true ∧ (held base .other).rouses (.mswap ⟨g0⟩) = true ∧ base.ready (.mclr ⟨g0, 3⟩) = true ∧
    base.ready (.mdrain ⟨g0, 0, 0, 3, 7, 5, true, true, false⟩) = true ∧ (Instr.mdrain ⟨g0, 0, 0, 3, 7, 5, true, true, false⟩).wf = true ∧
    base.ready (.mdrain ⟨g0, 0, 14, 0, 2, 0, false, false, true⟩) = true ∧
    base.ready (.mdrns ⟨g0, 0, 8, 0, 7, q 3⟩) = true ∧ (Instr.mdrns ⟨g0, 0, 8, 0, 7, q 3⟩).wf = true ∧ base.ready (.mspill ⟨g0, 0, 10, 15, 3⟩) = true := by
  decide +kernel

theorem witness_AccessesIssue :
    ([.tld ⟨g0, 3, 0, 0, false, 15, 0⟩, .tld ⟨g0, 3, 15, 0, false, 15, 0⟩, .tst ⟨g0, 2, 0, 0, false, 15, 0⟩, .synca ⟨g0, q 6, q 1⟩] : List Instr).all
      (fun i => (accessOf wide i).isSome && wide.ready i) = true ∧
    ([.voadd ⟨g0, q 16, q 3⟩, .vocas ⟨g0, 3, q 16, q 1⟩, .vosax ⟨g0, q 17, q 16, q 3⟩] : List Instr).all
      (fun i => (accessOf wide i).isSome && (checked wide).rouses i) = true ∧
    (checked (wide.setHdr vault 0x7FC0)).rouses (.voaddS64 ⟨g0, q 16, q 1⟩) = true ∧
    ([0, 64, 128, 192].foldl (fun s k => s.setHdr (pad + k) 0x7F70) wide).ready (.tld ⟨g0, 3, 0, 0, false, 5, 5⟩) = true ∧
    ([.tlda ⟨g0, 0, 48, 15, q 16⟩, .tlda ⟨g0, 15, 63, 0, q 16⟩, .tsta ⟨g0, 0, 0, 0, q 16⟩, .ld ⟨g0, .queue 31, 6, q 16⟩, .ld ⟨g0, .none, 0, q 16⟩, .st ⟨g0, q 1, q 16, 6⟩, .st ⟨g0, q 1, q 16, 0⟩, .ldh ⟨g0, .none, q 16⟩,
      .sth ⟨g0, q 18, q 16⟩, .tagr ⟨g0, .none, q 16⟩, .signal ⟨g0, q 16, q 1⟩, .launch ⟨g0, .none, q 16⟩] : List Instr).all (fun i => base.ready i && (accessOf base i).isSome) = true := by
  decide +kernel

/-- The core with the duty to refresh slice 0. -/
def duty : State := { base with prim := { base.prim with task := { base.prim.task with refresh := true } } }

theorem witness_TagAndRefreshWords :
    ([.publ ⟨g0, q 16, q 1⟩, .hand ⟨g0, q 16, q 1, .zero⟩] : List Instr).all (fun i => (loose wide).ready i && (checked wide).rouses i) = true ∧
    base.ready (.publ ⟨g0, q 16, q 17⟩) = true ∧ base.ready (.publ ⟨g0, q 16, .zero⟩) = true ∧ base.ready (.hand ⟨g0, q 16, q 17, .zero⟩) = true ∧
    duty.ready (.vref ⟨g0, 0, 63⟩) = true := by decide +kernel

/-- Two bound in-ports and a fed out-port. -/
def threePorts : State :=
  let sh := wide.prim.shape 4 false
  { wide with prim := { wide.prim with ports := [(0, some ⟨.input, sh, 1, [⟨0, none⟩], 0, 0, [], false, false, 0, 0⟩), (1, some ⟨.input, sh, 1, [⟨0x3F800000, none⟩], 0, 0, [], false, false, 0, 0⟩),
                                                 (2, some ⟨.output, sh, 0, [], 0, 0, [7], false, false, 0, 0⟩)] } }

/-- The stream has gone back and still skips one transfer word. -/
def skipping (s : State) : State := { s with prim := { s.prim with skip := 1 } }

theorem witness_PortsAndTransfers :
    wide.ready (.sbind ⟨g0, 0, true, 0, false⟩) = true ∧ wide.ready (.sbind ⟨g0, 6, false, 1, false⟩) = true ∧ threePorts.ready (.sunb ⟨g0, 0⟩) = true ∧
    threePorts.ready (.sunb ⟨g0, 2⟩) = true ∧ threePorts.ready (.saego ⟨g0, 0, 1, q 16, q 1⟩) = true ∧ threePorts.ready (.saego ⟨g0, 0, 1, q 16, .zero⟩) = true ∧
    ([.saef ⟨g0, .zero⟩, .saef ⟨g0, q 6⟩, .synci ⟨g0, q 6, q 1⟩, .bcopy ⟨g0, 0, false, .zero, false⟩, .bcopy ⟨g0, 0, false, q 6, true⟩] : List Instr).all
      (fun i => wide.ready i && (skipping wide).ready i && (checked wide).rouses i && (checked (skipping wide)).rouses i) = true ∧ wide.me.skip = 0 ∧
    (skipping (loose wide)).ready (.synci ⟨g0, q 6, q 1⟩) = true ∧ (skipping wide).me.commit = true ∧
    ({ wide with prim := { wide.prim with sc := { wide.prim.sc with levels := [(0, ⟨0, 0, 0, 0⟩)] } } } : State).ready (.bcopy ⟨g0, 0, false, .zero, false⟩) = true := by
  decide +kernel

/-- A SEND descriptor and a RECV descriptor in the scratchpad, at fabric scope. -/
def messages : State :=
  let s := { wide with bundle := ⟨0x80800000, 0x400001, 0x400003⟩ }
  ((s.store (pad + 0x1000) (toBytes 8 (2 ^ 55 + 3 * 2 ^ 40 + 64) ++ toBytes 8 pad ++ toBytes 4 100 ++ toBytes 4 9 ++ toBytes 8 5)).store (pad + 0x1020)
    (toBytes 8 3 ++ toBytes 8 (pad + 0x800) ++ toBytes 4 100 ++ toBytes 4 9))

/-- A message the session has decoded that the RECV matches. -/
def decoded : State := { messages with sessions := messages.sessions.map (fun x => { x with decoded := [(3, 3, 9, 7, 100)] }) }

theorem witness_MessageWords :
    messages.ready (.send ⟨g0, 3, q 6⟩) = true ∧
    (let at' (s : State) : State := { s with prim := { s.prim with sc := { s.prim.sc with queues := [(6, [BitVec.ofNat 64 (pad + 0x1020)])] } } }
     (at' messages).ready (.recv ⟨g0, 3, q 6⟩) = true ∧ (at' decoded).ready (.recv ⟨g0, 3, q 6⟩) = true ∧ (syncAdd (decoded.word (pad + 0x800)) 100).2 = true ∧
     (syncAdd ((decoded.store (pad + 0x800) [100]).word (pad + 0x800)) 100).2 = false ∧ (at' (decoded.store (pad + 0x800) [100])).ready (.recv ⟨g0, 3, q 6⟩) = true ∧
     (let s : State := { at' decoded with accs := [⟨3, .prim, 7, 0, .synci (bankBase 1 0) 5, [.horizontal], 9999, 0, 0, none, 3, false, none, true, 0, none⟩] }
      s.ready (.recv ⟨g0, 3, q 6⟩) = true ∧ s.accs.any (fun a => a.sid == s.cur && !a.done && decide (a.seq < s.seq) && a.op.isSynci) = true)) := by
  decide +kernel

/-! ### Events -/

/-- The blocks of a list stand in places of their own. -/
def apart (s : State) (asid : BitVec 12) (bs : List Nat) : Bool :=
  bs.all (fun b => bs.all (fun c => s.phys asid b != s.phys asid c || b == c))

theorem apart_spec (s : State) (asid : BitVec 12) (bs : List Nat) (h : apart s asid bs = true) : s.apart asid bs := by
  intro b hb c hc e
  have := List.all_eq_true.mp (List.all_eq_true.mp h b hb) c hc
  simpa [e] using this

/-- The access that a word issues may perform. -/
def canPerform (s : State) (i : Instr) : Bool :=
  let t := due (after i s)
  t.accs.head?.any (fun a => t.performs a && apart t (t.str a.sid).task.asid a.op.blocks)

/-- A machine whose word is a push to mailbox q8 of core 0, which the task declares, with `n` entries in it. -/
def pushing (n : Nat) : State :=
  { plain with prim := { plain.prim with
      task := { base.prim.task with mail := 0xFF }
      sc := { base.prim.sc with queues := [(1, [6]), (8, List.replicate n 7), (16, [BitVec.ofNat 64 (pushAddr 0 8 false)])] } } }

/-- One access in flight. -/
def flyingOne (op : MemOp) (p : Path) (checked : Bool) : State :=
  { base with accs := [⟨30, .prim, 6, 0, op, [p], 0, 0, 0, none, 30, false, none, checked, 0, none⟩] }

theorem witness_AccessPerforms :
    ([.ld ⟨g0, .queue 31, 6, q 16⟩, .ld ⟨g0, .none, 0, q 16⟩, .st ⟨g0, q 1, q 16, 6⟩, .ldh ⟨g0, .none, q 16⟩, .sth ⟨g0, q 18, q 16⟩, .tagr ⟨g0, .none, q 16⟩, .tlda ⟨g0, 15, 63, 0, q 16⟩,
      .tsta ⟨g0, 0, 0, 0, q 16⟩, .signal ⟨g0, q 16, q 1⟩, .launch ⟨g0, .none, q 16⟩, .synca ⟨g0, q 6, q 1⟩] : List Instr).all (canPerform base) = true ∧
    ([.tld ⟨g0, 3, 0, 0, false, 15, 0⟩, .tst ⟨g0, 2, 0, 0, false, 15, 0⟩, .synci ⟨g0, q 6, q 1⟩, .synci ⟨g0, q 6, .zero⟩] : List Instr).all (canPerform wide) = true ∧
    ([.publ ⟨g0, q 16, q 1⟩, .hand ⟨g0, q 16, q 1, .zero⟩] : List Instr).all (canPerform (loose wide)) = true ∧
    ([.voadd ⟨g0, q 16, q 3⟩, .vocas ⟨g0, 3, q 16, q 1⟩, .vosax ⟨g0, q 17, q 16, q 3⟩] : List Instr).all (canPerform (checked wide)) = true ∧
    canPerform (checked (wide.setHdr vault 0x7FC0)) (.voaddS64 ⟨g0, q 16, q 1⟩) = true ∧
    canPerform ([0, 64, 128, 192].foldl (fun s k => s.setHdr (pad + k) 0x7F70) wide) (.tld ⟨g0, 3, 0, 0, false, 5, 5⟩) = true ∧
    canPerform { wide with tiles := four 2 (row32 0x7F70 7), prim := { wide.prim with sc := { wide.prim.sc with shapes := (shape 0 pad).map (fun p => if p.1 = 1 then (1, 0x52) else p) } } }
      (.tst ⟨g0, 2, 0, 0, false, 5, 0⟩) = true := by decide +kernel

/-- Pushes, a store into a tile row of this core, an earlier access, a full mailbox, a late check that fails, the read of a SEND. -/
theorem witness_AccessPerforms_others :
    canPerform (pushing 3) (.st ⟨g0, q 1, q 16, 6⟩) = true ∧
    (let s := flyingOne (.push 1 8 false 9) .horizontal true
     s.accs.all (fun a => s.performs a && apart s s.prim.task.asid a.op.blocks) = true) ∧
    (let s := flyingOne (.st (coreWindow 0 + 0x80_0000) [1]) .localPath true
     s.accs.all (fun a => s.performs a && apart s s.prim.task.asid a.op.blocks && (a.op.pends 0 == [0])) = true) ∧
    (let s := { flyingOne (.st pad [1]) .localPath false with accs := [⟨29, .prim, 6, 0, .ld pad 6, [.localPath], 0, 0, 0, none, 29, false, none, false, 0, none⟩,
        ⟨30, .prim, 6, 0, .st pad [1], [.localPath], 0, 0, 0, none, 30, false, none, false, 0, none⟩] }
     s.accs.all (fun a => s.access a.id == some a) = true) ∧
    (let s := due (after (.st ⟨g0, q 1, q 16, 6⟩) (pushing 4))
     s.accs.all (fun a => s.access a.id == some a && !a.checked && s.accReady a && s.pushWaits a.op) = true) ∧
    (let s := due (after (.st ⟨g0, q 1, q 16, 6⟩) { pushing 0 with prim := { (pushing 0).prim with task := base.prim.task } })
     s.accs.all (fun a => s.access a.id == some a && !a.checked && s.accReady a && !s.pushWaits a.op && (s.lateCheck a.sid a.slot a.ord a.op).isSome) = true) ∧
    [(MemOp.ld pad 6, true), (.st pad [1], false)].all (fun x =>
      let s : State := { flyingOne x.1 .localPath false with stored := [pad] }
      s.accs.all (fun a => s.accReady a && (a.op.lands == x.2) && (s.lateCheck a.sid a.slot a.ord a.op).any (·.rank == 9))) = true ∧
    (let t := after (.send ⟨g0, 3, q 6⟩) messages
     let s : State := { t with fabric := { t.fabric with sent := t.fabric.sent.map (fun x => { x with readAt := 0 }) } }
     s.fabric.sent.any (fun x => (s.access x.id).isNone && !x.read && s.sendReady x && (blocksOf x.src x.len).all (fun b =>
       (s.readFault s ⟨x.asid, x.gslot, x.member⟩ (fun _ => none) b).isNone)) = true) := by decide +kernel

/-- A load whose value has come, due at cycle 790. -/
def brought : State := { base with accs := [⟨3, .prim, 6, 0, .ld pad 6, [.vertical], 700, 790, 795, some 9, 3, true, some 5, false, 0, none⟩] }

/-- Another core's accesses at the vault, a bank and a tile row of this core. -/
def peerOps : List PeerOp :=
  let v := BitVec.ofNat 56 vault
  let b := BitVec.ofNat 56 (pad + 0x1000)
  [.read v, .write v [1, 2, 3], .header b 0x7F70, .block (BitVec.ofNat 56 (coreWindow 0 + 0x80_0000)) 5 7 0x7F70 true, .block b 5 7 0x7FB0 false, .voadd v 0x3F800000, .vocas v 0 1,
   .vosax v (v + 64) 0x3F800000, .publ b, .hand b 3, .sync b 4, .synci b 9, .ring b 0x80 0 7]

theorem witness_ItemsArrive :
    (brought.access 3).any (fun a => a.done && a.err.isNone) = true ∧
    (let s : State := { brought with accs := brought.accs.map (fun a => { a with err := some { rank := 9, slot := 6, code := .uncorrectable, addr := pad } }) }
     (s.access 3).any (fun a => a.done && a.err.isSome) = true ∧ s.prim.status = .running ∧ s.prim.error = none ∧ s.prim.consumed = none) ∧
    peerOps.all (fun o => wide.peerPasses ⟨1, 2, 7⟩ o && apart wide 1 (peerBlocks o)) = true ∧
    (wide.setHdr vault 0x7FC0).peerPasses ⟨1, 2, 7⟩ (.voadd64 (BitVec.ofNat 56 vault) 5) = true ∧
    wide.peerPasses ⟨2, 2, 7⟩ (.read (BitVec.ofNat 56 vault)) = false ∧
    (pushing 3).mailFull false 8 = false ∧ (pushing 4).mailFull false 8 = true ∧ (pushing 4).prim.isMail 8 = true ∧ (pushing 4).prim.isMail 16 = false := by
  decide +kernel

/-- A stream with a checkpoint, an entry in its journal and an error of rank `r`. -/
def broken (r retries : Nat) : State :=
  { base with prim := { base.prim with ckpt := some ⟨base.prim.sc, [], 40, true, 0, 0, 3⟩, journal := [.mask 1 5], retries
                                       error := some { rank := r, slot := 0, code := .uncorrectable, addr := pad } } }

/-- An error that has arrived with data and waits for the next bundle. -/
def arrived (s : State) (retries : Nat) (code : TrapCode) : State :=
  { s with prim := { s.prim with retries, consumed := some { rank := 9, slot := 0, code, addr := pad } } }

theorem witness_SegmentsGoBack_detected :
    (semOf (.add ⟨g0, .I, .none, q 1, q 2, false⟩)).any (fun w =>
      [arrived plain 0 .uncorrectable, arrived plain 1 .rowCheck, arrived plain 2 .rowCheck, arrived base 0 .uncorrectable, arrived base 0 .rowCheck].all (fun s =>
        s.reaches w && (s.mainCauses [w] == s.prim.consumed.toList) && s.prim.consumed.any (fun c => c.rank == 9 && c.code != .refreshLate))) = true := by
  decide +kernel

theorem witness_SegmentsGoBack :
    (let s := { base with prim := { base.prim with ckptDue := some 3 } }
     s.prim.ckptDue.isSome = true ∧ s.segReady .prim = true) ∧
    ([(11, 0), (9, 0), (9, 1), (9, 2)].all (fun p =>
      let s := broken p.1 p.2
      s.prim.error.isSome && s.prim.ckpt.isSome && s.prim.status == .running && s.quiet .prim && s.portsDrained .prim)) = true := by decide +kernel

/-- The stream at a bundle of one word in memory, at the wait that word begins. -/
def atWord (k : Slot) (w : W32) : State :=
  let s := State.reset.withProgram k.idx w
  { base with
    mem := s.mem, lanes := s.lanes, sessions := s.sessions
    prim := { base.prim with wait := some .other, presented := true, sc := { base.prim.sc with pc := s.prim.sc.pc } } }

/-- The secondary is ready and has waited 4,096 cycles. -/
def passedOver : State :=
  let s := State.reset.withProgram 1 0x74010005
  { s with sec := { s.prim with ready19 := 4096 }, prim := Stream.idle }

/-- A gang of queue 5 on core 1, and a machine that knows it. -/
def awayGang : Gang := ⟨⟨5, 2, 1, [], []⟩, 9, [1], false, 3, 1, none⟩
def withAway : State := { base with gangs := [awayGang] }

theorem witness_WaitsEndByEvents :
    (held base (.bar 3)).erring .prim = false ∧ (held (arrived base 0 .uncorrectable) (.bar 3)).erring .prim = true ∧
    (let s := { base with sessions := [{ textSession with phases := [(0, 0xFFFF)] }] }
     s.phase 1 0 = 0xFFFF ∧ s.memWf = true) ∧
    (held base (.bar 3)).prim.wait = some (.bar 3) ∧ (held base (.rdv 3 4)).prim.wait = some (.rdv 3 4) ∧ base.prim.preempt = false ∧
    (held base .arriving).prim.wait = some .arriving ∧ ({ base with prim := { base.prim with preempt := true } } : State).prim.preempt = true ∧
    withAway.gangs.find? (fun g => g.step.queue == (5 : BitVec 6).toNat && g.step.num == 2 && !withAway.onCore g) = some awayGang ∧
    ([(.C, .waitg ⟨g0, q 16, .zero⟩), (.C, .waitr ⟨g0, .none, q 16, .zero⟩), (.L, .fence ⟨g0, 4⟩)] : List (Slot × Instr)).all (fun (k, i) =>
      let s := atWord k ((encode i).getD 0)
      s.prim.status == .running && s.nextInstrs .prim == [i] && (s.early .prim).isEmpty && (s.atIssue .prim).rouses i) = true ∧
    passedOver.holdsPrimary = true ∧ passedOver.fillerDue = false ∧
    (let x : Session := { textSession with sweeps := [(0, 700), (9, 800)], taken := [0, 9] }
     let s : State := { withAway with sessions := [x] }
     s.memWf = true ∧ x.sweeps.any (fun p => p.1 == 0 && decide (p.2 ≤ s.now)) = true ∧ s.prim.task.gslot = 0 ∧
     x.sweeps.any (fun p => p.1 == 9 && decide (p.2 ≤ s.now)) = true) := by decide +kernel

/-- A filler gang that has been passed over long enough holds the primary where its bundle is ready, a free value. -/
theorem witness_WaitsEndByEvents_filler (h : Config.fillerReady 0 = true) : ({ State.reset with filler := some 4096 } : State).fillerDue = true := by
  simp only [State.fillerDue, State.fillerReady]
  rw [show ({ State.reset with filler := some 4096 } : State).free = 0 from rfl, h]
  decide +kernel

/-- A stream with the duty to refresh slice 0, late with every group. -/
def lateRefresh : State := { duty with cycle := 1300000 }

theorem witness_DomainsAndRefresh :
    (let s := { base with doms := [(0, ⟨.waking, some .prim, 800, 700⟩), (22, ⟨.waking, some .prim, 800, 0⟩)] }
     [0, 22].all (fun d => (s.dom d).st == .waking && decide ((s.dom d).due ≤ s.now)) ∧ (s.dom 0).since + 1200 ≥ s.now) ∧
    (let s := { lateRefresh with doms := [(22, ⟨.waking, some .prim, 800, 0⟩)] }
     (s.dom 22).st = .waking ∧ (s.dom 22).due ≤ s.now ∧ (s.dom 22).since + 1200 < s.now) ∧
    (let s := { base with power := { base.power with partner := [(5, 800)], ahead := [(800, 3), (803, 4)] } }
     s.power.partner.find? (fun p => p.1 == 5 && decide (p.2 ≤ s.now)) = some (5, 800) ∧
     s.power.partner.find? (fun p => p.1 == 6 && decide (p.2 ≤ s.now)) = none ∧
     s.power.ahead.filter (fun p => decide (p.1 ≤ s.now)) = [(800, 3)]) ∧
    lateRefresh.dutyOf 0 = some .prim ∧ (lateRefresh.refGroup 0 63).last + 1200000 ≤ lateRefresh.now ∧
    lateRefresh.dutyOf 3 = none ∧ base.now % 8 = 0 := by decide +kernel

/-- A tensor as `shape` with another format. -/
def shapeF (r b : Nat) (f : W64) : SMap W64 := (shape r b).map (fun p => if p.1 = 64 * r + 1 then (p.1, f) else p)

/-- Four rows with FP32 headers at the scratchpad, and a copy of them just started: into memory with a ring entry (kind 0), at
fabric scope to a device as messages (1), into memory as BF16 (2). -/
def copying (kind : Nat) : State :=
  let dst := match kind with
    | 0 => shape 5 (pad + 0x2000)
    | 1 => shape 5 (2 ^ 55 + 3 * 2 ^ 40)
    | _ => shapeF 5 (pad + 0x2000) 0x52
  let w := { wide with
    bundle := if kind = 1 then ⟨0x80800000, 0x400001, 0x400003⟩ else wide.bundle
    prim := { wide.prim with sc := { wide.prim.sc with shapes := shape 4 pad ++ dst } } }
  let s := [0, 64, 128, 192].foldl (fun s k => s.setHdr (pad + k) 0x7F70) w
  after (.bcopy ⟨g0, 0, false, q 6, kind == 0⟩) s

/-- The same with its block in flight and due, as the last of `n`. -/
def copyDueNow (kind n : Nat) : State :=
  { copying kind with copies := (copying kind).copies.map (fun c => { c with total := n, next := 0, flying := [(0, 0)] }) }

/-- Its block is readable, and writable. -/
def copyFine (s : State) : Bool :=
  s.copies.all (fun c =>
    let d : Ident := ⟨c.asid, c.gslot, c.member⟩
    let verb := copyVerbatim c.src c.dst c.levels
    let rd := ((copyPieces c verb 0).flatMap (·.reads)).eraseDups
    let wr := copyWrites c 0
    s.copies.find? (fun x => x.id == c.id) == some c && s.copyDue c == some 0 &&
      rd.all (fun b => (s.readFault (s.view c.asid rd) d (copyNeeds verb (shFmt c.src)) b).isNone) &&
      (c.fabric || (wr.all (fun b => ((s.unitTags d .read rd).writeFault d b).isNone && b % 64 == 0) && apart s c.asid wr)))

theorem witness_CopyBlocks :
    [(0, 1), (0, 2), (1, 1), (2, 1)].all (fun p => copyFine (copyDueNow p.1 p.2)) = true ∧
    [0, 1, 2].flatMap (fun k => (copying k).copies.map (fun c => (c.fabric, copyVerbatim c.src c.dst c.levels, c.ring, c.sync.isSome))) =
      [(false, true, true, true), (true, true, false, true), (false, false, false, true)] ∧
    (let s := { copying 0 with copies := (copying 0).copies.map (fun c : Copy => { c with next := 0 }) }
     s.copies.all (fun c : Copy => s.copies.find? (fun x => x.id == c.id) == some c && (s.copyDue c).isNone && s.copyBegins c) = true ∧ s.copies ≠ []) ∧
    (let s := { copying 0 with copies := (copying 0).copies.map (fun c : Copy => { c with next := 900 }) }
     s.copies.all (fun c : Copy => s.copies.find? (fun x => x.id == c.id) == some c && (s.copyDue c).isNone && !s.copyBegins c) = true) := by
  decide +kernel

/-- A stream with one bound port over four rows of elements that stand in the scratchpad under header `h`. -/
def bound (h : BitVec 16) (k : Nat) (p : Port) : State :=
  let s := [0, 64, 128, 192].foldl (fun s k => s.setHdr (pad + k) h) wide
  { s with prim := { s.prim with ports := [(k, some p)] } }

/-- An in-port, an out-port with one entry fed, a row-buffer feed (of S8 elements). -/
def inPort : Port := ⟨.input, wide.prim.shape 4 false, 0, [], 0, 0, [], false, false, 0, 0⟩
def outPort : Port := ⟨.output, wide.prim.shape 4 false, 3, [], 0, 0, [7], true, false, 0, 0⟩
def feedPort : Port := ⟨.feed, (((wide.prim.shape 4 false).set 1 0x82).set 2 64).set 26 64, 0, [], 0, 0, [], true, false, 0, 0⟩

theorem witness_PortsMove :
    (let s := bound 0x7F70 0 inPort
     s.fetchReady .prim inPort = true ∧ s.fetchReady .prim { inPort with flying := true } = true ∧ inPort.element.any (fun x =>
       (s.readFault (s.view 1 [blockOf (x / 8)]) (s.ident .prim) (portNeeds 7) (blockOf (x / 8))).isNone) = true) ∧
    (let p : Port := { inPort with shape := inPort.shape.set 18 (-1) }
     (bound 0x7F70 0 p).fetchReady .prim p = true ∧ p.element = none) ∧
    (let s := bound 0x7F70 2 outPort
     s.drainReady .prim outPort = true ∧ s.drainReady .prim { outPort with flying := true } = true ∧ outPort.fed = 7 :: [] ∧
     outPort.element.any (fun x => x % 32 == 0 && (s.writeFault (s.ident .prim) (blockOf (x / 8))).isNone) = true ∧
     outPort.pos < walkTotal outPort.shape ∧ s.prim.status ≠ .idle) ∧
    (let p : Port := { outPort with pos := walkTotal outPort.shape }
     (bound 0x7F70 2 p).drainReady .prim p = true ∧ walkTotal p.shape ≤ p.pos) ∧
    (let p : Port := { outPort with shape := outPort.shape.set 18 (-1), pos := 0 }
     (bound 0x7F70 2 p).drainReady .prim p = true ∧ p.pos < walkTotal p.shape ∧ p.element = none) ∧
    (let s := bound 0x7F80 7 feedPort
     s.feedDue .prim { feedPort with closing := false } = true ∧ s.shadow.st = .empty ∧
     (let t := { s with shadow := { Half.empty with st := .filling } }
      t.feedDue .prim feedPort = true ∧
      (feedBlocks feedPort).all (fun b => b.all (fun b => (t.readFault (t.view 1 ((feedBlocks feedPort).filterMap id)) (t.ident .prim) (copyNeeds false 8) b).isNone)) = true ∧
      matFormatCauses ((feedBlocks feedPort).map (fun b => match b with
        | some b => (t.view 1 ((feedBlocks feedPort).filterMap id)).hdrOf b
        | none => mkHdr 8)) = [])) := by decide +kernel

/-- The three ports with the engine's work to do. -/
def scattering (sae : Sae) : State := { threePorts with prim := { threePorts.prim with sae } }

theorem witness_SaeApplies :
    (wide.prim.sae.next ≤ wide.now ∧ wide.saeReady .prim = false) ∧
    ([(1, []), (2, []), (1, List.replicate 63 (pad, 1))] : List (Nat × List (Nat × W32))).all (fun x =>
      let s := scattering { subs := [.updates 0 1 pad x.1 ⟨30, 0⟩], opened := x.2, items := [], next := 800 }
      decide (s.prim.sae.next ≤ s.now) && s.saeReady .prim && decide (s.prim.sae.opened.length < 64) && s.prim.sae.items.isEmpty && !s.prim.sae.flying &&
        [0, 1].all (fun k => (s.prim.port k).any (fun p =>
          p.kind == .input && p.entries.all (fun x => x.bad.isNone) && p.entries.length == 1 && decide (p.pos < walkTotal p.shape)))) = true ∧
    ([(none, []), (some pad, []), (some pad, [(pad, 1)])] : List (Option Nat × List (Nat × W32))).all (fun x =>
      let s := scattering { subs := [.close x.1 ⟨30, 0⟩], opened := x.2, items := [], next := 800 }
      s.saeReady .prim && s.prim.sae.items.isEmpty && !s.prim.sae.flying) = true ∧
    ([.flush pad ⟨30, 0⟩, .window [(vault, 1)] ⟨30, 0⟩] : List SaeItem).all (fun x =>
      let s := scattering { subs := [], opened := [], items := [x], next := 800 }
      !s.workBehind .prim x.place && s.entriesFree x.entries && !s.prim.sae.flying && s.saeReady .prim) = true ∧
    [vault, vault + 4, pad].all (fun a =>
      let s := scattering { subs := [], opened := [], items := [.window ([0x3F800000, 0x40000000].map (fun v => (a, v))) ⟨30, 0⟩], next := 800, flying := true }
      decide (a % 4 = 0) && s.saeReady .prim && (s.saeFault (s.view 1 [blockOf a]) .prim a).isNone) = true ∧
    wide.hdrOf pad = 0 ∧ wide.hdrOf vault = 0x7F70 ∧
    (let s := scattering { subs := [], opened := [], items := [.flush pad ⟨30, 0⟩], next := 800, flying := true }
     s.saeReady .prim = true ∧ s.prim.sae.items = [.flush pad ⟨30, 0⟩]) := by decide +kernel

/-- A stream that trapped with a code and an auxiliary word. -/
def trapped (code : Nat) (aux : Nat) (delay : Option W64) : State :=
  { base with prim := { base.prim with
      status := .trapped, record := some (BitVec.ofNat 512 (code + aux * 2 ^ 256)), sc := { base.prim.sc with delay } } }

/-- A stream of one member that the watchdog samples: its progress at the last sample, how often it has stood still, whether a forced
pre-emption has happened. -/
def sampledAt (lastProg : Option Nat) (still : Nat) (resumed : Bool) : State :=
  { base with prim := { base.prim with progress := 7, lastProg, unsampled := false, still, resumed } }

theorem witness_RecoveryActs :
    ([(TrapCode.refreshLate.num, 0, some 0x400008), (TrapCode.refreshLate.num, 0, none), (TrapCode.software.num, 0xFF00, none), (TrapCode.software.num, 0xFFFF, some 0x400008),
      (TrapCode.software.num, 0xFEFF, none), (TrapCode.privilege.num, 0, none)] : List (Nat × Nat × Option W64)).all
      (fun p => let s := trapped p.1 p.2.1 p.2.2
        s.prim.record.any (fun r => (r.extractLsb' 0 8).toNat == p.1 && (r.extractLsb' 256 64).toNat == p.2.1) &&
        s.prim.status == .trapped && decide (s.prim.actAt ≤ s.now) && s.prim.sc.delay == p.2.2 && s.prim.sc.loops.isEmpty) = true ∧
    (let r : BitVec 512 := BitVec.ofNat 512 (TrapCode.uncorrectable.num + vault * 2 ^ 192)
     base.brokenPage .prim r = none ∧ ({ base with stored := [base.phys 1 vault] } : State).brokenPage .prim r =
       some (base.phys 1 vault / 0x20_0000 * 0x20_0000)) ∧
    base.prim.record = none ∧ base.prim.sampled false = false ∧
    (held { base with prim := { base.prim with unsampled := true } } .other).prim.wait.isSome = true ∧
    [sampledAt none 99 false, sampledAt (some 6) 99 true, sampledAt (some 7) 98 true, sampledAt (some 7) 99 false, sampledAt (some 7) 99 true].all (fun s =>
      s.prim.status == .running && !s.prim.unsampled && decide (s.prim.task.members.toNat ≤ 1) && !(s.str (Sid.other .prim)).sampled false &&
      decide ((s.str (Sid.other .prim)).task.members.toNat ≤ 1)) = true ∧
    [800, 801].map (fun c => ({ base with prim := { base.prim with saveBy := some c } } : State).prim.saveBy.any (fun x => decide (x ≤ base.now))) = [true, false] := by
  decide +kernel

/-- A stream that a pre-emption has stopped at a safe point, and the same stream when its context is away, its save area empty or
holding an End segment alone, in a state of its domains, with sync words to count. -/
def halted : State := { base with prim := { base.prim with preempt := true, atSafe := true } }
def away (ended : Bool) (status : Status) (doms : SMap Dom) (posts : List (Nat × Nat)) : State :=
  let s : State := { base with saved := [{ base.context .prim with posts }], doms, prim := { base.prim.leftBehind with status } }
  if ended then s.store (s.saveArea .prim) (segBytes 0 0x0F (toBytes 4 0)) else s

/-- A task of the secondary that leaves no tile. -/
def beside (s : State) : State := { s with sec := { base.prim with task := { base.prim.task with tiles := 16 } } }

theorem witness_ContextsSwitch :
    (segBytes 5 0x04 [1, 2]).length = 18 ∧ (segments [(4, List.replicate 4097 7)]).map (fun x => (x.1, x.2.length)) = [(4, 4096), (4, 1), (0x0F, 4)] ∧
    base.prim.status = .running ∧ Stream.idle.status = .idle ∧ base.stopped .prim = false ∧ halted.stopped .prim = true ∧ halted.saveQuiet .prim = true ∧
    halted.hasAwake .prim 0 = true ∧ halted.hasAwake .prim 5 = true ∧ halted.hasAwake .prim 7 = true ∧
    [true, false].all (fun e =>
      let s := away e .saved [] []
      (s.savedOf .prim).isSome && s.prim.status == .saved && s.fitsBack .prim && !(beside s).fitsBack .prim && (s.savePasses .prim == e) &&
      (s.savedOf .prim).any (fun c => c.doms.any (fun p => (s.dom p.1).st == .asleep && !s.wakeQ.contains ⟨true, p.1⟩))) = true ∧
    ([[], [(pad, 4)]] : List (List (Nat × Nat))).all (fun posts =>
      let s := away true .restoring base.doms posts
      let t := away true .restoring (base.doms.map (fun p => (p.1, { p.2 with st := .waking }))) posts
      (s.savedOf .prim).any (fun c => !s.unqueued c && s.allBack .prim c && SMap.wf Row.start c.rows && SMap.wf 0 c.bytes && c.posts == posts &&
        c.doms.any (fun p => p.1 == 0 && p.2.st == .awake) && c.doms.any (fun p => p.1 == 5 && p.2.st == .awake)) &&
      (t.savedOf .prim).any (fun c => !t.unqueued c && !t.allBack .prim c)) = true := by decide +kernel

/-- A launch record: an entry, a kernel header at 0x1000, the core set of core 0 alone (or of the whole rectangle, or on the
secondary), and `n` tiles. -/
def record (w2 : W64) (n : Nat) : List W64 := [0x400001, 0x1000, w2, BitVec.ofNat 64 (n + 2 ^ 20 + 2 ^ 40), 0x10000100001, 0, 0xABC, 0]

/-- A free core with one session, whose kernel takes four tile registers, one bank and the domains dv and db0, and the steps of
its queue 5. -/
def queued (ps : List PlanStep) : State :=
  { base with
    prim := Stream.idle, doms := []
    sessions := [{ textSession with queues := [(5, 3)], kernels := [⟨0x1000, 0x9020000, 0x81, 1⟩], classes := [] }]
    queues := ps }

/-- A step without predecessors. -/
def one (w2 : W64) (n : Nat) : PlanStep := ⟨5, 0, 1, record w2 n, []⟩

/-- What the head of queue 5 would start: the gang's cores. -/
def startsOn : HeadAct → Option (List Nat × Nat × Bool)
  | .start g => some (g.cores, g.slot, g.sec)
  | _ => none

theorem witness_GangsRun :
    [(queued [one 0 3], some (([0] : List Nat), 0, false)), (queued [one 0x40000 3], some ([0], 0, true)), (queued [one 0x26400 3], some ([9], 0, false)),
      (queued [one 0x4000 1], some ([0, 1], 0, false))].all (fun x =>
      (x.1.endingStep 5).isNone && startsOn (x.1.headAct 5) == x.2 && (x.1.head 5).any (fun p =>
        ((x.1.sessions.find? (fun y => y.asid == p.asid)).bind (fun y => y.kernel p.record)).isSome)) = true ∧
    (queued []).headAct 5 = .wait ∧ (queued []).endingStep 5 = none ∧
    [({ one 0 3 with preds := [(5, 7)] } : PlanStep), { one 0 3 with preds := [(6, 7)] }, one 0 0].all (fun p =>
      let s : State := { queued [p] with results := [((6, 7), .killed)] }
      s.endingStep 5 == some p) = true ∧
    (let s : State := { queued [one 0 3] with sec := { base.prim with task := { base.prim.task with tiles := 13 } } }
     s.endingStep 5 = none ∧ (match s.headAct 5 with | .displace _ => true | _ => false) = true) ∧
    (let s := { base with prim := { base.prim with status := .finished } }
     s.prim.status = .finished) ∧ 1 < (gang 8).prim.task.members.toNat ∧ (gang 8).prim.status ≠ .idle ∧
    withAway.gangs.find? (fun x => x.step.queue == (5 : BitVec 6).toNat && x.step.num == 2 && !withAway.onCore x) = some awayGang := by decide +kernel

/-- A request's header as the manual asks for it, for an ASID. -/
def asks (n : BitVec 12) : ReqHdr := ⟨9, n, 0, 64, true, 0, true⟩

/-- A request for a session of the whole rectangle with one page, queue 5 and no class. -/
def wants : CreateReq :=
  { hdr := asks 0, xmin := 0, xmax := 15, ymin := 0, ymax := 7, pages := [⟨vault, 0x2000007⟩], queues := [(5, 3)], classes := [], assoc := 0
    keys := none, window := none, strict := some true }

/-- Where a request stands in the conditions of CREATE. -/
def judged (s : State) (r : CreateReq) : Bool × Bool × Bool × Bool :=
  (decide (r.xmax < r.xmin) || decide (r.ymax < r.ymin) || decide (8 < (r.keys.getD []).length), s.createBusy r,
    r.pages.all (fun m => mappingFine r m && !s.onRetired m) && mappingsApart r.pages, r.classes.all (fun c => rateFine c.2))

/-- An object of one text section of 64 bytes at the session's page, in a version of the format. -/
def object (v : Byte) : List Byte :=
  [0x41, 0x56, 0x4F, 1, 0, v, 0, 0, 0, 1, 1, 0, 0, 0, 0, 0, 160, 0, 0, 0, 0, 0, 0, 0] ++ List.replicate 40 0 ++
  ([1, 0, 0, 0, 0, 0, 0, 0] ++ toBytes 8 vault ++ toBytes 8 64 ++ toBytes 8 96) ++ List.replicate 64 (0xAA : Byte)

/-- A device that has started, without a session. -/
def bare : State := { State.reset with service := { State.reset.service with stage := 5 } }

theorem witness_SessionRequests_others :
    (let s := queued []
     let two : State := { s with sessions := s.sessions ++ [{ textSession with asid := 2, queues := [(6, 3)] }] }
     let h : ReqHdr := { asks 1 with length := (object 1).length }
     (two.reqSession (asks 1)).any (fun x => x.queues.any (fun y => y.1 == 5) &&
       two.sessions.any (fun z => z.asid != x.asid && z.queues.any (fun k => k.1 == (6 : BitVec 6).toNat))) = true ∧
     s.serves 2 h (some (object 1).length) = true ∧ s.serves 2 (asks 1) (some (object 1).length) = false ∧
     { s with service := { s.service with measures := List.replicate 255 (2, 0, 0) } }.serves 2 h (some (object 1).length) = true) := by decide +kernel

theorem witness_SessionRequests :
    [1, 2, 3, 4].all (fun k => base.serves k (asks (if k = 1 then 0 else 1))) = true ∧ bare.serves 1 (asks 0) = true ∧
    judged bare wants = (false, false, true, true) ∧ bare.freeAsid.isSome = true ∧ judged bare { wants with ymin := 7, ymax := 6 } = (true, false, false, true) ∧
    judged bare { wants with keys := some (List.replicate 9 0) } = (true, false, true, true) ∧ judged base wants = (false, true, true, true) ∧
    judged bare { wants with pages := [⟨vault, 0x2000027⟩] } = (false, false, false, true) ∧
    (let m : Mapping := ⟨vault, 0x2000007⟩
     let s : State := { bare with service := { bare.service with retired := [(5, frameAddr m.entry m.va)] } }
     bare.onRetired m = false ∧ s.onRetired m = true) ∧ judged bare { wants with classes := [(3, 0)] } = (false, false, true, false) ∧
    (let s := queued []
     s.reqSession (asks 7) = none ∧ (s.reqSession (asks 1)).any (fun x =>
       x.queues.any (fun y => y.1 == 5) && x.queues.all (fun y => y.1 != 6) && s.launchCheck x 5 (record 0 3) false == 0 && s.launchCheck x 5 (record 0x10 3) false != 0 &&
       (record 0 3).length == 8 && x.hasCore s.coreNo.toNat) = true ∧ s.service.measures.length < 255 ∧ objFields (object 1) = true ∧ objFields [] = false ∧
     (s.reqSession (asks 1)).any (fun x => State.loadRefusal (some x) false (object 2) != 0) = true) ∧
    State.loadRefusal (some { textSession with pages := [⟨vault, 0x200000F⟩] }) false (object 1) = 0 ∧ (objSections (object 1)).map (fun c => (c.base, c.size)) = [(vault, 64)] ∧
    (let s : State := { base with service := { base.service with measures := List.replicate 255 (2, 0, 0) } }
     255 ≤ s.service.measures.length ∧ s.serves 2 (asks 1) = true) ∧
    ([⟨5, 0, 1, [], []⟩, ⟨6, 3, 1, [], [(5, 0)]⟩] : List PlanStep).all (fun p => p.queue == 5 || p.preds.contains (5, 0)) = true := by decide +kernel

/-- A session with a traffic class is granted where its rate can be carried, a free value. -/
theorem witness_SessionRequests_rate (h : Config.rateCarried (0x101 : W64).toNat = true) :
    (let r : CreateReq := { wants with classes := [(3, 0x101)] }
     r.classes.all (fun c => rateFine c.2 && Config.rateCarried c.2.toNat)) = true := by
  simp only [List.all_cons, List.all_nil, h, Bool.and_true]
  decide +kernel

/-- A device in a stage of a start. -/
def starts (stage failures : Nat) : State := { State.reset with service := { State.reset.service with stage, failures } }

/-- A device in tethered mode. -/
def tethered : State := { State.reset with service := { State.reset.service with health := .tethered } }

theorem witness_ReportRequests :
    (base.requestOf (.telemetry (asks 1))).isSome = true ∧ (starts 2 1).serving = false ∧ base.serving = true ∧ tethered.serving = true ∧
    (let s : State := { base with sessions := base.sessions.map (fun x => { x with assoc := 6 }) }
     s.secured (asks 1) = false ∧ s.secured (asks 0) = true) ∧
    base.secured (asks 1) = true ∧ (asks 1).rud = true ∧ headerFine 5 (asks 1) none = true ∧ headerFine 1 (asks 1) none = false ∧ headerFine 3 (asks 1) (some 64) = true ∧ headerFine 3 (asks 1) (some 63) = false ∧
    tethered.hears 5 (asks 0) = true ∧ tethered.service.health = .tethered ∧ tethered.hears 8 (asks 0) = true ∧ base.hears 9 (asks 0) = true ∧
    base.serves 7 (asks 0) (some 64) = true ∧ base.hears 9 { asks 0 with length := 0 } (some 0) = true ∧ base.serves 10 (asks 0) (some 64) = true ∧
    [5, 6, 7, 0, 10].all (fun k => base.serves k (asks 0)) = true ∧ base.reportFor (asks 0) = true ∧ base.reportFor (asks 7) = false ∧ base.serves 5 (asks 7) = true := by decide +kernel

theorem witness_PowerActs_board :
    (let p : Power := { base.power with i3c := [(0x30, 60), (0x31, 101)], i3cAt := 800, board := List.replicate 8 (101, 801) }
     let s : State := { base with power := p }
     p.i3c = (0x30, 60) :: [(0x31, 101)] ∧ p.i3cAt ≤ s.now ∧ p.board[7]? = some (101, 801) ∧ s.boardOpening 7 = 100 ∧
     ({ s with power := { p with board := List.replicate 8 (30, 801) } } : State).boardOpening 7 = 30 ∧
     ({ s with power := { p with board := List.replicate 8 (30, 800) } } : State).boardOpening 7 = 100 ∧
     s.now < ({ p with i3cAt := 801 } : Power).i3cAt) ∧ base.power.i3c = [] := by decide +kernel

theorem witness_PowerActs :
    base.power.zones.length = 8 ∧ base.power.valves.length = 8 ∧ base.power.temps.length = 8 ∧ base.power.firmware = true ∧ base.power.tripped = false ∧
    ({ Power.reset with tripped := true, firmware := false, hot := [7] } : Power).tripped = true ∧ [7].filter (fun k => k != 7) = [] := by decide +kernel

/-- A message of 100 bytes that has been read and waits for its last deadline, and the fabric unit in a hold of `n` slots. -/
def message (copy : Option Nat) : Sent :=
  ⟨4, .prim, 1, 0, 0, 0, 7, 3, 64, 0, 100, 9, 1, 0, true, pad, 700, true, [[]], copy, true, false⟩
def holding (n : Nat) (mine overrun : Bool) : State :=
  { base with fabric := { Fabric.reset with
      member := true, hold := true, heldSlots := n, mine, overrun, slot := 8, sent := [message none], queue := [⟨4, 0, false, 700⟩] } }

theorem witness_FabricCounts :
    (holding 999 true true).fabric.hold = true ∧ 999 ≤ (holding 999 true true).fabric.heldSlots ∧ (holding 999 false true).fabric.slot ≠ 0 ∧
    (holding 3 false false).fabric.overrun = false ∧ Fabric.reset.hold = false ∧
    ({ Fabric.reset with member := true, overrun := true, slot := 7 } : Fabric).slot % 8 = 7 ∧
    [none, some 0, some 4].map (fun j => ({ Fabric.reset with cut := true, joining := j } : Fabric).joining) = [none, some 0, some 4] ∧
    (message none).copy = none ∧ (message (some 40)).copy = some 40 ∧ base.fabric.cut = false := by decide +kernel

/-- A one-byte message in one fragment for the session's page, well formed; the second of two fragments of another. -/
def fragment : Fragment :=
  let n := fragBytes 1 1
  let f : Fragment := ⟨3, 0, 1, 3, 0, 1, 0, 9, 7, 1, n, 5, BitVec.ofNat 64 vault, true, 0, List.replicate n 0x5A, List.replicate (headBytes n) 0⟩
  { f with crc := BitVec.ofNat 32 (let bs := fragmentBytes f; crc32c bs.length (ofBytes bs)) }
def second : Fragment :=
  let n := fragBytes 1 2
  let f : Fragment := ⟨3, 0, 1, 3, 1, 2, 0, 9, 7, 1, n, 5, BitVec.ofNat 64 vault, true, 0, List.replicate n 0x5A, List.replicate (headBytes n) 0⟩
  { f with crc := BitVec.ofNat 32 (let bs := fragmentBytes f; crc32c bs.length (ofBytes bs)) }

/-- The message of `fragment` in reception, and one of whose `k` fragments some have come. -/
def half : Reception := ⟨3, 3, 7, 1, 9, 1, fragBytes 1 1, 1, 0, 0, vault, true, false, false, true, []⟩
def receiving (rs : List Reception) : State := { wide with fabric := { Fabric.reset with rx := rs } }

/-- A fragment meets a message in reception: is there one, does it come too late, has it a buffer, is it a duplicate, the last? -/
def meeting (s : State) (f : Fragment) : Option (Bool × Bool × Bool × Bool) :=
  (s.fabric.rx.find? (sameMsg 3 3 7)).map (fun r => (r.asked && !f.cls.getLsbD 7, r.buf, r.frags.any (fun p => p.1 == f.index), r.frags.length + 1 == r.k))

set_option maxRecDepth 100000 in
theorem witness_FabricMessages :
    [fragment, second].all (fun f => fragmentHeader f && fragmentCrc f && (wide.fragSession f).isSome && (base.fragSession f).isNone) = true ∧
    (fragmentHeader fragment && fragmentCrc { fragment with crc := 0 }) = false ∧
    fragment.dest.toNat = base.fabric.device ∧ base.sessions.any (fun x => x.asid.toNat == fragment.asid.toNat) = true ∧ second.k ≠ 1 ∧
    (let s := receiving []
     s.fabric.rx.find? (sameMsg 3 3 7) = none ∧ s.fabric.doneMsgs = [] ∧ (s.fabric.rx.filter (·.buf)).length < 256) ∧
    256 ≤ ((receiving (List.replicate 256 { half with seq := 8 })).fabric.rx.filter (·.buf)).length ∧
    meeting (receiving [half]) fragment = some (false, true, false, true) ∧ half.offset % 64 = 0 ∧
    meeting (receiving [{ half with asked := true }]) fragment = some (true, true, false, true) ∧
    meeting (receiving [{ half with buf := false }]) fragment = some (false, false, false, true) ∧
    meeting (receiving [{ half with k := 3, frags := [(0, [])] }]) fragment = some (false, true, true, false) ∧
    meeting (receiving [{ half with k := 3, frags := [(0, [])] }]) second = some (false, true, false, false) ∧
    (receiving [half]).recvMatched 3 3 7 = false := by decide +kernel

theorem witness_FabricMessages_links :
    meeting (receiving [{ half with buf := false }]) second = some (false, false, false, true) ∧
    (base.service.isUp .villafel = true ∧ tethered.service.isUp .villafel = false) ∧
    ([(3, 3, 7, true), (3, 3, 7, false)] : List (Nat × Nat × Nat × Bool)).all (fun m =>
      [m].find? (fun x => x.1 == 3 && x.2.1 == 3 && x.2.2.1 == 7) == some m) = true := by decide +kernel

theorem witness_FabricMessages_others :
    half.deadline ≤ (receiving [half]).fabric.period ∧ half.retx = true ∧ half.want = false ∧
    (let s : State := { receiving [{ half with want := true, deadline := 1 }] with prim := { wide.prim with recvs := [⟨0, 3, 3, 9, pad, some 7⟩] } }
     s.recvMatched 3 3 7 = true ∧ s.synciBehind .prim 0 = false ∧ s.fabric.period < 1 ∧
     s.prim.recvs.find? (fun x => x.source == 3 && x.cls == 3 && x.seq == some 7) = some ⟨0, 3, 3, 9, pad, some 7⟩) ∧
    (message none).retx = true ∧ (message none).read = true ∧ (message none).asked = false ∧ (message none).frags ≠ [] ∧
    (let s := { copying 1 with fabric := { Fabric.reset with sent := [message (some 40)] } }
     (s.fabric.sent.find? (fun y => y.copy == some 40 && y.seq == (message (some 40)).seq && s.service.isUp .villafel)).isSome = true ∧
     (s.copies.find? (fun y => y.id == 40)).any (fun c => decide (c.done.length < c.total)) = true) := by decide +kernel

theorem witness_DeviceStarts :
    (starts 2 1).starting = true ∧ (starts 4 3).starting = true ∧ bare.starting = false ∧
    ({ starts 2 1 with cycle := 144000000000 } : State).service.started + 144000000000 ≤ 144000000000 ∧ base.hears 8 (asks 0) = true ∧
    base.probeRuns .V = true ∧ State.reset.probeRuns .I = true ∧ ({ State.reset with primMask := 0xFF } : State).probeRuns .I = false ∧
    (atWord .C ((encode (.waitg ⟨g0, q 16, .zero⟩)).getD 0)).probeRuns .C = false ∧ (atWord .C ((encode (.waitg ⟨g0, q 16, .zero⟩)).getD 0)).probeRuns .V = true ∧
    [(2, [(3, 7)]), (3, [(1, 5)]), (1, [])].map (fun x => [(3, 7), (1, 5)].filter (stageFinds x.1) == x.2) = [true, true, true] ∧
    ({ Service.ready with retired := [(4, 0), (4, 1), (4, 2), (4, 3)] } : Service).spent = true ∧ Service.ready.spent = false ∧
    [0, 2].map (fun n => ({ Service.ready with probeBad := [(3, 9, n)] } : Service).probeFails ⟨.V, 9, 1⟩ + 1) = [1, 3] := by decide +kernel

theorem witness_DeviceStarts_others :
    (let s : State := { bare with service := { bare.service with sweep := [(0, 3)] } }
     s.sweepProbe.any (fun p => p.sig == 3) = true ∧ (base.sweepProbe).isNone = true) ∧
    ({ starts 3 4 with service := { (starts 3 4).service with newImage := true } } : State).starting = true ∧
    tethered.service.health = .tethered ∧ (starts 0 3).service.health ≠ .tethered ∧ (starts 0 3).service.written = false ∧
    ({ Service.ready with inReset := true } : Service).inReset = true := by decide +kernel

/-- A probe finds what its signature says, or anything else. -/
theorem witness_DeviceStarts_probe (k : Slot) (sig : Nat) :
    (∃ p : Probe, p.slot = k ∧ p.lanes = Config.probeExpected p.slot.idx p.sig) ∧ ∃ p : Probe, p.slot = k ∧ p.lanes ≠ Config.probeExpected p.slot.idx p.sig :=
  ⟨⟨⟨k, sig, Config.probeExpected k.idx sig⟩, rfl, rfl⟩, ⟨k, sig, Config.probeExpected k.idx sig + 1⟩, rfl, Nat.succ_ne_self _⟩

end Sys2Proof.Tests
end

section
/-! PROOF. What the trap of a word does, and TRAP: the trap record read as its fields, the effect of a raised cause, and a word
that meets its own cause in a calm state. -/

namespace Sys2Proof.Machine

/-! ### Numbers packed of fields -/

/-- The number whose fields, lowest first, have these widths and values. -/
def packed : List (Nat × Nat) → Nat
  | [] => 0
  | (w, v) :: fs => v + packed fs * 2 ^ w

/-- The bits that a list of fields takes. -/
def packedWidth (fs : List (Nat × Nat)) : Nat := (fs.map Prod.fst).sum

/-- Every value fits its field. -/
def FieldsFit (fs : List (Nat × Nat)) : Prop := ∀ f ∈ fs, f.2 < 2 ^ f.1

theorem mul_pow_mul_pow (x m n : Nat) : x * 2 ^ m * 2 ^ n = x * 2 ^ (m + n) := by rw [Nat.pow_add, Nat.mul_assoc]

theorem packed_append (fs gs : List (Nat × Nat)) : packed (fs ++ gs) = packed fs + packed gs * 2 ^ packedWidth fs := by
  induction fs with
  | nil => simp [packed, packedWidth]
  | cons f fs ih =>
    simp only [List.cons_append, packed, ih, packedWidth, List.map_cons, List.sum_cons]
    rw [Nat.add_mul, Nat.add_assoc, mul_pow_mul_pow, Nat.add_comm f.1]

theorem packed_lt {fs : List (Nat × Nat)} (h : FieldsFit fs) : packed fs < 2 ^ packedWidth fs := by
  induction fs with
  | nil => simp [packed, packedWidth]
  | cons f fs ih =>
    have hf : f.2 < 2 ^ f.1 := h f (by simp)
    have hfs : packed fs + 1 ≤ 2 ^ packedWidth fs := ih fun g hg => h g (by simp [hg])
    calc packed (f :: fs) = f.2 + packed fs * 2 ^ f.1 := rfl
      _ < (packed fs + 1) * 2 ^ f.1 := by rw [Nat.succ_mul]; omega
      _ ≤ 2 ^ packedWidth fs * 2 ^ f.1 := Nat.mul_le_mul_right _ hfs
      _ = 2 ^ packedWidth (f :: fs) := by rw [← Nat.pow_add, Nat.add_comm]; rfl

theorem toNat_ofNat_packed {fs : List (Nat × Nat)} {n : Nat} (h : FieldsFit fs) (hn : packedWidth fs = n) :
    (BitVec.ofNat n (packed fs)).toNat = packed fs := by
  subst hn
  rw [BitVec.toNat_ofNat, Nat.mod_eq_of_lt (packed_lt h)]

theorem packed_singleton (w v : Nat) : packed [(w, v)] = v := by simp [packed]

/-- Each field of a packed number reads its value. -/
theorem packed_field {fs : List (Nat × Nat)} (h : FieldsFit fs) {k w v : Nat} (hk : fs[k]? = some (w, v)) :
    packed fs / 2 ^ packedWidth (fs.take k) % 2 ^ w = v := by
  induction fs generalizing k with
  | nil => simp at hk
  | cons f fs ih =>
    have hf : f.2 < 2 ^ f.1 := h f (by simp)
    have e : packed (f :: fs) = f.2 + packed fs * 2 ^ f.1 := rfl
    cases k with
    | zero =>
      obtain rfl : f = (w, v) := by simpa using hk
      rw [e, List.take_zero]
      simpa [packedWidth] using Nat.mod_eq_of_lt hf
    | succ k =>
      have hw : packedWidth ((f :: fs).take (k + 1)) = f.1 + packedWidth (fs.take k) := by simp [packedWidth]
      rw [hw, Nat.pow_add, ← Nat.div_div_eq_div_mul, e, Nat.add_mul_div_right _ _ (Nat.two_pow_pos _), Nat.div_eq_of_lt hf,
        Nat.zero_add]
      exact ih (fun g hg => h g (by simp [hg])) (by simpa using hk)

/-! ### CRC-32C fits 32 bits (R102) -/

theorem crcBit_lt {c : Nat} (h : c < 2 ^ 32) : crcBit c < 2 ^ 32 := by
  have hs : c >>> 1 < 2 ^ 32 := by rw [Nat.shiftRight_eq_div_pow]; omega
  unfold crcBit
  split
  · exact Nat.xor_lt_two_pow hs (by decide)
  · exact hs

theorem crcByte_lt {c b : Nat} (hc : c < 2 ^ 32) (hb : b < 256) : crcByte c b < 2 ^ 32 := by
  have hx : c ^^^ b < 2 ^ 32 := Nat.xor_lt_two_pow hc (by omega)
  unfold crcByte
  iterate 8 apply crcBit_lt
  exact hx

theorem crcRun_lt (n x : Nat) {c : Nat} (h : c < 2 ^ 32) : crcRun n x c < 2 ^ 32 := by
  induction n generalizing x c with
  | zero => exact h
  | succ n ih => exact ih _ (crcByte_lt h (Nat.mod_lt _ (by decide)))

theorem crc32c_lt (n x : Nat) : crc32c n x < 2 ^ 32 := Nat.xor_lt_two_pow (crcRun_lt n x (by decide)) (by decide)

/-! ### The trap record (R340) -/

/-- The fields of a trap record before its CRC, lowest first. -/
def State.recordBody (s : State) (i : Sid) (c : Cause) : List (Nat × Nat) :=
  let t := s.str i
  [(8, c.code.num), (8, c.sub % 256), (8, c.slot % 256), (1, (i == .sec).toNat), (1, t.sc.delay.isSome.toNat),
   (1, c.replay.toNat), (1, c.pending.toNat), (4, 0), (16, t.segId.toNat), (16, s.coreNo.toNat), (64, t.sc.pc.toNat),
   (64, (t.sc.delay.map (·.toNat)).getD 0), (64, c.addr % 2 ^ 64), (64, c.aux % 2 ^ 64), (64, t.task.param.toNat),
   (64, s.cycle.toNat), (16, t.task.asid.toNat), (10, t.task.member.toNat), (2, 0), (4, t.task.gslot.toNat)]

/-- The fields of a trap record, lowest first. -/
def State.recordFields (s : State) (i : Sid) (c : Cause) : List (Nat × Nat) :=
  s.recordBody i c ++ [(32, crc32c 60 (packed (s.recordBody i c)))]

/-- The widths of a trap record's fields. -/
def recordWidths : List Nat := [8, 8, 8, 1, 1, 1, 1, 4, 16, 16, 64, 64, 64, 64, 64, 64, 16, 10, 2, 4, 32]

theorem recordFields_widths (s : State) (i : Sid) (c : Cause) : (s.recordFields i c).map Prod.fst = recordWidths := rfl

theorem packedWidth_recordBody (s : State) (i : Sid) (c : Cause) : packedWidth (s.recordBody i c) = 480 := by
  simp [packedWidth, State.recordBody]

theorem packedWidth_recordFields (s : State) (i : Sid) (c : Cause) : packedWidth (s.recordFields i c) = 512 := by
  rw [packedWidth, recordFields_widths]
  decide

/-- The flag bits of a record are four fields of one bit. -/
theorem record_flags (i : Sid) (d r p : Bool) :
    (if i = .sec then 1 else 0) + (if d then 2 else 0) + (if r then 4 else 0) + (if p then 8 else 0) =
      (i == .sec).toNat + d.toNat * 2 ^ 1 + r.toNat * 2 ^ 2 + p.toNat * 2 ^ 3 := by
  cases i <;> cases d <;> cases r <;> cases p <;> rfl

/-- The number that a trap record holds before its CRC is the one of its fields. -/
theorem packed_recordBody (s : State) (i : Sid) (c : Cause) :
    let t := s.str i
    packed (s.recordBody i c) = c.code.num + c.sub % 256 * 2 ^ 8 + c.slot % 256 * 2 ^ 16 +
      ((if i = .sec then 1 else 0) + (if t.sc.delay.isSome then 2 else 0) + (if c.replay then 4 else 0) +
        (if c.pending then 8 else 0)) * 2 ^ 24 + t.segId.toNat * 2 ^ 32 + s.coreNo.toNat * 2 ^ 48 + t.sc.pc.toNat * 2 ^ 64 +
      ((t.sc.delay.map (·.toNat)).getD 0) * 2 ^ 128 + c.addr % 2 ^ 64 * 2 ^ 192 + c.aux % 2 ^ 64 * 2 ^ 256 +
      t.task.param.toNat * 2 ^ 320 + s.cycle.toNat * 2 ^ 384 + t.task.asid.toNat * 2 ^ 448 +
      (t.task.member.toNat + t.task.gslot.toNat * 2 ^ 12) * 2 ^ 464 := by
  dsimp only
  rw [record_flags]
  conv =>
    lhs
    simp only [State.recordBody, packed, Nat.zero_mul, Nat.zero_add, Nat.add_zero]
  simp only [Nat.add_mul, mul_pow_mul_pow, Nat.reduceAdd, Nat.add_assoc]

theorem trapRecord_eq_packed (s : State) (i : Sid) (c : Cause) :
    s.trapRecord i c = BitVec.ofNat 512 (packed (s.recordFields i c)) := by
  rw [State.recordFields, packed_append, packed_singleton, packedWidth_recordBody, packed_recordBody, State.trapRecord]

theorem TrapCode.num_lt (c : TrapCode) : c.num < 2 ^ 8 := by cases c <;> decide

theorem delayTarget_lt (d : Option W64) : (d.map (·.toNat)).getD 0 < 2 ^ 64 := by
  cases d with
  | none => decide
  | some a => exact a.isLt

theorem recordBody_fit (s : State) (i : Sid) (c : Cause) : FieldsFit (s.recordBody i c) := by
  have bool (b : Bool) : b.toNat < 2 ^ 1 := b.toNat_lt
  have word (x : W64) : x.toNat < 2 ^ 64 := x.isLt
  have hcore : s.coreNo.toNat < 2 ^ 16 := by omega
  have hasid : (s.str i).task.asid.toNat < 2 ^ 16 := by omega
  simp only [FieldsFit, State.recordBody, List.forall_mem_cons, List.not_mem_nil, false_implies, implies_true, and_true]
  exact ⟨c.code.num_lt, Nat.mod_lt _ (by decide), Nat.mod_lt _ (by decide), bool _, bool _, bool _, bool _, by decide,
    BitVec.isLt _, hcore, word _, delayTarget_lt _, Nat.mod_lt _ (by decide), Nat.mod_lt _ (by decide), word _, word _, hasid,
    BitVec.isLt _, by decide, BitVec.isLt _⟩

theorem recordFields_fit (s : State) (i : Sid) (c : Cause) : FieldsFit (s.recordFields i c) := by
  intro f hf
  rcases List.mem_append.mp hf with hf | hf
  · exact recordBody_fit s i c f hf
  · obtain rfl := List.mem_singleton.mp hf
    exact crc32c_lt _ _

theorem trapRecord_toNat (s : State) (i : Sid) (c : Cause) : (s.trapRecord i c).toNat = packed (s.recordFields i c) := by
  rw [trapRecord_eq_packed, toNat_ofNat_packed (recordFields_fit s i c) (packedWidth_recordFields s i c)]

/-- Each field of the trap record reads its value. -/
theorem trapRecord_field (s : State) (i : Sid) (c : Cause) {k lo w v : Nat} (hk : (s.recordFields i c)[k]? = some (w, v))
    (hlo : (recordWidths.take k).sum = lo) : ((s.trapRecord i c).extractLsb' lo w).toNat = v := by
  have h := packed_field (recordFields_fit s i c) hk
  rw [packedWidth, List.map_take, recordFields_widths, hlo] at h
  rw [BitVec.extractLsb'_toNat, trapRecord_toNat, Nat.shiftRight_eq_div_pow, h]

theorem trapRecord_bit (s : State) (i : Sid) (c : Cause) {k lo : Nat} {b : Bool}
    (hk : (s.recordFields i c)[k]? = some (1, b.toNat)) (hlo : (recordWidths.take k).sum = lo) :
    (s.trapRecord i c).getLsbD lo = b := by
  have h := trapRecord_field s i c hk hlo
  rw [BitVec.extractLsb'_toNat, Nat.shiftRight_eq_div_pow] at h
  rw [BitVec.getLsbD, Nat.testBit_eq_decide_div_mod_eq, ← Nat.pow_one 2, h]
  cases b <;> rfl

/-- What the record's CRC covers. -/
theorem trapRecord_covered (s : State) (i : Sid) (c : Cause) : (s.trapRecord i c).toNat % 2 ^ 480 = packed (s.recordBody i c) := by
  have h := packed_lt (recordBody_fit s i c)
  rw [packedWidth_recordBody] at h
  rw [trapRecord_toNat, State.recordFields, packed_append, packedWidth_recordBody, Nat.add_mul_mod_self_right]
  exact Nat.mod_eq_of_lt h

/-- A trap's record holds what R340 says. -/
theorem trapRecord_holds (s : State) (i : Sid) (c : Cause) : RecordOf s i c (s.trapRecord i c) := by
  have crc : ((s.trapRecord i c).extractLsb' (8 * 60) 32).toNat = crc32c 60 ((s.trapRecord i c).toNat % 2 ^ 480) := by
    rw [trapRecord_covered]
    exact trapRecord_field s i c (k := 20) rfl rfl
  exact ⟨trapRecord_field s i c (k := 0) rfl rfl, trapRecord_field s i c (k := 1) rfl rfl,
    trapRecord_field s i c (k := 2) rfl rfl, trapRecord_bit s i c (k := 3) rfl rfl, trapRecord_bit s i c (k := 4) rfl rfl,
    trapRecord_bit s i c (k := 5) rfl rfl, trapRecord_bit s i c (k := 6) rfl rfl, trapRecord_field s i c (k := 7) rfl rfl,
    trapRecord_field s i c (k := 8) rfl rfl, trapRecord_field s i c (k := 9) rfl rfl, trapRecord_field s i c (k := 10) rfl rfl,
    trapRecord_field s i c (k := 11) rfl rfl, trapRecord_field s i c (k := 12) rfl rfl, trapRecord_field s i c (k := 13) rfl rfl,
    trapRecord_field s i c (k := 14) rfl rfl, trapRecord_field s i c (k := 15) rfl rfl, trapRecord_field s i c (k := 16) rfl rfl,
    trapRecord_field s i c (k := 17) rfl rfl, trapRecord_field s i c (k := 18) rfl rfl, trapRecord_field s i c (k := 19) rfl rfl, crc⟩

/-! ### Taking a trap (R338, R339) -/

/-- A stream that stops at a trap, with its record and the cycle in which the service acts on it. -/
def Stream.atTrap (c : Cause) (r : BitVec 512) (at' : Nat) (t : Stream) : Stream :=
  { t with
    status := .trapped, record := some r, actAt := at', la := [], lb := [], wait := none, lateAt := none, presented := false,
    replay := none, error := none, consumed := if c.rank = 1 then t.consumed else none }

/-- A stream after a cause of its own is raised: it is due no longer (R202, R339). -/
def Stream.delivered (c : Cause) (t : Stream) : Stream :=
  { t with
    refreshDue := if c.code = .refreshLate then none else t.refreshDue
    holdTmo := if c.code = .fabricHoldTimeout then none else t.holdTmo
    losses := if c.code = .fabricLoss ∧ c.rank = 1 then t.losses.drop 1 else t.losses
    xfault := if c.pending then none else t.xfault }

/-- The two entries of a trap record in the black box, newest first (R340, R366). -/
def State.recordEntries (s : State) (r : BitVec 512) : List BBEntry :=
  [⟨2, r.extractLsb' 256 256, Config.ptpTime s.now, s.bbCount + 1⟩, ⟨1, r.extractLsb' 0 256, Config.ptpTime s.now, s.bbCount⟩]

theorem take_cons_take {α : Type} (n : Nat) (a : α) (l : List α) : (a :: l.take n).take n = (a :: l).take n := by
  cases n with
  | zero => rfl
  | succ n => simp [List.take_take]

theorem bbPut_record (s : State) (r : BitVec 512) :
    (s.bbPut 1 (r.extractLsb' 0 256)).bbPut 2 (r.extractLsb' 256 256) =
      { s with bb := (s.recordEntries r ++ s.bb).take 4096, bbCount := s.bbCount + 2 } := by
  have hn : s.bbCount + 1 + 1 = s.bbCount + 2 := BitVec.add_assoc ..
  simp only [State.bbPut, take_cons_take, hn, State.now]
  rfl

theorem setStr_record (s : State) (i : Sid) (t : Stream) (b : List BBEntry) (n : BitVec 32) (f : Nat) :
    ({ s with bb := b, bbCount := n, free := f } : State).setStr i t = { s.setStr i t with bb := b, bbCount := n, free := f } := by
  cases i <;> rfl

theorem str_record (s : State) (i : Sid) (b : List BBEntry) (n : BitVec 32) (f : Nat) :
    ({ s with bb := b, bbCount := n, free := f } : State).str i = s.str i := by
  cases i <;> rfl

/-- A trap stops its stream with the record, and the black box keeps the record. -/
theorem takeTrap_eq (s : State) (i : Sid) (c : Cause) :
    s.takeTrap i c =
      { s.setStr i ((s.str i).atTrap c (s.trapRecord i c) (s.now + 1 + Config.serviceDelay s.free)) with
        bb := (s.recordEntries (s.trapRecord i c) ++ s.bb).take 4096, bbCount := s.bbCount + 2, free := s.free + 1 } := by
  simp only [State.takeTrap, bbPut_record, State.modStr, State.drawn, setStr_record, str_record]
  rfl

/-- A raised cause that starts no rewind and takes no kept loss (R318, R356) is a trap of the stream at issue. -/
theorem raise_eq_takeTrap (s : State) (c : Cause) (h9 : c.rank ≠ 9) (hl : ¬(c.code = .fabricLoss ∧ c.rank = 11)) :
    s.raise c = (s.setStr s.cur (s.me.delivered c)).takeTrap s.cur c := by
  simp only [State.raise, h9, hl, if_false]
  rfl

theorem trapRecord_delivered (s : State) (c : Cause) :
    (s.setStr s.cur (s.me.delivered c)).trapRecord s.cur c = s.trapRecord s.cur c := by
  simp only [State.trapRecord, State.str_setStr_self, State.setStr_coreNo, State.setStr_cycle]
  rfl

theorem State.setStr_me (s : State) : s.setStr s.cur s.me = s := State.setStr_str s s.cur

theorem recordEntries_setStr (s : State) (i : Sid) (t : Stream) (r : BitVec 512) :
    (s.setStr i t).recordEntries r = s.recordEntries r := by cases i <;> rfl

/-- Such a cause has the whole effect that R338 and R340 give a trap, and no other. -/
theorem raise_traps (s : State) (c : Cause) (h9 : c.rank ≠ 9) (hl : ¬(c.code = .fabricLoss ∧ c.rank = 11)) :
    Traps s (s.raise c) c := by
  have e := takeTrap_eq (s.setStr s.cur (s.me.delivered c)) s.cur c
  rw [← raise_eq_takeTrap s c h9 hl, trapRecord_delivered, State.str_setStr_self, State.setStr_setStr, recordEntries_setStr] at e
  rw [e]
  unfold Traps
  have hr := trapRecord_holds s s.cur c
  generalize s.trapRecord s.cur c = r at hr ⊢
  refine ⟨r, s.now + 1 + Config.serviceDelay s.free, ⟨1, r.extractLsb' 0 256, Config.ptpTime s.now, s.bbCount⟩,
    ⟨2, r.extractLsb' 256 256, Config.ptpTime s.now, s.bbCount + 1⟩, hr, by omega, ?_, ?_, rfl, rfl, rfl, rfl, ?_⟩
  · rw [str_record, State.str_setStr_self]
    simp [Stream.atTrap, Stream.delivered, State.now]
  · simp [State.recordEntries]
  · rw [setStr_record, State.setStr_setStr, State.setStr_me]
    simp

/-! ### A word in a calm state (R381) -/

/-- What a calm state is: nothing but its own words keeps a bundle from issuing. -/
theorem State.calm_spec (s : State) (h : s.calm = true) :
    s.me.wait = none ∧ s.me.replay = none ∧ dueCauses s.me = [] ∧ s.held = false ∧ s.me.waits2 ≤ s.now ∧ s.me.holdUntil ≤ s.now ∧
    s.tagging s.cur = false ∧ s.me.ckptDue = none ∧ s.me.error = none ∧ s.overdue s.cur = false ∧
    (s.me.preempt && s.me.atSafe) = false ∧ s.me.consumed = none := by
  simpa only [State.calm, Bool.and_eq_true, Bool.not_eq_true', Option.isNone_iff_eq_none, List.isEmpty_iff, decide_eq_true_eq,
    and_assoc] using h

/-- A word that is no branch, LOOP or END and is idempotent meets no composition cause (R48, R83, R86). -/
theorem compositionCauses_none (w : WordSem) (t : Stream) (hdr : W32) (hn : w.nonIdem = false) (hb : w.branch = false)
    (hl : w.loopEnd = false) : compositionCauses [w] t hdr = [] := by
  simp [compositionCauses, hn, hb, hl]

/-- In a calm state a word without sources, discards, accesses and stalls of its own does not stall (R381). -/
theorem bundleStalls_calm (s : State) (w : WordSem) (h : s.calm = true) (hsrc : w.srcs = []) (hd : w.drops = [])
    (hst : w.stalls s = false) (ho : w.ops s = []) : s.bundleStalls [w] = false := by
  obtain ⟨-, hr, -, hheld, hw2, hhu, htag, hck, -, hod, hps, -⟩ := s.calm_spec h
  simp [State.bundleStalls, State.dropStalls, hr, hheld, hw2, hhu, htag, hck, hod, hps, hsrc, hd, hst, ho]

/-- In a calm state a word that does not stall, in a bundle of legal composition, reaches its own causes. -/
theorem reaches_calm (s : State) (w : WordSem) (h : s.calm = true) (hg : guardHolds w.guard s.me = true)
    (hk : compositionCauses [w] s.me s.bundle.hdr = []) (hst : s.bundleStalls [w] = false) (hp : w.probes s = []) :
    s.reaches w = true := by
  obtain ⟨hw, hr, hdue, -, -, -, -, -, he, -, -, -⟩ := s.calm_spec h
  simp [State.reaches, State.probesAfar, dueAt, hg, he, hw, hr, hdue, hk, hst, hp]

/-! ### TRAP (R101) -/

theorem semTrap_reaches (o : CNT) (s : State) (h : s.calm = true) (hg : guardHolds o.g s.me = true) :
    s.reaches (semTrap o) = true :=
  reaches_calm s (semTrap o) h hg (compositionCauses_none _ _ _ rfl rfl rfl) (bundleStalls_calm s _ h rfl rfl rfl rfl) rfl

/-- SOFTWARE with the immediate is the one cause of a TRAP alone in its bundle. -/
theorem semTrap_mainCauses (o : CNT) (s : State) (h : s.calm = true) :
    s.mainCauses [semTrap o] = [{ rank := 10, slot := 0, code := .software, aux := o.imm.toNat }] := by
  obtain ⟨-, -, -, -, -, -, -, -, -, -, -, hc⟩ := s.calm_spec h
  rw [State.mainCauses, hc]
  rfl

theorem exec_trap_traps (o : CNT) (s : State) (h : s.calm = true) (hg : guardHolds o.g s.me = true) :
    ∃ t, exec (.trap o) s = .next t ∧ Traps s t { rank := 10, slot := 0, code := .software, aux := o.imm.toNat } := by
  refine ⟨_, ?_, raise_traps s _ (by simp) (by simp)⟩
  rw [exec_of_semOf (.trap o) (semTrap o) s rfl]
  exact runWord_cause (semTrap o) s _ (semTrap_reaches o s h hg) (by rw [semTrap_mainCauses o s h]; rfl)

/-! ### The words of TRAP (R56, R68) -/

/-- A mask of `n` bits from `lo` finds a word's bits there. -/
theorem and_mask_eq_zero (w : W32) (lo n : Nat) : w.toNat &&& (2 ^ n - 1) <<< lo = 0 ↔ bits w lo n = 0 := by
  constructor
  · intro h
    apply BitVec.eq_of_getLsbD_eq
    intro j hj
    have hb := congrArg (Nat.testBit · (lo + j)) h
    simpa [hj, BitVec.getLsbD] using hb
  · intro h
    apply Nat.eq_of_testBit_eq
    intro j
    have hb := congrArg (BitVec.getLsbD · (j - lo)) h
    by_cases hlo : lo ≤ j
    · by_cases hn : j - lo < n
      · simpa [hlo, hn, BitVec.getLsbD] using hb
      · simp [hn]
    · simp [hlo]

/-- Outside the never-guard a word of the C slot with a nonzero OPC is what the slot's map says (R56, R57). -/
theorem decode_C (w : W32) (ho : bits w 26 6 ≠ 0) (hg : ¬(bitAt w 25 = true ∧ bits w 21 4 = 0)) : decode .C w = decodeC w := by
  have hw : w ≠ 0 := by rintro rfl; exact ho (by decide)
  have hn : (bitAt w 25 && bits w 21 4 == 0) = false := by simpa using hg
  simp only [decode, hw, ho, hn, if_false, Bool.false_eq_true]

theorem decodeC_trap (w : W32) (h : bits w 26 6 = 16) :
    decodeC w = if bits w 16 5 = 0 then .instr (.trap ⟨⟨bitAt w 25, bits w 21 4⟩, bits w 0 16⟩) else .bad .illegalField := by
  have hz : w.toNat &&& 0x1F0000 = 0 ↔ bits w 16 5 = 0 := and_mask_eq_zero w 16 5
  have ho : (bits w 26 6).toNat = 16 := by rw [h]; rfl
  unfold decodeC
  rw [ho]
  show parse w 0x1F0000 (okCNT w) (.trap (decCNT w)) = _
  by_cases h0 : bits w 16 5 = 0
  · rw [if_pos h0]
    simp [parse, hz.mpr h0, Instr.fieldOk, Instr.operandOk, okCNT, decCNT, decGuard]
  · rw [if_neg h0, parse, if_pos (fun e => h0 (hz.mp e))]

/-- Settles O14: a calm state lets TRAP meet its one cause, SOFTWARE, which is raised at its bundle; its words are those of OPC 16
whose bits [20:16] are zero. -/
theorem trapWord : Obligations.TrapWord := by
  refine ⟨fun s o h hg => exec_trap_traps o s h hg, fun w ho hg => ?_, by decide⟩
  rw [decode_C w (by rw [ho]; decide) hg, decodeC_trap w ho]

end Sys2Proof.Machine
end

section
/-! PROOF. Words of the integer slots I and J: the operation code of a word that decodes, a word that issues with the one result
of its two sources or the one predicate it writes, and by these LEA and PLOG. -/

namespace Sys2Proof.Machine

/-! ### The map of the integer slots (R56, R69) -/

/-- The operation code of an instruction's word. -/
def opcOf (i : Instr) : Option (BitVec 6) := (encode i).map (bits · 26 6)

/-- What a word is, is an instruction with the operation code `c`, if it is one at all. -/
def OpcIs (c : BitVec 6) (d : Dec) : Prop := ∀ i, d = .instr i → opcOf i = some c

/-- The top of a word holds its operation code. -/
theorem bits_encTop (opc : BitVec 6) (g : Guard) (x : BitVec 21) : bits (encTop opc g ++ x) 26 6 = opc := by
  apply BitVec.eq_of_getLsbD_eq
  intro j hj
  have h1 : ¬ 26 + j < 21 := by omega
  have h2 : ¬ 26 + j - 21 < 4 := by omega
  have h3 : ¬ 26 + j - 21 - 4 < 1 := by omega
  have h4 : 26 + j - 21 - 4 - 1 = j := by omega
  rw [BitVec.getLsbD_extractLsb', encTop]
  simp only [BitVec.getLsbD_append, hj, h1, h2, h3, h4, decide_true, Bool.true_and, if_false]

/-- A listed operation's word is that operation, if it is an instruction. -/
theorem eq_of_parse {w : W32} {z : Nat} {l : Bool} {i j : Instr} (h : parse w z l i = .instr j) : i = j := by
  unfold parse at h
  iterate 4
    split at h
    · exact nomatch h
  exact Dec.instr.inj h

theorem opcIs_parse {w : W32} {z n : Nat} {l : Bool} {i : Instr} (hn : (bits w 26 6).toNat = n)
    (hi : opcOf i = some (BitVec.ofNat 6 n)) : OpcIs (bits w 26 6) (parse w z l i) := by
  intro j h
  rw [← eq_of_parse h, hi, ← hn, BitVec.ofNat_toNat, BitVec.setWidth_eq]

theorem opcIs_bad (c : BitVec 6) (e : DecErr) : OpcIs c (.bad e) := fun _ h => nomatch h

theorem opcIs_ite_bad {p : Prop} [Decidable p] {c : BitVec 6} {e : DecErr} {d : Dec} (h : OpcIs c d) :
    OpcIs c (if p then .bad e else d) := by
  split
  · exact opcIs_bad c e
  · exact h

/-- A row of the map the integer slots share is illegal, for J alone, or for both. -/
theorem decodeIJ_opc (sl : ISlot) (w : W32) : OpcIs (bits w 26 6) (decodeIJ sl w) := by
  unfold decodeIJ
  dsimp only
  split
  case h_48 => exact opcIs_bad _ _
  case h_36 hn | h_37 hn | h_38 hn | h_39 hn | h_40 hn | h_41 hn | h_42 hn | h_43 hn | h_44 hn | h_45 hn | h_46 hn | h_47 hn =>
    exact opcIs_ite_bad (opcIs_parse hn (congrArg some (bits_encTop _ _ _)))
  all_goals
    next hn => exact opcIs_parse hn (congrArg some (bits_encTop _ _ _))

/-- An instruction of an integer slot stands in the map of these slots. -/
theorem decodeIJ_of_decode {sl : ISlot} {w : W32} {i : Instr} (h : decode sl.slot w = .instr i) : decodeIJ sl w = .instr i := by
  unfold decode at h
  iterate 3
    split at h
    · exact nomatch h
  cases sl <;> exact h

/-- A word of an integer slot has the operation code of its instruction. -/
theorem opc_of_decode {sl : ISlot} {w : W32} {i : Instr} {c : BitVec 6} (hi : opcOf i = some c)
    (h : decode sl.slot w = .instr i) : bits w 26 6 = c :=
  Option.some.inj ((decodeIJ_opc sl w i (decodeIJ_of_decode h)).symm.trans hi)

theorem opcOf_lea (o : IA) : opcOf (.lea o) = some 25 := congrArg some (bits_encTop _ _ _)

theorem opcOf_plog (o : IP) : opcOf (.plog o) = some 27 := congrArg some (bits_encTop _ _ _)

theorem decodeIJ_lea (sl : ISlot) (w : W32) (h : bits w 26 6 = 25) :
    decodeIJ sl w = parse w 0 (okIA w) (.lea (decIA sl w)) := by
  unfold decodeIJ
  rw [h]
  rfl

/-- The operands of an LEA are those of its format. -/
theorem lea_operands {sl : ISlot} {w : W32} {o : IA} (h : decode sl.slot w = .instr (.lea o)) : o = decIA sl w := by
  have hd := decodeIJ_of_decode h
  rw [decodeIJ_lea sl w (opc_of_decode (opcOf_lea o) h)] at hd
  exact (Instr.lea.inj (eq_of_parse hd)).symm

/-! ### A word that issues (R80, R381) -/

theorem issues_of_ready {i : Instr} {w : WordSem} {s : State} (hw : semOf i = some w) (h : s.ready i = true) :
    s.issues w = true := by
  simpa only [State.ready, hw, Option.any_some] using h

/-- A word of two sources lands its function of what they read at issue. -/
theorem exec_iaWord {i : Instr} {o : IA} {f : W64 → W64 → W64} {lat : Nat} {s : State} (hw : semOf i = some (iaWord i o f lat))
    (h : s.ready i = true) :
    ∃ t, exec i s = .next t ∧ Lands s t [o.a, o.b] o.slot.slot o.d (f (s.read o.a) (s.read o.b)) lat := by
  have hl := exec_lands (v := fun p => f (p.read o.a) (p.read o.b)) ⟨rfl, rfl, rfl, rfl⟩ hw
    ⟨rfl, rfl, rfl, fun _ => rfl, fun _ => rfl, fun _ => rfl, fun _ => rfl⟩ (fun _ _ => rfl) (issues_of_ready hw h)
  simp only [read_set] at hl
  exact hl

/-- A plain word whose act makes the scalar state `c`, whatever its pops leave in the queues. -/
theorem exec_writesScalars {i : Instr} {w : WordSem} {s : State} {f : State → Scalars → Scalars} {c : Scalars}
    (hk : w.Unmarked) (hw : semOf i = some w) (hp : w.Plain) (ha : ∀ p u, w.act p u = u.modSc (f p))
    (hf : ∀ m, f s.set { s.me.sc with queues := m } = { c with queues := m })
    (hq : c.queues = s.me.sc.queues) (hrb : c.rb = s.me.sc.rb) (hi : s.issues w = true) :
    ∃ t, exec i s = .next t ∧ WritesScalars s t w.srcs (some c) := by
  obtain ⟨t, h1, h2, h3, -⟩ := exec_becomes (u := s) (a := { s.me with sc := c }) (q := s.seq) (f := s.free) (j := s.jump)
    (fl := s.me.flights) hw hp hi (fun t => { t with sc := f s.set t.sc })
    (by
      rw [ha]
      simp only [State.entered, State.modSc, State.modMe_modMe]
      cases s with | mk => rename_i cur _ _ _ _ _ _ _; cases cur <;> rfl)
    rfl rfl ⟨hq, rfl, hrb, rfl, rfl⟩ (fun m n => by simp only [hf])
  obtain ⟨k1, k2, k3, k4⟩ := hk
  rw [k1, k2, k3, k4] at h2
  exact ⟨t, h1, c, rfl, h2, h3⟩

/-- A plain word whose act writes one predicate (R27, R117). -/
theorem exec_writesPred {i : Instr} {w : WordSem} {s : State} {p : BitVec 4} {v : State → Bool} (hk : w.Unmarked)
    (hw : semOf i = some w) (hp : w.Plain) (ha : ∀ pre u, w.act pre u = u.writePred pre p (v pre)) (h : s.ready i = true) :
    ∃ t, exec i s = .next t ∧ WritesPred s t w.srcs p (v s.set) := by
  obtain ⟨t, h1, h2⟩ := exec_writesScalars (s := s)
    (c := { s.me.sc with preds := setPred s.me.sc.preds (physP s.me.sc.rb p.toNat) (v s.set) })
    (f := fun pre c => { c with preds := setPred c.preds (physP pre.me.sc.rb p.toNat) (v pre) })
    hk hw hp ha (fun m => by rw [State.me_set]) rfl rfl (issues_of_ready hw h)
  refine ⟨t, h1, _, h2, fun k hk16 => ?_⟩
  rw [getLsbD_setPred _ _ _ _ (physP_lt _ _ p.isLt) hk16]
  by_cases hkp : k = physP s.me.sc.rb p.toNat
  · rw [← hkp]
  · simp only [hkp, false_and]

/-! ### LEA (R111) -/

/-- A base plus a scaled index, wrapped once at the end. -/
theorem add_mul_scale (a b : W64) (m : Bool) :
    a + b * (if m then 64 else 8) = BitVec.ofNat 64 (a.toNat + b.toNat * (if m then 64 else 8)) := by
  rw [BitVec.ofNat_add, BitVec.ofNat_mul, BitVec.ofNat_toNat, BitVec.ofNat_toNat, BitVec.setWidth_eq, BitVec.setWidth_eq]
  cases m <;> rfl

/-- Settles O17: LEA is a word of two sources whose function is the base plus the scaled index; its words are those of OPC 25, whose
bit 0 is M. -/
theorem leaWord : Obligations.LeaWord := by
  refine ⟨fun s o h => ?_, fun sl => by cases sl <;> decide, fun sl w o h => ⟨opc_of_decode (opcOf_lea o) h, ?_⟩⟩
  · rw [← add_mul_scale]
    exact exec_iaWord rfl h
  · rw [lea_operands h]
    rfl

/-! ### PLOG (R116) -/

theorem pred_set (s : State) (p : BitVec 4) : s.set.me.pred p = s.me.pred p := by
  rw [State.me_set]
  rfl

/-- Settles O19: PLOG is a word that writes one predicate, with the bit of its table that the predicates it reads at issue name; its
words are those of OPC 27. -/
theorem plogWord : Obligations.PlogWord := by
  refine ⟨fun s o h => ?_, by decide, fun sl => by cases sl <;> decide, fun sl w o h => opc_of_decode (opcOf_plog o) h⟩
  have hw := exec_writesPred (w := semPlog o) (p := o.pd) (v := fun pre => plogBit o.tt (pre.me.pred o.pa) (pre.me.pred o.pb))
    ⟨rfl, rfl, rfl, rfl⟩ rfl ⟨rfl, rfl, rfl, fun _ => rfl, fun _ => rfl, fun _ => rfl, fun _ => rfl⟩ (fun _ _ => rfl) h
  simp only [pred_set] at hw
  exact hw

end Sys2Proof.Machine
end
